-- ==== Sys2Proof/Word.lean ====
section
/-!
DEFINITION. The word types of the OVM-1 and their plainest arithmetic: bytes, the 16-, 32- and 64-bit words of
registers and packets, and sparse tables (finite maps held as rising lists), which hold everything the device has
very many of (bytes of memory, lanes of registers, cores, contexts). R7 (bit 0 is the least significant), R8
(little-endian).
-/

namespace Sys2Proof

abbrev Byte := BitVec 8
abbrev W16 := BitVec 16
abbrev W32 := BitVec 32
abbrev W64 := BitVec 64

/-- A sparse table from numbers to values, its keys strictly rising. An
absent key holds the default. -/
abbrev Tab (α : Type) := List (Nat × α)

/-- Host or steward function: 0 is the PF, 1 to 64 the VFs, 65 the steward itself. -/
abbrev Fn := Nat

end Sys2Proof
end

