-- ==== Sys2Proof/Syntax.lean ====
section
/-!
DEFINITION. The commands of the OVM-1: one constructor of `Instr` for each row of spec/opcode_table.json, in the
table's order, with the operands the row's event brings from outside the device. What an operand cannot bring, the
meaning reads from the state (an instruction word from instruction memory, a plan from its staging bytes, a packet
from a port's received packets). An operand that is a pair carries, beside the number that it names, what the codes of the
words that the command reads show, or the port that a management request comes over.
-/

namespace Sys2Proof

/-- The four 64-bit write-only command registers of R538. -/
inductive CmdReg where
  | xl | peg | pack | dbg
deriving DecidableEq, Repr

/-- A write that starts a 64-bit command (R538): one 64-bit write, or the 32-bit write to bits [63:32]. -/
inductive CmdWrite where
  | full (v : W64)
  | high (v : W32)
deriving DecidableEq, Repr

/-- What a SECDED or parity code saw on the access that the command performs (R256, R263, R267, R279). -/
inductive EccObs where
  | clean | corrected | uncorrectable | tag | tagCorrected
deriving DecidableEq, Repr

/-- A chain frame (R45): header fields, payload bytes, CRC as received, stop bit as received. -/
structure ChainFrame where
  typ : BitVec 4
  dest : BitVec 12
  src : BitVec 12
  payload : List Byte
  crc : W16
  stop : Bool
deriving DecidableEq, Repr

/-- A fabric packet (R414): every header field, the 16 B extension (peg address and amount) and the payload. -/
structure Packet where
  cls : BitVec 4
  lc : Bool
  attach : Bool
  vc1 : Bool
  poison : Byte
  dst : BitVec 12
  dim : BitVec 2
  src : BitVec 12
  len : Nat
  addType : BitVec 3
  addr : Nat
  hops : Nat
  sender : Nat
  tag : W16
  state : Byte
  finCnt : Nat
  pegAddr : Nat
  pegAmt : W64
  rsvd : Bool
  payload : List Byte
deriving DecidableEq, Repr

/-- A flit (R407): its link-layer fields and the bytes of its BODY; `ok` is false when FEC decoding failed. -/
structure Flit where
  ok : Bool
  corrected : Nat
  seq : BitVec 12
  kind : BitVec 4
  ack : BitVec 12
  nak : Bool
  creditVc : BitVec 2
  credit : Nat
  enc : Bool
  keyIdx : Bool
  body : List Byte
  tag : List Byte
  crc : W32
deriving DecidableEq, Repr

/-- The result of training one port (R84, R85, R427, R428): lanes failed here, the partner's answer, its map. -/
structure TrainResult where
  partner : Option (BitVec 12)
  rxFail : BitVec 9
  txFail : BitVec 9
  lastSeq : Option (BitVec 12)
deriving DecidableEq, Repr

/-- The result of training one bivouac port (R86): width, rate code and capacity in GiB; width 0 is absent. -/
structure BivTrain where
  width : Nat
  rate : Nat
  gib : Nat
deriving DecidableEq, Repr

/-- What the March C- test of stage 5 found beyond repair (R73). -/
structure BistResult where
  granules : List Nat
  quads : List Nat
  ways : List (Nat × Nat)
  hubBad : Bool
  summary : List Byte
deriving DecidableEq, Repr

/-- One pitch's energies over a 10 µs power window, in mW of estimate (R526). -/
structure PowerEst where
  pitch : Nat
  array : Nat
  nonArray : Nat
deriving DecidableEq, Repr

/-- What the reads of a command meet (R256, R279): the 64 B unit, by scratchpad offset, or the memory sector, by local
address, and what its code shows. -/
abbrev EccSeen := List (Nat × EccObs)

/-- A failing part of the array under a row's result (R248 to R251). -/
inductive Upset where
  /-- the sum of a block of an output column is off by `delta` -/
  | sum (col block : Nat) (delta : Int)
  /-- the product of reduction index `k` of an output column is off by `delta` -/
  | product (col k : Nat) (delta : Int)
  /-- bits of streaming element `k` change on the feeder's path into the array -/
  | stream (k : Nat) (flip : W16)
  /-- bits of the stationary buffer's element of an output column change after the load -/
  | weight (col k : Nat) (flip : W16)
deriving DecidableEq, Repr

/-- The three SPDM transports (R485, attestation); a message over SMBus names a target address (R40). -/
inductive SpdmPort where
  | doe | smbus (target : BitVec 7) | vdm
deriving DecidableEq, Repr

/-- The two bindings of the MCTP endpoint (R374): SMBus, where a message names a target address, and PCIe. -/
inductive MctpPort where
  | smbus (target : BitVec 7) | vdm
deriving DecidableEq, Repr

inductive Instr where
  | regWrite (fn : Fn) (off width : Nat) (v : W64)
  | rcRead (fn : Fn) (off width : Nat)
  | cmdHalfWrite (fn : Fn) (reg : CmdReg) (lo : W32)
  | ifverSelWrite (fn : Fn) (v : W32)
  | pwrEnAssert
  | railRegulated
  | pwrEnDeassert
  | vinLoss
  | railFault
  | thermTrip
  | tempWarning (die : Nat) (celsius : Int)
  | porRelease (straps : BitVec 5) (mid : BitVec 2)
  | strapOutputEnable
  | mainPllUnlock
  | pciePllUnlock
  | pciePllRelock
  | perstAssert
  | perstDeassert
  | configRequest (fn : Fn) (off : Nat)
  | vfEnableWrite (v : Bool)
  | chnInHigh
  | headTokenStart
  | chnPulseRx (widthNs : Nat)
  | levelFault
  | tokenFrameRx (f : ChainFrame)
  | tokenSend
  | enumTimeout
  | sideFrameRx (f : ChainFrame)
  | faultFrameRx (f : ChainFrame)
  | downFrameRx (f : ChainFrame)
  | chnFrameSend
  | chnBufferedForward
  | chnHeartbeatSend
  | upstreamLost
  | upLostClear
  | serviceTimeout
  | stewardRom (flashAnswers : Bool)
  | firmwareImage (flashAnswers : Bool)
  | measuredBoot
  | sramRepairBist (r : BistResult)
  | ageingMarginReplan (readings : List (List Int))
  | linkTraining (ports : List TrainResult) (biv : List BivTrain)
  | sitePlanLoad (readable : Bool)
  | hostVisible
  | stwRecovGo (fn : Fn) (v : W32)
  | recovCheckDone
  | recovProgramDone
  | ageingRemeasure (readings : List Int)
  | plnStageWrite (fn : Fn) (off width : Nat) (v : W64)
  | plnCommit (fn : Fn) (v : W32)
  | stagedWrite (fn : Fn) (off width : Nat) (v : W64)
  | rangeTableCommit (fn : Fn) (cid : Nat) (v : W32)
  | queueRingCommit (fn : Fn) (cid q : Nat) (v : W32)
  | edgeSpillCommit (fn : Fn) (cid : Nat) (v : W32)
  | roundingSeedCommit (fn : Fn) (core : Nat) (v : W32)
  | pcSamplesCommit (fn : Fn) (pitch : Nat) (v : W32)
  | watchpointCommit (fn : Fn) (pitch n : Nat) (v : W64)
  | counterCommit (fn : Fn) (pitch n : Nat) (v : W64)
  | linkKeyLoad (fn : Fn) (port : Nat) (v : W32)
  | linkKeyUse (fn : Fn) (port : Nat) (v : W32)
  | linkKeyModeSet (fn : Fn) (port : Nat) (v : W32)
  | recorderWindowCommit (fn : Fn) (v : W32)
  | evrScanDone
  | groupPlace (core : Nat)
  | groupEnd (core slot : Nat)
  | resultWriteback (core slot : Nat)
  | nop (core slot : Nat)
  | mov (core slot : Nat)
  | movi (core slot : Nat)
  | sel (core slot : Nat)
  | iadd (core slot : Nat)
  | isub (core slot : Nat)
  | imul (core slot : Nat)
  | imulh (core slot : Nat)
  | imad (core slot : Nat)
  | imin (core slot : Nat)
  | imax (core slot : Nat)
  | and (core slot : Nat)
  | or (core slot : Nat)
  | xor (core slot : Nat)
  | shl (core slot : Nat)
  | shr (core slot : Nat)
  | sar (core slot : Nat)
  | fadd (core slot : Nat)
  | fmul (core slot : Nat)
  | ffma (core slot : Nat)
  | fmin (core slot : Nat)
  | fmax (core slot : Nat)
  | isetp (core slot : Nat)
  | fsetp (core slot : Nat)
  | plop (core slot : Nat)
  | cvt (core slot : Nat)
  | sfn (core slot : Nat)
  | ballot (core slot : Nat)
  | bcast (core slot : Nat)
  | shfl (core slot : Nat)
  | bra (core slot : Nat)
  | brx (core slot : Nat)
  | exit (core slot : Nat)
  | ld (core slot : Nat) (ecc : EccObs)
  | st (core : Nat) (slot : Nat × EccObs)
  | atom (core slot : Nat)
  | pf (core slot : Nat)
  | l1inv (core slot : Nat)
  | fence (core slot : Nat)
  | flgset (core slot : Nat)
  | flgwait (core slot : Nat)
  | flgrd (core slot : Nat)
  | loadDataReturn (core tag : Nat)
  | atomReturn (core tag : Nat)
  | groupLivelock (core slot : Nat)
  | flgwaitSatisfied (core : Nat) (slot : Nat × EccObs)
  | fenceComplete (core slot : Nat)
  | releaseSend (core slot : Nat)
  | wbEntryTimeout (core entry : Nat) (ecc : EccObs)
  | wbDrainAck (core entry : Nat)
  | dbgSelect (fn : Fn) (core : Nat) (v : W32)
  | dbgStep (fn : Fn) (core : Nat) (v : W32)
  | dbgResume (fn : Fn) (core : Nat) (v : W32)
  | dbgKill (fn : Fn) (core : Nat) (v : W32)
  | dbgStepEnd (core slot : Nat)
  | dbgRdataWrite (fn : Fn) (core : Nat) (v : W32)
  | ctxFlagsWrite (fn : Fn) (cid : Nat) (v : W32)
  | arrayProgramStart (core : Nat)
  | seqNop (core : Nat)
  | wait (core : Nat)
  | waitExpiry (core : Nat)
  | setb (core : Nat)
  | addb (core : Nat)
  | loop (core : Nat)
  | ldw (core : Nat × EccSeen)
  | ldwt (core : Nat × EccSeen)
  | stationaryLoadDone (core : Nat)
  | pass (core : Nat × EccSeen)
  | passRowEnter (core : Nat) (seen : EccSeen)
  | passRowWrite (core : Nat) (upsets : List Upset)
  | aclr (core : Nat)
  | adrn (core : Nat × EccSeen)
  | convertedRowWrite (core : Nat)
  | setf (core : Nat)
  | waitf (core : Nat × EccObs)
  | waitfSatisfied (core : Nat × EccObs)
  | seqUnitFree (core : Nat × EccSeen)
  | end_ (core : Nat)
  | programComplete (core : Nat)
  | portReadDone (line : Nat) (err0 err1 : Nat)
  | sectorRewrite (tile : Nat)
  | patrolScrub (tile : Nat) (err : Nat)
  | homeRead (tag : Nat) (ecc : EccObs)
  | homeWrite (tag : Nat × EccObs)
  | homeAtomic (tag : Nat × EccObs)
  | homeAddWrite (tag : Nat × EccObs)
  | homePegSignal (tag : Nat × EccObs)
  | bivResponse (line : Nat) (pois0 pois1 : Bool)
  | bivPortTimeout (port : Nat)
  | map (fn : Fn) (w : CmdWrite)
  | inval (fn : Fn) (w : CmdWrite)
  | invalDrainDone (fn : Fn)
  | rangeWalkRead (walk : Nat)
  | pfFlr
  | vfFlr (vf : Fn)
  | bar4Resize (fn : Fn) (log2 : Nat)
  | bar4WinWrite (fn : Fn) (v : W64)
  | bar4Read (fn : Fn) (off len : Nat)
  | bar4Write (fn : Fn) (off : Nat) (data : List Byte) (ep : Bool)
  | create (fn : Fn) (v : W32)
  | destroy (fn : Fn) (v : W32)
  | teardownDrainEnd (cid : Nat)
  | pageZeroised (page : Nat)
  | contextEvict (pitch : Nat)
  | contextLoad (pitch : Nat)
  | queueDoorbell (fn : Fn) (cid q : Nat) (tail : W32)
  | queueSlotRead (cid q : Nat) (cmd : List Byte)
  | nopCmd (cid q : Nat)
  | graphCmd (cid q : Nat)
  | kernelCmd (cid q : Nat)
  | copyCmd (cid q : Nat)
  | remoteCmd (cid q : Nat)
  | pegSignalCmd (cid q : Nat)
  | pegWaitCmd (cid q : Nat)
  | hostNotifyCmd (cid q : Nat)
  | pegWaitQueuePoll (cid q : Nat)
  | pegRegister (fn : Fn) (w : CmdWrite)
  | pegWithdraw (fn : Fn) (w : CmdWrite)
  | contextQuery (fn : Fn) (v : W32)
  | queryComplete (fn : Fn)
  | nodeAdmit (pitch : Nat)
  | kernelNodeDispatch (pitch : Nat × Bool)
  | copyNodeDispatch (pitch : Nat × Bool)
  | remoteNodeDispatch (pitch : Nat × Bool)
  | pegSignalNodeDispatch (pitch : Nat × Bool)
  | hostNotifyNodeDispatch (pitch : Nat × Bool)
  | pegWaitNodePoll (pitch : Nat)
  | kernelNodeComplete (node : Nat)
  | descriptorBegin (engine : Nat)
  | dmaChunk (engine : Nat) (seen : EccSeen)
  | orderedSignalSend (engine : Nat)
  | descriptorComplete (desc : Nat)
  | flitRx (port : Nat) (f : Flit)
  | packetTransit (port : Nat)
  | readRx (port : Nat × EccSeen)
  | readRespRx (port : Nat)
  | writeRx (port : Nat)
  | writeFinalRx (port : Nat)
  | addRx (port : Nat)
  | addFinalRx (port : Nat)
  | signalRx (port : Nat)
  | ackRx (port : Nat)
  | retryResend (tag : Nat)
  | unreachRx (port : Nat)
  | holdRx (port : Nat)
  | echoRx (port : Nat)
  | echoReplyRx (port : Nat)
  | seqQueryRx (port : Nat)
  | seqReplyRx (port : Nat)
  | keyCheckRx (port : Nat)
  | holdSend (tag : Nat)
  | echoSend (dev : Nat)
  | unreachTimeout (dev : Nat)
  | unreachClear (fn : Fn) (k : Nat) (v : W64)
  | laneAlarm (port lane : Nat)
  | flitLossTimeout (port : Nat)
  | retrainEnd (port : Nat) (r : TrainResult)
  | deadPortRetry (port : Nat)
  | pitchSave (fn : Fn) (v : W32)
  | pitchRestore (fn : Fn) (v : W32)
  | saveComplete
  | restoreComplete
  | carriedReply (core tag : Nat)
  | repairComplete (tile : Nat)
  | repairTimeout (tile : Nat)
  | quarantineClear (fn : Fn) (tile : Nat) (v : W32)
  | stewardWatchdog
  | stewardRestartDone
  | partnerCheck (core : Nat)
  | checkCompare (core : Nat) (err : W32)
  | diceTestDue (core : Nat)
  | diceSegmentStart (core : Nat)
  | diceSegmentEnd (core : Nat) (pass : Bool)
  | diceSegmentAbandon (core : Nat)
  | packGo (fn : Fn) (w : CmdWrite)
  | packVerifyDone
  | dbgUnlock (fn : Fn) (w : CmdWrite)
  | tokenVerifyDone (nonce : BitVec 128)
  | dbgRelock (fn : Fn) (w : CmdWrite)
  | eventApply
  | evrClear (fn : Fn) (v : W32)
  | pcSample (pitch : Nat)
  | powerCapWindow (est : List PowerEst)
  | setEndpointId (eid : MctpPort × Nat)
  | pldmDiscovery (cmd : MctpPort × Nat)
  | pldmSensorRead (id : MctpPort × Nat) (reading : Int)
  | pldmEffecterSet (id : MctpPort × Nat) (watts : Nat)
  | pldmFwUpdate (component : MctpPort × Nat) (image : List Byte)
  | getVersion (p : SpdmPort)
  | getCapabilities (p : SpdmPort)
  | negotiateAlgorithms (p : SpdmPort) (offered : List Byte)
  | getDigests (p : SpdmPort)
  | getCertificate (p : SpdmPort) (slot off len : Nat)
  | challenge (p : SpdmPort) (slot : Nat) (req : List Byte)
  | getMeasurements (p : SpdmPort) (index : Nat) (signed : Bool) (req : List Byte)
  | keyExchange (p : SpdmPort) (req : List Byte)
  | finish (p : SpdmPort) (session : Nat) (req : List Byte)
  | keyUpdate (p : SpdmPort) (session : Nat)
  | spdmHeartbeat (p : SpdmPort) (session : Nat)
  | endSession (p : SpdmPort) (session : Nat)
  | getPqSig (p : SpdmPort) (off len : Nat)
  | getPqCert (p : SpdmPort) (off len : Nat)
  | getChainFp (p : SpdmPort) (first : Nat)
  | spdmUnsupported (p : SpdmPort) (code : Nat)
  | planCommitEnd
  | quarantineClearDone (tile : Nat)
  | pcieLinkL0
  | scratchpadBankAccess (core bank : Nat) (ecc : EccObs)
  | flitSlot (port : Nat)
  | stewardStop
  | atsInvalidateRequest (fn : Fn) (itag : Nat)
  | doeDiscovery (index : Nat)
  | ideKeyManagement (p : SpdmPort) (session : Nat) (req : List Byte)
deriving DecidableEq, Repr

end Sys2Proof
end

