-- ==== Sys2Proof/Decode.lean ====
section
/-!
DEFINITION. The commands that a word spells by the bits of spec/opcode_table.json. The table gives no bits to any of
its rows (every row's `fields` is empty), so no word spells a command: the commands are events at the device's
interfaces. The instruction words of the two core streams are decoded by the meanings that fetch them.
-/

namespace Sys2Proof

/-- No row of the table has bits. -/
def decodeTableWord (_nbits _w : Nat) : Option Instr := none

end Sys2Proof
end

