-- ==== Sys2Proof/Config.lean ====
section
/-!
DEFINITION. What one module's manufacture fixes and the manual does not give as numbers (fused secrets, mask ROM,
energies), the published cryptographic functions the manual names by reference (log 6), and the FREE VALUES: opaque
constants without a body, so that nothing in Lean can evaluate them (log 4).
-/

namespace Sys2Proof.Config

/-- FREE VALUE. The n-th value the manual leaves open, taken by the step that reads the counter `Dev.free`. -/
opaque freeValue : Nat → W64

/-- FREE VALUE. What a port returns for a sector with 6 or more symbol errors (R284): poisoned or miscorrected. -/
opaque miscorrected : Nat → Option (List Byte)

/-- FREE VALUE. The order in which the blocks of one output element are added (R232): an index into the orders. -/
opaque blockOrder : Nat → Nat → Nat → Nat

/-- FREE VALUE. Which of the results within the SFN accuracy bound is written (R228), by function and operand. -/
opaque sfnPick : Nat → W32 → Nat

/-- SHA-384 (FIPS 180-4), named by the manual and not defined in it. -/
opaque sha384 : List Byte → BitVec 384

/-- RSASSA-PSS 3072 verification of R68 check 5: key entry bytes, message, signature. -/
opaque rsaVerify : List Byte → List Byte → List Byte → Bool

/-- SLH-DSA-SHA2-192s verification of R68 check 6: key entry bytes, message, signature. -/
opaque slhVerify : List Byte → List Byte → List Byte → Bool

/-- Signature by the module's RSA identity key (R483, R485), an SPDM 1.2 signature over a message. -/
opaque rsaIdentitySign : List Byte → List Byte

/-- Signature by the module's SLH-DSA identity key (R483, R486): 16,224 B. -/
opaque slhIdentitySign : List Byte → List Byte

/-- First 4 B of the AES-256 encryption of the all-zero block under a key (R496). -/
opaque aesZeroBlock : BitVec 256 → W32

/-- AES-256-GCM seal of R423: key, nonce, additional data, plain text; gives cipher text and the 16 B tag. -/
opaque gcmSeal : BitVec 256 → BitVec 96 → List Byte → List Byte → List Byte × List Byte

/-- AES-256-GCM open of R425: key, nonce, additional data, cipher text, tag. -/
opaque gcmOpen : BitVec 256 → BitVec 96 → List Byte → List Byte → List Byte → Option (List Byte)

/-- Initial register of the CRC-32 of R407 and R469; the manual gives the polynomial only. -/
opaque crc32Init : W32

/-- Final XOR of the CRC-32 of R407 and R469. -/
opaque crc32Final : W32

/-- The fused SHA-384 digest of the key manifest (R482). -/
opaque manifestDigest : BitVec 384

/-- The mask ROM's bytes (R61). -/
opaque romBytes : List Byte

/-- The RSA-3072 identity public key (R483), whose SHA-384 is ID_HASH and whose digest prefix is the fingerprint. -/
opaque rsaIdentityPub : List Byte

/-- The certificate chain of the RSA identity key, SPDM slot 0 (R483, R485). -/
opaque rsaCertChain : List Byte

/-- The certificate chain of the SLH-DSA identity key (R483, R486). -/
opaque slhCertChain : List Byte

/-- VERSION of the pattern pack built into the firmware image (R480). -/
opaque builtinPackVersion : W32

/-- NSEG of the pattern pack built into the firmware image (R479), 1 to 256. -/
opaque builtinPackSegments : Nat

/-- An SPDM response whose bytes the SPDM 1.2 standard fixes and the manual does not (R485): request, connection. -/
opaque spdmResponse : Nat → List Byte → List Byte

/-- A message of a published standard (PLDM, MCTP, DOE, IDE key management) whose bytes the manual does not give. -/
opaque stdResponse : Nat → List Byte → List Byte

/-- FREE VALUE. Where a capability structure stands in the configuration space of the PF (0) or of a VF (1): by its
identifier, and whether it is an extended one. -/
opaque capPlace : Nat → Nat → Bool → Nat

end Sys2Proof.Config
end

