-- ==== Sys2Proof/Machine/State.lean ====
section
/-!
DEFINITION. The state of one OVM-1 module as plain data. `Dev` holds everything the manual gives the device, split
by block; `State` is a `Dev` and the queue of waiting commands. Wide things (cores, contexts, bytes) are sparse
tables whose absent keys hold the default named beside them. Times are counts of cc (1.05 GHz) since the model's
own time 0 (log 2).
-/

namespace Sys2Proof.Machine
open Sys2Proof

/-- Why the machine stops with a fault. No rule of the manual stops the device without an effect it describes, so
no meaning raises it today; it stands for what a later reading may find. Safe: a stop hides behaviour, adds none. -/
inductive Fault where
  /-- Raised by nobody: a command to which the manual gives no effect. Safe. -/
  | noEffectGiven
deriving DecidableEq, Repr

/-- Why a command has no meaning here. -/
inductive Refusal where
  /-- Raised by an arm of `exec` whose command has no meaning yet, by its mnemonic. Safe. -/
  | notModelled (mnemonic : String)
deriving DecidableEq, Repr

/-- A counter that a read clears (access RC of R9), split as R11 needs: `held` counts events before the cc `at_`,
`fresh` those of that cc, of which the field, where no read comes in that cc, loses `excess` to saturation. -/
structure Rc where
  held : Nat := 0
  fresh : Nat := 0
  excess : Nat := 0
  at_ : Nat := 0
deriving DecidableEq, Repr

/-- A W1C bit (R9) with the cc in which the device last set it (R11). -/
structure W1c where
  bit : Bool := false
  setAt : Nat := 0
deriving DecidableEq, Repr

/-! ## Power, pins and clocks (02, 19) -/

/-- Rails, sequencer and module outputs (R28 to R36, R53, R523). Rails are counted in the order of R30's table. -/
structure Power where
  pwrEn : Bool := false
  /-- rails in regulation, 0 to 5; rail `railsUp` is rising while `raising` -/
  railsUp : Nat := 0
  raising : Bool := false
  pwrGood : Bool := false
  pwrGoodAt : Nat := 0
  fatal : Bool := false
  thermTrip : Bool := false
  /-- R34: no rail rises until PWR_EN has been low for 100 ms -/
  lockedOut : Bool := false
  pwrEnLowAt : Option Nat := none
  /-- rails on their way down, in the order in which they fall: the last raised first (R30, R32 step 5) -/
  falling : List Nat := []
  porReleased : Bool := false
  porAt : Nat := 0
  vddCoreMv : Nat := 720
  /-- last reading of the five dies, T0 to T3 and the hub, in °C (R523) -/
  dieTemp : Tab Int := []
  tempWarn : Bool := false
  /-- HUB_STRAP: sampled straps, MID and OUT_EN (R37 to R41) -/
  straps : BitVec 5 := 0
  mid : BitVec 2 := 0
  outEn : Bool := false
  /-- clocks (R58, HUB_CLK_STAT) -/
  mainLock : Bool := false
  mainLockAt : Nat := 0
  pcieLock : Bool := false
  lnkLock : Bool := false
  bivLock : Bool := false
  pcieUnlock : Rc := {}
  perstLow : Bool := true
  pcieL0 : Bool := false
deriving DecidableEq, Repr

/-! ## The chain (02, 03) -/

/-- The chain pins, token enumeration, side channel and guy line (R42 to R55, R79 to R83, R489). -/
structure Chain where
  phase : Nat := 0
  phase1At : Nat := 0
  chnInHigh : Bool := false
  chnInHighAt : Nat := 0
  chnOutHigh : Bool := false
  drop : Rc := {}
  foreign : Rc := {}
  glitch : Rc := {}
  upLost : Bool := false
  /-- last heartbeat or stop bit on CHN_IN -/
  heardAt : Nat := 0
  /-- a frame is being received since `frameAt`, so its time does not count toward the 300 µs of R54; `rxHold` when it
  began while CHN_OUT carried a frame of this module or of the buffer, or one waited there (R51) -/
  frameStart : Bool := false
  frameAt : Nat := 0
  rxHold : Bool := false
  /-- correct heartbeats since this time, after a loss, and the time of the last one (R55) -/
  goodSince : Option Nat := none
  goodLast : Nat := 0
  devId : BitVec 12 := 0
  idValid : Bool := false
  /-- the upstream neighbour's device ID, from the SRC of the TOKEN frame that it sent -/
  upId : BitVec 12 := 0
  chainErr : Bool := false
  /-- modules in the ring, known to the head (R81) -/
  ringSize : Nat := 0
  headTokenSent : Bool := false
  headTokenAt : Nat := 0
  closingSent : Bool := false
  /-- the TOKEN frame to send and its due time (R48); `tokenEnters2` until the stop bit of a resent one, which phase 2
  follows (R81) -/
  tokenDue : Option (ChainFrame × Nat) := none
  tokenEnters2 : Bool := false
  /-- frames of this module waiting to be sent (R51) -/
  own : List ChainFrame := []
  /-- frames of others that arrived while a frame of this module was being sent, at most 2 (R51) -/
  buffered : List ChainFrame := []
  /-- CHN_OUT carries a frame until this time -/
  busyUntil : Nat := 0
  /-- the frame on CHN_OUT is the module's own; or it comes from the buffer -/
  ownBusy : Bool := false
  bufBusy : Bool := false
  heartbeatAt : Nat := 0
  /-- frames kept because DEST names this module or every module (R49), latest first -/
  kept : List ChainFrame := []
  /-- reports held by the head, by device ID (R83), and fingerprints (R489) -/
  reports : Tab W32 := []
  fingerprints : Tab W64 := []
  serviceSent : Bool := false
  serviceSeen : Bool := false
  stewardStopped : Bool := false
  /-- last time a FAULT frame of a kind went out, and events of that kind since (R462) -/
  faultSentAt : Tab Nat := []
  faultSince : Tab Nat := []
deriving DecidableEq, Repr

/-! ## Start-up, firmware and security (03, 16, 17) -/

/-- What the steward keeps of an accepted firmware image (R67, R68). -/
structure ImageInfo where
  pair : Nat := 0
  svn : Nat := 0
  revoke : BitVec 4 := 0
  manifest : List Byte := []
  /-- SHA-384 of the signed message (M2, boot reports) -/
  digest : BitVec 384 := 0
deriving DecidableEq, Repr

/-- Start-up registers, flash, fuses, measurement slots and BIST results (R59 to R88). -/
structure Boot where
  /-- last completed stage, 0 to 10 -/
  stage : Nat := 0
  /-- STW_BOOT_STAT.RESULT -/
  result : Nat := 0
  stageEnd : Tab Nat := []
  stopped : Bool := false
  /-- stages 3 to 10 are being run again after recovery, with stage 7 skipped (R71) -/
  skipEnum : Bool := false
  /-- a PLDM update being programmed (R70, R376): component, image, end of programming; its region of flash is empty -/
  fwProg : Option (Nat × List Byte × Nat) := none
  recovery : Bool := false
  recovAttempts : Nat := 0
  recovCause : Nat := 0
  recovState : Nat := 0
  recovWindow : Tab Byte := []
  flash : Tab Byte := []
  image : ImageInfo := {}
  /-- revocation fuses and blown SVN fuses (R69, R482) -/
  revoked : BitVec 4 := 0
  svnFuse : Nat := 0
  /-- the trim record in flash: VDD_CORE in mV and the retired quads (R76, R474) -/
  trimMv : Option Nat := none
  trimRetired : List Nat := []
  /-- measurement slots M0 to M7 (R72) -/
  meas : Tab (BitVec 384) := []
  oosGranules : List Nat := []
  disabledWays : List (Nat × Nat) := []
  /-- BIV trained state is in `Mem`, ports in `Fabric` -/
  remeasureAt : Nat := 0
  stewardRestarting : Bool := false
deriving DecidableEq, Repr

/-- One SPDM connection (R485): one per transport. -/
structure SpdmConn where
  versionDone : Bool := false
  capsDone : Bool := false
  algsDone : Bool := false
  /-- the message that the last RSA signature of the connection covered (R486) -/
  lastSigned : List Byte := []
deriving DecidableEq, Repr

/-- One SPDM session (R485). -/
structure SpdmSession where
  doe : Bool := false
  established : Bool := false
  keyEpoch : Nat := 0
deriving DecidableEq, Repr

/-- The end of a token's verification (R491): its CODE, what the token opens, and the next nonce. -/
structure TokenEnd where
  next : BitVec 128 := 0
  code : Nat := 0
  pitches : BitVec 64 := 0
  jtag : Bool := false
deriving DecidableEq, Repr

/-- Debug locking, packs, SPDM, MCTP and PLDM state (R374 to R376, R480, R485 to R494, R525). -/
structure Security where
  unlocked : BitVec 64 := 0
  jtagOpen : Bool := false
  jtagEver : Bool := false
  nonce : BitVec 128 := 0
  dbgBusy : Bool := false
  dbgCode : Nat := 0
  dbgAddr : Nat := 0
  /-- a verification that has ended and is applied at the end of the commit (R494) -/
  dbgHeld : Option TokenEnd := none
  packBusy : Bool := false
  packCode : Nat := 0
  packAddr : Nat := 0
  /-- VERSION and NSEG of the pack in force; none is the pack built into the firmware image -/
  pack : Option (W32 × Nat) := none
  spdm : Tab SpdmConn := []
  sessions : Tab SpdmSession := []
  /-- IDE key-management messages acted on for the link IDE stream, latest first (R343, R485) -/
  ideMsgs : List (List Byte) := []
  eid : Nat := 0
  /-- PLDM effecter 10 in W; none is the ordering number's cap (R525) -/
  setpoint : Option Nat := none
  /-- lowest duty decided at each power window end of the last 10 ms, by time (R529) -/
  duties : Tab Nat := []
  fwPending : List Nat := []
deriving DecidableEq, Repr

/-! ## Site plan (04) -/

/-- A commit in progress (R108): the phase it has reached, what phases A and B decided, and the plan that phase E
makes live. A steward re-commit begins with phase B. -/
structure Commit where
  startAt : Nat := 0
  /-- 1 to 6 for phases A to F -/
  phase : Nat := 1
  reason : Nat := 0
  index : Nat := 0
  bySteward : Bool := false
  /-- pitches changed by the commit (R109), whose doorbells are kept -/
  changed : List Nat := []
  /-- pitches that phase C of this commit saved, restored by its phase F (R451) -/
  saved : List Nat := []
  /-- the plan to check, from phase B on as phase B formed it, and its quads in logical order (R94, R112) -/
  bytes : Tab Byte := []
  order : Tab (List Nat) := []
  /-- quads that phase B replaced: pitch, old quad, new quad (R112) -/
  replaced : List (Nat × Nat × Nat) := []
deriving DecidableEq, Repr

/-- The site plan: staging window, running plan, commit in progress (R89 to R115). -/
structure Plan where
  staging : Tab Byte := []
  running : Option (Tab Byte) := none
  /-- quads of each pitch in order of logical number (R94) -/
  order : Tab (List Nat) := []
  commit : Option Commit := none
  reason : Nat := 0
  index : Nat := 0
  bySteward : Bool := false
  commitT : Nat := 0
  /-- R111: pitch + 1 that last owned each granule since it was zeroised -/
  lastOwner : Tab Nat := []
  /-- retired quads whose re-commit waits for the end of the running commit (R112) -/
  recommitDue : List Nat := []
  /-- quads replaced by a re-commit (R112): old quad, new quad; windows are directed by it (R335) -/
  moved : List (Nat × Nat) := []
  /-- granules of a saved pitch in which its records stand (R446), until they are read back -/
  recGrans : Tab (List Nat) := []
  /-- doorbells kept for changed pitches (R109): function, CID, queue, tail, in order -/
  keptDoorbells : List (Nat × Nat × Nat × W32) := []
deriving DecidableEq, Repr

/-! ## Thread groups (05, 06, 09, 10) -/

/-- A register of a group (R121). -/
inductive RegRef where
  | t (n : Nat)
  | s (n : Nat)
  | p (n : Nat)
deriving DecidableEq, Repr

/-- One lane's value for one register; lane 32 stands for the scalar file. -/
structure RegVal where
  reg : RegRef
  lane : Nat
  val : W32
  pois : Bool
deriving DecidableEq, Repr

/-- Results waiting for their latency (R129): the values and the cc at which the ready bits are set again. -/
structure PendWrite where
  vals : List RegVal
  dests : List RegRef
  due : Nat
deriving DecidableEq, Repr

/-- An entry of the reconvergence stack (R132). -/
structure StackEntry where
  pc : Nat
  rpc : Nat
  mask : W32
deriving DecidableEq, Repr

/-- An access of a group that has not been performed (R299, R304). -/
structure Acc where
  id : Nat
  /-- 0 load, 1 store or write, 2 atomic -/
  kind : Nat
  /-- write-buffer entry that holds the store, if any -/
  wb : Option Nat := none
  /-- generations of the ranges that it was translated through (R339), and the instruction's number in the address stage -/
  gens : List Nat := []
  op : Nat := 0
deriving DecidableEq, Repr

/-- What holds later accesses of a group from the address stage (R173, R304). -/
inductive Barrier where
  /-- an acquire load or atomic, by access id -/
  | acquire (id : Nat)
  /-- FENCE of kind 0, 1 or 2: accesses and write-buffer entries waited for -/
  | fence (kind : Nat) (accs : List Nat) (wbs : List Nat)
  /-- FLGWAIT: flag, threshold, destination scalar -/
  | flgwait (flag : Nat) (thresh : W32) (dest : Nat)
deriving DecidableEq, Repr

/-- A group in its slot (R116 to R146). -/
structure Group where
  stack : List StackEntry := []
  latency : Bool := false
  age : Nat := 0
  cid : Nat := 0
  node : Nat := 0
  layer : W16 := 0
  oper : W16 := 0
  compat : Bool := false
  /-- t0 to t63 by 32·n + lane, s0 to s31, p0 to p6 by 32·n + lane; poison likewise -/
  treg : Tab W32 := []
  sreg : Tab W32 := []
  preg : Tab Bool := []
  tpois : Tab Bool := []
  spois : Tab Bool := []
  ppois : Tab Bool := []
  /-- registers whose ready bit is clear (R129) -/
  notReady : List RegRef := []
  pend : List PendWrite := []
  /-- the next instruction has been fetched from this cc on -/
  fetchAt : Nat := 0
  barriers : List Barrier := []
  accs : List Acc := []
  halted : Bool := false
  haltCode : Nat := 0
  /-- cc in which the group halted, which a debugger action of that cc does not see (R154) -/
  haltedAt : Option Nat := none
  /-- single step (R154): 0 none, 1 the instruction is still to issue, 2 it has issued -/
  stepping : Nat := 0
  repeatCnt : Nat := 0
  lastLine : Option Nat := none
  lastVals : List (Nat × W64) := []
  storeSince : Bool := false
  /-- the counter has reached 2^20 and the fault is to be raised; PC of the last qualifying access -/
  liveDue : Bool := false
  livePc : Nat := 0
deriving DecidableEq, Repr

/-- A load in progress: which lanes wait for which line, and the bytes already taken (R260 to R266, R131). -/
structure LoadOp where
  slot : Nat
  pc : Nat := 0
  /-- cc of issue, and the least latency in cc -/
  at_ : Nat := 0
  minLat : Nat := 8
  width : Nat
  signed : Bool
  acquire : Bool
  dest : Nat
  scalar : Bool := false
  /-- lane, physical byte address, bytes taken so far (offset in the access, byte), poison so far -/
  lanes : List (Nat × Nat) := []
  got : List (Nat × Nat × Byte) := []
  pois : List Nat := []
  /-- requests (tags, miss-register tags) still awaited -/
  await : List Nat := []
deriving DecidableEq, Repr

/-- A sub-operation of an atomic on one address (R138 to R141). -/
structure AtomSub where
  addr : Nat
  /-- lane, operand, comparand, in ascending lane order -/
  lanes : List (Nat × W64 × W64)
  pois : Bool := false
deriving DecidableEq, Repr

/-- An atomic in progress (R138 to R142, R534). -/
structure AtomOp where
  slot : Nat
  pc : Nat := 0
  cid : Nat := 0
  lanes : List (Nat × Nat) := []
  op : Nat
  typ : Nat
  mark : Nat
  dest : Nat
  succPred : Nat
  scalar : Bool := false
  remote : Bool := false
  subs : List AtomSub := []
  /-- old value and, for f32 ADD, lane values returned so far: address, old value -/
  olds : List (Nat × W64) := []
  pois : List Nat := []
  await : List Nat := []
  /-- conditions before it is sent: accesses and write-buffer entries (R304, R260) -/
  waitAccs : List Nat := []
  waitWbs : List Nat := []
  sent : Bool := false
  /-- the group and memory changed by any sub-operation (R144) -/
  changed : Bool := false
deriving DecidableEq, Repr

/-- An L1 line (R259): line number (local address / 128), bytes, sector poison, stamp of last use. -/
structure L1Line where
  line : Nat
  data : Tab Byte := []
  pois0 : Bool := false
  pois1 : Bool := false
  used : Nat := 0
deriving DecidableEq, Repr

/-- A miss register (R261, R262, R302): the request's tag, waiting loads (primary first), own stores since. -/
structure MissReg where
  line : Nat
  tag : Nat
  lc : Bool := false
  cancelled : Bool := false
  waiters : List Nat := []
  /-- taken by a prefetch: no primary miss waits (R271) -/
  hint : Bool := false
  overlay : Tab Byte := []
  overlayMask : List Nat := []
deriving DecidableEq, Repr

/-- A write-buffer entry (R264, R265, R301, R305): physical line, written bytes, sector poison. -/
structure WbEntry where
  id : Nat
  line : Nat
  bytes : List (Nat × Byte) := []
  pois0 : Bool := false
  pois1 : Bool := false
  lastWrite : Nat := 0
  draining : Bool := false
  /-- tag of the request that carries it, once sent -/
  tag : Option Nat := none
  /-- a release store's own entry: slot and the accesses and entries that it waits for -/
  release : Option (Nat × List Nat × List Nat) := none
  cid : Nat := 0
  slot : Nat := 0
  /-- what the drain will see of the code of its data (R267) -/
  ecc : EccObs := .clean
deriving DecidableEq, Repr

/-- Bytes of one lane's access that lie in one range: offset in the access, length, physical address. -/
structure LaneSeg where
  lane : Nat
  off : Nat
  len : Nat
  pa : Nat
  gen : Nat := 0
deriving DecidableEq, Repr

/-- A range-table entry (R323). -/
structure RangeEntry where
  vstart : Nat := 0
  gen : Nat := 0
  pstart : Nat := 0
  len : Nat := 0
  valid : Bool := false
  r : Bool := false
  w : Bool := false
  a : Bool := false
  shared : Bool := false
  repl : Bool := false
  replPstart : Nat := 0
  rsvd : Bool := false
deriving DecidableEq, Repr

/-- A range-cache entry (R330). -/
structure CacheEntry where
  pitch : Nat
  cid : Nat
  ent : RangeEntry
  used : Nat
deriving DecidableEq, Repr

/-- The memory instruction in the address stage (R130, R261, R331): what it has translated and still has to do. -/
structure Stage where
  slot : Nat
  pc : Nat
  word : W64
  /-- walk it waits for, if any -/
  walk : Option Nat := none
  /-- the stage is occupied until this cc at the earliest -/
  until_ : Nat := 0
  /-- pages (64 KiB of virtual address) that a walk found uncovered (code 2) or poisoned (code 4) -/
  bad : List (Nat × Nat) := []
  /-- entries found for its lanes, kept while further lanes are walked -/
  ents : List CacheEntry := []
  /-- a write-buffer entry has started draining because it needs one (R264) -/
  asked : Bool := false
  /-- a release store: the accesses and write-buffer entries at the cc of its issue (R304) -/
  rel : Option (List Nat × List Nat) := none
  /-- checks are over; the operation's number, its pieces and the lines still to be handled -/
  op : Option Nat := none
  segs : List LaneSeg := []
  left : List Nat := []
deriving DecidableEq, Repr

/-- A request at a scratchpad bank (R257, R533): class 2 is an aged class 5. -/
inductive SpadKind where
  /-- a load of a unit by load id of core `src` -/
  | load (src id : Nat)
  /-- a store of bytes (offset, byte) with its poisoned 32 B chunks, by access id of core `src`, slot -/
  | store (src slot acc : Nat) (bytes : List (Nat × Byte)) (pois : List Nat)
  | flgset (slot acc flag : Nat) (add : Bool) (val : W32) (pois : Bool)
  /-- one unit of a DMA write, by the request of its burst -/
  | write (tag : Nat) (bytes : List (Nat × Byte)) (pois : List Nat)
deriving DecidableEq, Repr

/-- A DMA, fabric or host access that waits for a bank (R257): who asks, since when, and when it last asked. -/
structure BankWait where
  key : Nat
  bank : Nat
  since : Nat
  last : Nat
deriving DecidableEq, Repr

structure SpadReq where
  kind : SpadKind
  /-- byte offset of the 64 B unit in the scratchpad -/
  unit : Nat
  own : Bool
  since : Nat
deriving DecidableEq, Repr

/-- A group assigned to a core and not yet placed (R117): node and group number. -/
structure WaitGroup where
  node : Nat
  num : Nat
deriving DecidableEq, Repr

/-! ## The array (06, 07, 08) -/

/-- A stationary block (R202, R203, R211): elements by 128·row + element as stored bits, scales by 4·row + s. -/
structure Block where
  fmt : Nat := 15
  trans : Bool := false
  pois : Bool := false
  elems : Tab W16 := []
  scales : Tab Byte := []
deriving DecidableEq, Repr

/-- A streaming row as it entered (R213): elements, scales, poison. -/
structure StreamRow where
  elems : List W16 := []
  scales : List Byte := []
  pois : Bool := false
deriving DecidableEq, Repr

/-- An open loop level (R176). -/
structure LoopLevel where
  start : Nat
  end_ : Nat
  count : Nat
deriving DecidableEq, Repr

/-- A stationary load in flight (R211): issue ac, descriptor, rows read so far in `blk`. -/
structure LoadFl where
  n : Nat
  src : Nat
  stride : Nat
  scl : Nat
  sclStride : Nat
  /-- what the reads of its rows will meet (R256) -/
  seen : EccSeen := []
  done : Nat := 0
  blk : Block := {}
deriving DecidableEq, Repr

/-- A pass in flight (R213, R184): issue ac, k, rows, tile, addresses, block, rows entered and rows written. -/
structure PassFl where
  n : Nat
  /-- address of the PASS, which a residue mismatch reports (R152) -/
  pc : Nat := 0
  k : Nat
  m : Nat
  tile : Nat
  clear : Bool
  row0 : Nat
  rstride : Nat
  scl : Nat
  sclStride : Nat
  sfmt : Nat
  blk : Block := {}
  rows : List StreamRow := []
  written : Nat := 0
  /-- selected for sampled recompute (R468): number of the capture in the check buffer -/
  capture : Option Nat := none
deriving DecidableEq, Repr

/-- A conversion in flight (R214): issue ac, the tile as read, descriptor, rows written. -/
structure DrainFl where
  n : Nat
  rows : Nat
  dst : Nat
  dstride : Nat
  dscl : Nat
  dsclStride : Nat
  add : Option (Nat × Nat) := none
  ofmt : Nat
  stoch : Bool
  /-- what the reads of its addend rows will meet (R256) -/
  seen : EccSeen := []
  tile : Tab W32 := []
  tpois : List Nat := []
  written : Nat := 0
  /-- addend rows read so far, and those not yet used, with their poison -/
  addRead : Nat := 0
  addq : List (List W32 × Bool) := []
deriving DecidableEq, Repr

/-- One row of an accumulator tile (R184, R185): its 64 values, its poison, and what both were before ac `at_`. -/
structure TileRow where
  vals : Tab W32 := []
  pois : Bool := false
  prev : Tab W32 := []
  prevPois : Bool := false
  at_ : Nat := 0
deriving DecidableEq, Repr

/-- The array sequencer (R175 to R193). `st` is coded as CORE_SEQ_STAT.STATE: 0 idle, 1 issuing, 2 held on a unit,
3 held on WAITF, 4 held on a locked bank, 5 halted. -/
structure Seq where
  st : Nat := 0
  pc : Nat := 0
  ac : Nat := 0
  node : Nat := 0
  cid : Nat := 0
  layer : W16 := 0
  oper : W16 := 0
  compat : Bool := false
  audit : Bool := false
  base : Tab Nat := []
  loops : Tab LoopLevel := []
  /-- the next instruction issues at this ac or later; WAIT pending when `waiting` -/
  issueAt : Nat := 0
  waiting : Bool := false
  feederFree : Nat := 0
  convFree : Nat := 0
  load : Option LoadFl := none
  passes : List PassFl := []
  drains : List DrainFl := []
  endAt : Option Nat := none
  lastWrite : Nat := 0
  haltCode : Nat := 0
  haltedAt : Option Nat := none
  stepping : Nat := 0
  /-- cc from which the first instruction may issue, after the clearing of R216; it has issued, which begins ac 0 (R180) -/
  from_ : Nat := 0
  begun : Bool := false
  /-- seed that ac 0 gives the core's random source (R245) -/
  seed : Option W64 := none
  /-- scratchpad bytes that the converter wrote in ac `undoAc`: offset, the byte before, its chunk's poison before -/
  undoAc : Nat := 0
  undo : List (Nat × Byte × Bool) := []
  /-- units of the scratchpad that banks have granted for what is due in this ac and has not been done for want of others
  (R217, R257): 0 descriptor, 1 streaming row, 2 stored row, 3 addend row, 4 converted row ↦ units -/
  got : Tab (List Nat) := []
  /-- cc in which it last issued, and so fetched (R158) -/
  issuedAt : Option Nat := none
deriving DecidableEq, Repr

/-- A captured pass of sampled recompute (R469). -/
structure Capture where
  num : Nat
  cid : Nat
  k : Nat
  m : Nat
  sfmt : Nat
  blk : Block := {}
  rows : List StreamRow := []
  sums : List (Int × Int) := []
  complete : Bool := false
deriving DecidableEq, Repr

/-- The fault record of a core (R153). -/
structure FltRec where
  valid : W1c := {}
  code : Nat := 0
  sub : Nat := 0
  slot : Nat := 0
  cid : Nat := 0
  compat : Bool := false
  pc : Nat := 0
  resumePc : Nat := 0
  lanes : W32 := 0
  va : Nat := 0
  /-- cc in which the record was filled, and whether it may still be replaced by a lower slot of that cc -/
  at_ : Nat := 0
  more : Rc := {}
deriving DecidableEq, Repr

/-- One core. Absent table entries are: no group, no miss register. -/
structure Core where
  slots : Tab Group := []
  waiting : List WaitGroup := []
  ageNext : Nat := 0
  rr : Nat := 0
  /-- cc of the last issue and the slot that issued then -/
  lastIssue : Option Nat := none
  lastSlot : Nat := 0
  lastPlace : Option Nat := none
  freedAt : Tab Nat := []
  sfnUntil : Nat := 0
  stage : Option Stage := none
  stageFree : Nat := 0
  loads : Tab LoadOp := []
  atoms : Tab AtomOp := []
  l1 : List L1Line := []
  mregs : Tab MissReg := []
  wb : List WbEntry := []
  spadQ : List SpadReq := []
  bankAt : Tab Nat := []
  bankWait : List BankWait := []
  /-- value and poison of a local flag before its write in cc (R187): flag ↦ (cc, value, poison) -/
  flagPrev : Tab (Nat × W32 × Bool) := []
  lost : Rc := {}
  /-- instruction memory (R195, R197): banks touched at the start of this cc, and as the record stands now -/
  touched : BitVec 4 := 0
  touchNow : BitVec 4 := 0
  locked : Tab Nat := []
  imemBusy : Rc := {}
  flt : FltRec := {}
  dbgSlot : Nat := 0
  dbgResult : Nat := 0
  dbgRsel : W32 := 0
  /-- sequencer, array, converter -/
  seq : Seq := {}
  block : Block := {}
  tiles : Tab TileRow := []
  readyAc : Tab Nat := []
  frz : Tab Nat := []
  frzLast : Nat := 0
  prevCid : Option Nat := none
  /-- array programs that started nodes still wait for (R383): node numbers, oldest first -/
  progQueue : List Nat := []
  auditValid : W1c := {}
  auditTile : Nat := 0
  auditRow : Nat := 0
  auditShort : Nat := 0
  resValid : W1c := {}
  resCnt : Rc := {}
  resTile : Nat := 0
  resRow : Nat := 0
  resCol : Nat := 0
  resBlock : Nat := 0
  resPath : Bool := false
  /-- random source: generators as they stood after their step in cc `rngAt` (R240 to R246) -/
  rng : List W64 := []
  rngAt : Nat := 0
  seed : W64 := 1
  seedLoShadow : W32 := 1
  /-- CORE_MEM_ERR -/
  l1Ce : Rc := {}
  l1Ue : Rc := {}
  tagPar : Rc := {}
  wbUe : Rc := {}
  spadUe : Rc := {}
  spadCe : Rc := {}
  /-- health, sampled recompute and dice tests (R468 to R478); state 0 ROUTINE, 1 WATCH, 2 RETIRED -/
  health : Nat := 0
  watchMism : Nat := 0
  clean : Nat := 0
  testDue : Bool := false
  testDueAt : Nat := 0
  testSeg : Nat := 0
  testing : Bool := false
  testSave : Tab Byte := []
  lfsr : W16 := 1
  captures : List Capture := []
  captureNext : Nat := 0
  chkSelected : Rc := {}
  chkCompared : Rc := {}
  chkSkipped : Rc := {}
  chkMismatch : Rc := {}
  /-- the core runs its partner's checks; array cycle (as a cc) at which the next check begins (R470) -/
  checking : Bool := false
  checkAt : Nat := 0
  /-- the core is in the saved state of its pitch (R444) -/
  saved : Bool := false
  carried : List Nat := []
deriving DecidableEq, Repr

/-! ## Requests, canopy and memory (09, 10) -/

/-- Who waits for a request. -/
inductive Origin where
  /-- a fill of miss register `reg` of a core -/
  | fill (core reg : Nat)
  /-- an uncached load of a core, by load id -/
  | load (core id : Nat)
  /-- a drained write-buffer entry of a core -/
  | drain (core entry : Nat)
  /-- a line of an atomic of a core, by atomic id -/
  | atom (core id : Nat)
  /-- a write, add-write or peg signal of a DMA descriptor -/
  | desc (d : Nat)
  /-- a read of a GET descriptor, whose data go to the chunk at the offset -/
  | descRead (d off : Nat)
  /-- a DONE_PEG or teardown signal of the Board, or a sample record, of no one's wait -/
  | board
  /-- a read of a replica page by the repair engine of a tile -/
  | repair (tile : Nat)
  /-- a prefetch to the canopy -/
  | hint
  /-- a read of a peg of another device for a waiting PEG_WAIT: node number, or 2^32 + 8·CID + queue -/
  | poll (owner : Nat)
deriving DecidableEq, Repr

/-- The node whose work causes an event (R501): its context and identifiers. -/
structure Ident where
  cid : Nat
  layer : W16
  oper : W16
deriving DecidableEq, Repr

inductive ReqKind where
  | read
  /-- bytes (offset from `addr`, byte), and the poisoned sectors among them (offset / 64) -/
  | write (bytes : List (Nat × Byte)) (pois : List Nat)
  | atomic (op typ : Nat) (subs : List AtomSub)
  | addWrite (typ : Nat) (bytes : List (Nat × Byte)) (pois : List Nat)
  | pegSignal (amt : W64)
  | pegAbandon
deriving DecidableEq, Repr

/-- An outstanding request. `st` is 0 issued, 1 at its home waiting for its line, 2 performed and answered. -/
structure Req where
  kind : ReqKind
  /-- 56-bit physical address: device in [55:44] -/
  addr : Nat
  len : Nat := 128
  org : Origin
  pitch : Option Nat := none
  cid : Option Nat := none
  lc : Bool := false
  ident : Option Ident := none
  st : Nat := 0
  resp : List Byte := []
  respPois : List Nat := []
  /-- times of sending and of the latest HOLD or packet that restarts the silence timer (R432) -/
  sentAt : Nat := 0
  dev : Option Nat := none
  /-- final-write fields (R414, R417): sender, epoch parity, counted, final count, attached peg -/
  sender : Nat := 127
  epoch : Bool := false
  counted : Bool := false
  finCnt : Option Nat := none
  /-- generations through which it was translated (R339) -/
  gens : List Nat := []
  peg : Option (Nat × W64) := none
  /-- waits 1 µs for a resend after RETRY (R419), until this cc -/
  retryAt : Option Nat := none
  orphan : Bool := false
  /-- completion status of a write to another device (R12): 0 OK, 3 REMOTE_LOST -/
  status : Nat := 0
  /-- its packets have been handed to a port, and the replies still awaited -/
  queued : Bool := false
  acks : Nat := 0
deriving DecidableEq, Repr

/-- A canopy line (R272 to R279), stored by 2^18·tile + 32·set + way. -/
structure CanLine where
  line : Nat
  data : Tab Byte := []
  pois0 : Bool := false
  pois1 : Bool := false
  dirty : Bool := false
  used : Nat := 0
deriving DecidableEq, Repr

/-- A replica directory entry (R463, R465), stored by page of stacked memory. -/
structure ReplEntry where
  valid : Bool := false
  quarantined : Bool := false
  replica : Nat := 0
  /-- the last MAP that wrote the entry: its cc, and VALID and replica at the start of that cc (R466) -/
  setAt : Nat := 0
  oldValid : Bool := false
  oldReplica : Nat := 0
deriving DecidableEq, Repr

/-- A repair (R464): page, first detection, requests held in arrival order. -/
structure Repair where
  page : Nat
  at_ : Nat
  /-- physical start of the replica page, as the directory held it at the detection (R466) -/
  replica : Nat := 0
  held : List Nat := []
deriving DecidableEq, Repr

/-- Per-tile memory state (R286, R463 to R465). -/
structure TileMem where
  corr : Rc := {}
  poisoned : Rc := {}
  scrubs : Nat := 0
  scrubPos : Nat := 0
  eccAddrValid : W1c := {}
  eccSector : Nat := 0
  rewriteQ : List Nat := []
  repairs : List Repair := []
  repairCnt : Rc := {}
  quarLast : Nat := 0
  clearing : Option Nat := none
  canCe : Rc := {}
  canUeClean : Rc := {}
  canUeDirty : Rc := {}
  canTagCe : Rc := {}
deriving DecidableEq, Repr

/-- A bivouac port (R86, R293 to R296): state 0 absent, 1 up, 2 FAILED. -/
structure BivPort where
  st : Nat := 0
  width : Nat := 0
  rate : Nat := 0
  gib : Nat := 0
  timeout : Rc := {}
  poisonRx : Rc := {}
  /-- lines whose two reads are outstanding, with the cc of sending, and those that wait in their hub DMA engine (R293) -/
  pending : List (Nat × Nat) := []
  waits : List Nat := []
  /-- sector writes outstanding, by line, with the cc of sending, and those that wait -/
  writes : List (Nat × Nat) := []
  writeWaits : List Nat := []
deriving DecidableEq, Repr

/-- The memory system. `bytes` holds stacked memory, scratchpads, instruction memories and bivouac memory by local
address (R252), in canonical form; an unlisted byte reads 0. Poison is kept by 32 B chunk number. -/
structure Mem where
  bytes : List Host.Cell := []
  pois : Tab Bool := []
  /-- symbol errors standing in a stored stacked sector, by sector number (R284) -/
  symErr : Tab Nat := []
  canopy : Tab CanLine := []
  /-- ways disabled in one set after a tag loss (R467): the key of `canopy` -/
  deadWays : List Nat := []
  stamp : Nat := 0
  reqs : Tab Req := []
  nextTag : Nat := 1
  /-- lines being fetched at their home, oldest first, with the requests waiting for each -/
  fetches : List (Nat × List Nat) := []
  /-- lines fetched for an LC read, past which a bulk burst that had started has ended (R291) -/
  lcPassed : List Nat := []
  tiles : Tab TileMem := []
  biv : Tab BivPort := []
  repl : Tab ReplEntry := []
  /-- pages awaiting zeroisation (R457): page ↦ CID + 1 -/
  zeroPend : Tab Nat := []
deriving DecidableEq, Repr

/-! ## Address translation (11) -/

/-- A walk in progress (R331): the interval of entries still searched. -/
structure Walk where
  /-- the core whose address stage waits (R331); the Board walks within its admission (log 13) -/
  core : Nat
  tile : Nat
  pitch : Nat
  cid : Nat
  va : Nat
  lo : Nat
  hi : Nat
  /-- the live table that it searches; a search of another begins anew (R327) -/
  base : Nat := 0
  count : Nat := 0
deriving DecidableEq, Repr

/-- Translation state: range caches by tile, walks, XL_GRAN_KIND. -/
structure Xlate where
  cache : Tab (List CacheEntry) := []
  walks : Tab Walk := []
  nextWalk : Nat := 1
  granKind : Tab W64 := []
  stamp : Nat := 0
deriving DecidableEq, Repr

/-! ## Host interface (12) -/

/-- Per-function registers (R336, R345, R349, R353, R371, R372, R538). Index 0 is the PF. -/
structure Func where
  xlBusy : Bool := false
  xlCode : Nat := 0
  xlElapsed : Nat := 0
  xlStart : Nat := 0
  /-- a started command that waits for earlier posted BAR4 writes (R336) -/
  xlWait : Option Nat := none
  xlAfter : Nat := 0
  /-- MAP waiting for pages (CID, index) or INVAL draining: CID, GEN, and the accesses, descriptors and requests
  waited for (R339 step 4) -/
  xlMap : Option (Nat × Nat) := none
  xlInval : Option (Nat × Nat × List Nat × List Nat × List Nat) := none
  ctxBusy : Bool := false
  ctxCid : Nat := 0
  ctxCode : Nat := 0
  pegCode : Nat := 0
  qryBusy : Bool := false
  qryCid : Nat := 0
  qryCode : Nat := 0
  qryRes : Tab W64 := []
  held : Tab W32 := []
  /-- BAR4 size as log2 bytes, 28 to 34 (R346) -/
  bar4Log2 : Nat := 28
  /-- BAR4 accesses held for pages awaiting zeroisation, in posting order: offset, bytes, EP; or a read -/
  bar4Held : List (Nat × Option (List Byte × Bool) × Nat) := []
  /-- BAR4 writes of the function performed so far -/
  bar4Writes : Nat := 0
  /-- MSI-X table entries by vector; an absent entry is masked and zero (log 12) -/
  msix : Tab (BitVec 128) := []
  msixPend : List Nat := []
deriving DecidableEq, Repr

/-- A queue of a context (R357 to R366). -/
structure Queue where
  base : W64 := 0
  log2 : Nat := 0
  baseShadow : W64 := 0
  head : W32 := 0
  tail : W32 := 0
  stopped : Bool := false
  stalled : Bool := false
  stalledAt : Nat := 0
  /-- physical address of the peg that the stalled head waits on, and the generation of its range -/
  pegPa : Nat := 0
  pegGen : Nat := 0
  dbRej : Rc := {}
  /-- slots read from host memory and not yet admitted, from index `head` -/
  cmds : List (List Byte) := []
  readUpTo : W32 := 0
  doorbellAt : Option Nat := none
  /-- by function that rang it: the BAR4 writes which that function had posted at its doorbell (R360) -/
  rungAfter : Tab Nat := []
  /-- graph whose admission is in progress -/
  graph : Option Nat := none
deriving DecidableEq, Repr

/-- A context (R353 to R356, R453 to R458). -/
structure Ctx where
  exists_ : Bool := false
  dying : Bool := false
  killed : Bool := false
  destroyed : Bool := true
  fault : Nat := 0
  /-- the pitch; 64, which reads as 0, while none has been given -/
  pitch : Nat := 64
  fn : Nat := 0
  slot : Option Nat := none
  residentAt : Nat := 0
  compat : Bool := false
  audit : Bool := false
  queues : Tab Queue := []
  rtabBase : Nat := 0
  rtabCount : Nat := 0
  rtabShadow : Nat := 0
  spillBase : Nat := 0
  spillLimit : Nat := 0
  spillShadow : Nat := 0
  pegs : List Nat := []
  teardownAt : Nat := 0
  /-- no host memory is reached by this teardown (R62) -/
  quiet : Bool := false
  hadWork : Bool := false
  elapsed : Nat := 0
  cancelled : Nat := 0
  orphanBiv : Nat := 0
  orphanRemote : Nat := 0
  pegAbandoned : Nat := 0
  pegSkip : Nat := 0
  zeroPend : Nat := 0
  /-- granules of which every page was marked for zeroisation (R457) -/
  zeroFull : List Nat := []
  destroyFn : Option Nat := none
  /-- writes not acknowledged when the pitch was saved, which release points wait for (R448) -/
  carriedWrites : Nat := 0
  threadCc : Nat := 0
  arrayAc : Nat := 0
  dmaCc : Nat := 0
deriving DecidableEq, Repr

/-- What leaves the device: everything a host, partner, bus or pin observer receives, latest first. -/
inductive Out where
  | regData (v : W64)
  | cfgRetry
  | cfgData (fn : Nat) (v : W32)
  | bar4Data (fn : Nat) (data : List Byte) (ep : Bool)
  | msix (fn vector : Nat)
  | record (fn : Nat) (addr : W64) (index : W32) (status : Nat) (cc : Nat)
  | chain (f : ChainFrame)
  | heartbeat
  | flit (port : Nat) (f : Flit)
  | spdm (p : SpdmPort) (code : Nat) (data : List Byte)
  | pldm (data : List Byte)
  | mctp (data : List Byte)
  | doe (data : List Byte)
  | atsComplete (fn itag : Nat)
  /-- the read of a queue's slot at its host address (R357) -/
  | slotRead (fn : Nat) (addr : W64)
deriving DecidableEq, Repr

/-- The host port and shared objects. -/
structure HostIf where
  ifverSel : W16 := 0
  accepted : Bool := false
  refused : Bool := false
  /-- SEL, ACCEPTED and REFUSED as they stood before the first write of a cc (R24) -/
  ifverBefore : Option (Nat × W16 × Bool × Bool) := none
  vfEnable : Bool := false
  vfHeld : Option Bool := none
  bar4Win : Nat := 0
  funcs : Tab Func := []
  ctxs : Tab Ctx := []
  preBusy : Option (Bool × Nat × Nat) := none
  preWaiting : Option (Bool × Nat) := none
  preElapsed : Nat := 0
  preCode : Nat := 0
  preSaved : BitVec 64 := 0
  /-- host writes held until the link is up (R58), oldest first -/
  hostHeld : List Out := []
  /-- commands of this cc that wait for others which go before them (R354) -/
  later : List Instr := []
deriving DecidableEq, Repr

/-! ## The Board and DMA (13) -/

/-- A contiguous piece of a translated address span: physical start, bytes, generation. -/
structure Seg where
  pa : Nat
  len : Nat
  gen : Nat
deriving DecidableEq, Repr

/-- An admitted node (R379 to R403). `st`: 0 waiting, 1 ready, 2 dispatched, 3 chosen in this hub cycle, at whose end it
starts unless a cancellation comes first (R403). -/
structure Node where
  typ : Nat
  early : Bool := false
  layer : W16 := 0
  oper : W16 := 0
  pitch : Nat
  cid : Nat
  graph : Nat
  index : Nat
  succ : List Nat := []
  st : Nat := 0
  readyAt : Nat := 0
  body : List Byte := []
  src : List Seg := []
  dst : List Seg := []
  sig : Option (Nat × Nat) := none
  gens : List Nat := []
  cancelled : Option Nat := none
  /-- KERNEL: groups not yet ended, array programs not yet ended, code-load descriptors outstanding, status -/
  groupsLeft : Nat := 0
  progsLeft : Nat := 0
  codeLeft : Nat := 0
  launched : Bool := false
  status : Nat := 0
  spilled : Nat := 0
  onChip : Nat := 0
deriving DecidableEq, Repr

/-- A step in the Board: a graph command or a single-node command (R392, R400). -/
structure Graph where
  cid : Nat
  pitch : Nat
  q : Nat
  index : W32
  cpl : Bool
  va : Nat := 0
  nodes : Nat := 1
  admitted : Nat := 0
  open_ : Nat := 0
  status : Nat := 0
  /-- hub cycle and index of the node that gave the status (R400) -/
  failHub : Nat := 0
  failIndex : Nat := 0
  age : Nat := 0
  admitAt : Nat := 0
  donePeg : Option (Nat × Nat) := none
  /-- virtual address of the DONE_PEG; it is to be translated anew (R341) -/
  doneVa : Nat := 0
  doneStale : Bool := false
  doneAdd : W64 := 0
  doneRevoked : Bool := false
  /-- single-node command: the command bytes -/
  single : Option (List Byte) := none
  ended : Bool := false
deriving DecidableEq, Repr

/-- A dispatched DMA descriptor (R385 to R391). -/
structure Desc where
  node : Option Nat
  /-- 0 data, 1 peg signal, 2 code load for a core -/
  kind : Nat := 0
  cid : Nat
  pitch : Nat
  engine : Nat
  src : List Seg := []
  dst : List Seg := []
  len : Nat := 0
  done : Nat := 0
  lc : Bool := false
  final : Bool := false
  attach : Bool := false
  add : Option Nat := none
  get : Bool := false
  sig : Option (Nat × Nat) := none
  sigAdd : W64 := 0
  ordered : Bool := false
  issuedAll : Bool := false
  stopped : Bool := false
  await : List Nat := []
  status : Nat := 0
  banks : List (Nat × Nat) := []
  gens : List Nat := []
  /-- the signal was handled with the attached final write -/
  sigDone : Bool := false
deriving DecidableEq, Repr

/-- A DMA engine: 0 to 63 quad engines by quad, 64 to 67 hub engines (R389). Epochs by receiver (R417). -/
structure Engine where
  queue : List Nat := []
  cur : Option Nat := none
  epochCnt : Tab Nat := []
  epochPar : Tab Bool := []
  finalOut : Tab Nat := []
  /-- writes sent to a receiver and not acknowledged, by device (ordered signals, R316) -/
  paused : Bool := false
deriving DecidableEq, Repr

/-- The Board's state for a pitch. -/
structure PitchBoard where
  lastCid : Nat := 0
  lastQ : Nat := 0
  rotated : Bool := false
  lastHub : Option Nat := none
  lastDispHub : Option Nat := none
  lastPollHub : Option Nat := none
  ageNext : Nat := 0
  pollOrder : List Nat := []
deriving DecidableEq, Repr

structure Board where
  nodes : Tab Node := []
  graphs : Tab Graph := []
  nextNode : Nat := 1
  nextGraph : Nat := 1
  descs : Tab Desc := []
  nextDesc : Nat := 1
  engines : Tab Engine := []
  pitches : Tab PitchBoard := []
deriving DecidableEq, Repr

/-! ## Fabric (14) -/

/-- A link key slot (R424, R496). -/
structure KeySlot where
  loaded : Bool := false
  key : BitVec 256 := 0
  txCount : W64 := 0
  rxCount : W64 := 0
  /-- the last KEY_CHECK received for the slot (R496) -/
  check : Option W32 := none
deriving DecidableEq, Repr

/-- A Tchiari Link port. `st` is coded as LNK_PORT_STATp.STATE. -/
structure Port where
  st : Nat := 0
  trainSt : Nat := 0
  partner : BitVec 12 := 0
  partnerValid : Bool := false
  rxFail : BitVec 9 := 0
  rxSpare : Option Nat := none
  txSpare : Option Nat := none
  retrains : Rc := {}
  deaths : Rc := {}
  noPartner : Bool := false
  deadAt : Nat := 0
  fecCorr : Rc := {}
  replay : Rc := {}
  authFail : Rc := {}
  fecUncorr : Rc := {}
  laneAlarm : BitVec 9 := 0
  lastFlitAt : Nat := 0
  txSeq : BitVec 12 := 0
  rxSeq : BitVec 12 := 0
  rxAny : Bool := false
  nakDue : Bool := false
  retry : List Flit := []
  /-- flits to replay, oldest first -/
  resend : List Flit := []
  /-- credit held for each VC in units of 64 B, and credit to give back -/
  credit : Tab Nat := []
  giveBack : Tab Nat := []
  frameSlot : Nat := 0
  /-- waiting packets by owner: 0 to 63 pitches, 64 transit and replies, 65 management; a request as it arrived, since it
  takes channel and DIM as it leaves (R413) -/
  txq : Tab (List Packet) := []
  /-- bytes of a packet begun and not finished, by owner -/
  txPart : Tab (List Byte) := []
  /-- packets whose bytes lie in flits not yet acknowledged: last SEQ, packet -/
  inFlight : List (BitVec 12 × Packet) := []
  doubt : List (BitVec 12 × Packet) := []
  /-- bytes received and not yet a whole packet; whole packets waiting to be handled -/
  rxPart : List Byte := []
  rxq : List Packet := []
  keys : Tab KeySlot := []
  keyUse : Nat := 0
  keyUsed : Bool := false
  keyLastRx : Option Nat := none
  keyCtl : W32 := 0
  keyData : Tab W32 := []
  keyShadow : Tab W32 := []
deriving DecidableEq, Repr

/-- A tracker entry (R419): key (source, sender, epoch), pitch that pays, count, held final. -/
structure Track where
  src : Nat
  sender : Nat
  epoch : Bool
  payer : Option Nat
  count : Nat := 0
  held : Option (Nat × Packet) := none
  heldAt : Nat := 0
  /-- last HOLD and last ECHO sent for the held final (R431) -/
  holdAt : Nat := 0
  echoAt : Nat := 0
  refused : Bool := false
deriving DecidableEq, Repr

structure Fabric where
  ports : Tab Port := []
  /-- device IDs marked unreachable (LNK_UNREACHk), with the cc of the marking (R11) -/
  unreach : Tab W1c := []
  heardAt : Tab Nat := []
  holdAt : Tab Nat := []
  tracks : List Track := []
  /-- requests of other devices that wait at a port, since when or since the last HOLD for them (R431) -/
  waiting : List (Packet × Nat) := []
  discard : Rc := {}
  refused : Rc := {}
  retrySent : Rc := {}
  hopDrop : Rc := {}
  unreachSent : Rc := {}
  noShare : Rc := {}
deriving DecidableEq, Repr

/-! ## Counters and the recorder (16, 18) -/

/-- An event of R461 with its time (R513). -/
structure Event where
  kind : Nat
  sev : Nat
  unit : Nat
  detail : Nat
  time : Nat
deriving DecidableEq, Repr

/-- A bin of the event recorder (R514). -/
structure Bin where
  kind : Nat
  sev : Nat
  unit : Nat
  count : Nat
  firstT : Nat
  lastT : Nat
  dFirst : Nat
  dLast : Nat
  dMin : Nat
  dMax : Nat
  hist : Tab Nat := []
  minGap : Nat := 0xFFFFFFFF
deriving DecidableEq, Repr

structure Recorder where
  bins : Tab Bin := []
  queue : List Event := []
  /-- hub cycle of the last application, and the event that it applies as it ends (R513, R517) -/
  lastApply : Option Nat := none
  applying : Option Event := none
  dropQ : Rc := {}
  dropFull : Rc := {}
  evicted : Rc := {}
  cursor : Nat := 0
  cursorShadow : Nat := 0
  winCtl : W32 := 0
  done : Bool := true
  next : Nat := 0
  found : Nat := 0
  window : List Bin := []
  /-- the scan in progress: the bins as they stood at the commit -/
  scan : Option (Tab Bin) := none
deriving DecidableEq, Repr

/-- A programmable counter (R500 to R503). -/
structure ProgCounter where
  sel : Nat := 0
  selShadow : Nat := 0
  filt : W64 := 0
  value : Nat := 0
  epoch : Nat := 0
  closedValue : Nat := 0
  closedEpoch : Nat := 0
  /-- banks as they stood at the start of the cc of the last change (R503) -/
  chgAt : Nat := 0
  prev : Nat × Nat × Nat × Nat := (0, 0, 0, 0)
  /-- events counted in that cc, which an epoch that starts in it takes over (R502) -/
  fresh : Nat := 0
deriving DecidableEq, Repr

/-- A watchpoint (R509 to R511): live BASE and LIMIT, shadow of BASE. -/
structure Watch where
  base : W64 := 0
  limit : W64 := 0
  shadow : W64 := 0
  hits : Rc := {}
deriving DecidableEq, Repr

/-- PC sampling of a pitch (R504 to R508). -/
structure Pcs where
  base : W64 := 0
  shadow : W64 := 0
  ctl : W32 := 0
  written : Nat := 0
  lost : Rc := {}
  stopped : Bool := false
  /-- HUB_CC of the last sample -/
  sampledAt : Option Nat := none
deriving DecidableEq, Repr

/-- Counters of a pitch, and its power window (R499, R527). -/
structure PitchCount where
  lant : Tab Nat := []
  prog : Tab ProgCounter := []
  watch : Tab Watch := []
  pcs : Pcs := {}
  duty : Nat := 64
  dutyNext : Nat := 64
  dutyFrom : Nat := 0
deriving DecidableEq, Repr

/-! ## The module -/

/-- What a commit makes live from the next cc on (R114), and a seeding at the end of its cc (R242). -/
inductive Pair where
  | rangeTable (cid base count : Nat)
  | queueRing (cid q : Nat) (base : W64) (log2 : Nat)
  | edgeSpill (cid base limit : Nat)
  /-- rank of R246: 0 plan, 1 kernel, 2 pair; a plan's and a pair's seed becomes the live value of CORE_SEED -/
  | seed (core rank : Nat) (value : W64)
  | samples (pitch : Nat) (base : W64) (ctl : W32)
  | watch (pitch n : Nat) (base limit : W64)
  | counter (pitch n sel : Nat) (filt : W64)
  | linkKey (port : Nat) (key : BitVec 256) (ctl : W32)
  | window (cursor : Nat) (ctl : W32)
  | evrClear (sevs : Nat)
deriving DecidableEq, Repr

/-- Everything the manual gives one module. -/
structure Dev where
  time : Nat := 0
  /-- the model's own counter of free values taken (log 4) -/
  free : Nat := 0
  power : Power := {}
  chain : Chain := {}
  boot : Boot := {}
  sec : Security := {}
  plan : Plan := {}
  cores : Tab Core := []
  mem : Mem := {}
  xl : Xlate := {}
  host : HostIf := {}
  board : Board := {}
  fab : Fabric := {}
  recorder : Recorder := {}
  cnt : Tab PitchCount := []
  /-- pairs committed and seeds drawn in this cc, live from the next cc on (R114, R242) -/
  due : List Pair := []
  out : List Out := []
deriving DecidableEq, Repr

/-- The machine: the module and the commands that wait, first in, first out. -/
structure State where
  dev : Dev := {}
  pending : List Instr := []
deriving DecidableEq, Repr

/-- The module as it stands with VAUX_3V3 present, PWR_EN low and nothing yet raised. -/
def State.reset : State := {}

end Sys2Proof.Machine
end

