-- ==== Sys2Proof/Machine/Table.lean ====
section
/-!
DEFINITION. Operations on sparse tables, on bytes and bit fields (R7, R8), on the counters and bits of R9 to R11,
and the CRC-16 of R46. Everything here is structural recursion over lists, so that the kernel can evaluate it.
-/

namespace Sys2Proof.Machine
open Sys2Proof

/-! ## Sparse tables -/

/-- The entry of a key, if listed. -/
def lookup? {α : Type} : Tab α → Nat → Option α
  | [], _ => none
  | (i, v) :: t, k => if i = k then some v else lookup? t k

/-- The value of a key, with the default of an absent one. -/
def tget {α : Type} (dflt : α) (t : Tab α) (k : Nat) : α := (lookup? t k).getD dflt

/-- Lists a value at its place in rising order, replacing the key's old entry. -/
def tset {α : Type} : Tab α → Nat → α → Tab α
  | [], k, v => [(k, v)]
  | (i, w) :: t, k, v =>
    if i < k then (i, w) :: tset t k v
    else if i = k then (k, v) :: t
    else (k, v) :: (i, w) :: t

/-- Removes every entry of a key. -/
def tdel {α : Type} (t : Tab α) (k : Nat) : Tab α := t.filter fun e => !(e.1 == k)

/-- Writes a value canonically: the default is not listed. -/
def tput {α : Type} [DecidableEq α] (dflt : α) (t : Tab α) (k : Nat) (v : α) : Tab α :=
  if v = dflt then tdel t k else tset t k v

def tmod {α : Type} (dflt : α) (t : Tab α) (k : Nat) (f : α → α) : Tab α := tset t k (f (tget dflt t k))

/-- Applies a function to the listed entry of a key, if there is one. -/
def tmodIf {α : Type} (t : Tab α) (k : Nat) (f : α → α) : Tab α :=
  match lookup? t k with
  | some v => tset t k (f v)
  | none => t

/-- Keys strictly rising. -/
def tsorted {α : Type} : Tab α → Bool
  | [] => true
  | [_] => true
  | a :: b :: t => decide (a.1 < b.1) && tsorted (b :: t)

def tkeys {α : Type} (t : Tab α) : List Nat := t.map Prod.fst

/-! ## Bits and bytes -/

/-- Field [lo+w-1 : lo] of a number. -/
def fld (v lo w : Nat) : Nat := (v >>> lo) % 2 ^ w

def bit (v k : Nat) : Bool := (v >>> k) % 2 == 1

def b2n (b : Bool) : Nat := if b then 1 else 0

/-- Little-endian bytes of a number (R8). -/
def leBytes : Nat → Nat → List Byte
  | 0, _ => []
  | n + 1, v => BitVec.ofNat 8 v :: leBytes n (v / 256)

/-- The number that little-endian bytes spell (R8). -/
def leNat : List Byte → Nat
  | [] => 0
  | b :: bs => b.toNat + 256 * leNat bs

/-- The two's complement value of the low `w` bits. -/
def sInt (w v : Nat) : Int :=
  let v := v % 2 ^ w
  if 2 * v < 2 ^ w then (v : Int) else (v : Int) - (2 ^ w : Nat)

/-- The low `w` bits of an integer. -/
def uNat (w : Nat) (i : Int) : Nat := (i % ((2 ^ w : Nat) : Int)).toNat

def popcount : Nat → Nat → Nat
  | 0, _ => 0
  | n + 1, v => v % 2 + popcount n (v / 2)

/-- The numbers below `n` whose bit is set. -/
def bitsOf (n v : Nat) : List Nat := (List.range n).filter fun k => bit v k

def maskOf (l : List Nat) : Nat := l.foldl (fun m k => m ||| (1 <<< k)) 0

def satAdd (max a b : Nat) : Nat := min max (a + b)

def insertBy {α : Type} (lt : α → α → Bool) (x : α) : List α → List α
  | [] => [x]
  | y :: ys => if lt x y then x :: y :: ys else y :: insertBy lt x ys

/-- Stable insertion sort. -/
def sortBy {α : Type} (lt : α → α → Bool) (l : List α) : List α :=
  l.foldr (insertBy fun a b => !(lt b a)) []

/-- The first member for which none of the others is smaller. -/
def minBy? {α : Type} (key : α → Nat) : List α → Option α
  | [] => none
  | x :: xs =>
    match minBy? key xs with
    | none => some x
    | some y => if key y < key x then some y else some x

def replAt {α : Type} (l : List α) (k : Nat) (v : α) : List α := l.set k v

def dedup (l : List Nat) : List Nat := l.foldl (fun acc x => if acc.contains x then acc else acc ++ [x]) []

def chunksOf {α : Type} (n : Nat) : Nat → List α → List (List α)
  | 0, _ => []
  | k + 1, l => if l.isEmpty then [] else l.take n :: chunksOf n k (l.drop n)

def zeros (n : Nat) : List Byte := List.replicate n 0

/-! ## Counters that reads clear, and W1C bits (R9, R11) -/

/-- Events before the cc `t`, and those of it. -/
def Rc.split (t : Nat) (r : Rc) : Nat × Nat := if r.at_ = t then (r.held, r.fresh) else (r.held + r.fresh - r.excess, 0)

/-- Counts `n` events in the cc `t`, saturating at `max`. -/
def Rc.bump (max n t : Nat) (r : Rc) : Rc :=
  let p := r.split t
  let new := min max (p.2 + n)
  { held := p.1, fresh := new, excess := p.1 + new - max, at_ := t }

/-- What a read in the cc `t` returns (R11: the value before that cc), and what it leaves. -/
def Rc.read (t : Nat) (r : Rc) : Nat × Rc :=
  let p := r.split t
  (p.1, { held := 0, fresh := p.2, excess := 0, at_ := t })

def W1c.set (t : Nat) (_w : W1c) : W1c := { bit := true, setAt := t }

/-- A 1 written in the cc `t` clears the bit unless the device set it in that cc (R11). -/
def W1c.clear (t : Nat) (w : W1c) : W1c := if w.bit && w.setAt == t then w else { bit := false, setAt := 0 }

/-! ## CRC-16 of R46: polynomial 0x1021, initial value 0xFFFF, in the order of transmission (LSB of each byte first) -/

def crc16Bit (c : W16) (b : Bool) : W16 :=
  let top := c.getLsbD 15
  let c' := c <<< 1
  if top != b then c' ^^^ 0x1021 else c'

def crc16Byte (c : W16) (b : Byte) : W16 :=
  (List.range 8).foldl (fun c k => crc16Bit c (b.getLsbD k)) c

def crc16 (bs : List Byte) : W16 := bs.foldl crc16Byte 0xFFFF

/-- The 32-bit header of a chain frame (R45): TYPE, DEST, SRC, LEN. -/
def frameHeader (f : ChainFrame) : Nat :=
  f.typ.toNat + 2 ^ 4 * f.dest.toNat + 2 ^ 16 * f.src.toNat + 2 ^ 28 * (f.payload.length / 4 % 16)

/-- The CRC of a frame over header and payload (R46). -/
def frameCrc (f : ChainFrame) : W16 := crc16 (leBytes 4 (frameHeader f) ++ f.payload)

/-- A frame of this module's own, with its CRC and a high stop bit. -/
def sealFrame (f : ChainFrame) : ChainFrame := { f with crc := frameCrc f, stop := true }

/-- CRC and stop bit are right (R46). -/
def frameOk (f : ChainFrame) : Bool := f.stop && f.crc == frameCrc f

/-- CRC-32 of R407 and R469 over a register seeded with the opaque initial value. -/
def crc32Bit (c : W32) (b : Bool) : W32 :=
  let top := c.getLsbD 31
  let c' := c <<< 1
  if top != b then c' ^^^ 0x04C11DB7 else c'

def crc32Byte (c : W32) (b : Byte) : W32 :=
  (List.range 8).foldl (fun c k => crc32Bit c (b.getLsbD k)) c

def crc32 (bs : List Byte) : W32 := (bs.foldl crc32Byte Config.crc32Init) ^^^ Config.crc32Final

end Sys2Proof.Machine
end

