-- ==== Sys2Proof/Machine/Float.lean ====
section
/-!
DEFINITION. The number formats of R222 to R225 as exact dyadic values, rounding to a format (R236 to R238), the
binary32 operations of R226 and R227, the conversions of R229, the special functions of R228 and the element
arithmetic of add-writes (R277).
-/

namespace Sys2Proof.Machine
open Sys2Proof

/-- A value of a format: NaN, an infinity, or the exact ±m × 2^e. -/
inductive Fv where
  | nan
  | inf (neg : Bool)
  | fin (neg : Bool) (m : Nat) (e : Int)
deriving DecidableEq, Repr

/-- Width, exponent bits, bias and fraction bits of a format code (R222). -/
def fmtParams (f : Nat) : Nat × Nat × Nat × Nat :=
  match f with
  | 2 => (32, 8, 127, 23)
  | 3 => (16, 5, 15, 10)
  | 4 => (16, 8, 127, 7)
  | 5 => (8, 4, 7, 3)
  | 6 => (8, 5, 15, 2)
  | _ => (32, 8, 127, 23)

def fmtBits (f : Nat) : Nat := (fmtParams f).1

/-- Canonical NaN (R222, R223). -/
def canonNan (f : Nat) : Nat :=
  match f with
  | 2 => 0x7FC00000 | 3 => 0x7E00 | 4 => 0x7FC0 | 5 => 0x7F | 6 => 0x7E | _ => 0x7FC00000

/-- The value of stored bits (R222, R223). -/
def decodeF (f v : Nat) : Fv :=
  let (w, eb, bias, fb) := fmtParams f
  let s := bit v (w - 1)
  let ex := fld v fb eb
  let fr := v % 2 ^ fb
  if f = 5 && v % 128 == 127 then .nan
  else if f != 5 && ex == 2 ^ eb - 1 then (if fr = 0 then .inf s else .nan)
  else if ex = 0 then .fin s fr (1 - (bias : Int) - fb)
  else .fin s (fr + 2 ^ fb) ((ex : Int) - bias - fb)

/-- m × 2^e in units of 2^q, and what lies below as (remainder, bits of it). -/
def scaleTo (m : Nat) (e q : Int) : Nat × Nat × Nat :=
  if q ≤ e then (m <<< (e - q).toNat, 0, 0)
  else
    let sh := (q - e).toNat
    (m >>> sh, m % 2 ^ sh, sh)

/-- R236, R237: whether the next value away from zero is chosen. `u` is none for nearest-even. -/
def roundUp (lo rem sh : Nat) (u : Option Nat) : Bool :=
  match u with
  | none => 2 * rem > 2 ^ sh || 2 * rem == 2 ^ sh && rem != 0 && lo % 2 == 1
  | some u => decide (65536 ≤ u + (rem * 65536) / 2 ^ sh)

/-- Exponent of the last place that a format gives to a magnitude m × 2^e, m > 0. -/
def lsbExp (f m : Nat) (e : Int) : Int :=
  let (_, _, bias, fb) := fmtParams f
  max ((Nat.log2 m : Int) + e - fb) (1 - (bias : Int) - fb)

/-- Rounds an exact value to a format's bits (R236 to R238). -/
def encodeF (f : Nat) (u : Option Nat) (v : Fv) : Nat :=
  let (w, eb, bias, fb) := fmtParams f
  let sgn (s : Bool) := if s then 2 ^ (w - 1) else 0
  match v with
  | .nan => canonNan f
  | .inf s => if f = 5 then sgn s + 0x7E else sgn s + (2 ^ eb - 1) * 2 ^ fb
  | .fin s m e =>
    if m = 0 then sgn s
    else if f = 5 && (scaleTo m e 0).1 ≥ 448 then sgn s + 0x7E
    else
      let q := lsbExp f m e
      let (lo, rem, sh) := scaleTo m e q
      let sig := lo + b2n (roundUp lo rem sh u)
      let emin : Int := 1 - (bias : Int) - fb
      let (sig, q) := if sig = 2 ^ (fb + 1) then (2 ^ fb, q + 1) else (sig, q)
      if sig < 2 ^ fb then sgn s + sig
      else
        let ex := (q - emin + 1).toNat
        if f != 5 && ex ≥ 2 ^ eb - 1 then sgn s + (2 ^ eb - 1) * 2 ^ fb
        else sgn s + ex * 2 ^ fb + (sig - 2 ^ fb)

/-- Exact sum; an exact zero of opposite signs is +0. -/
def addFv (a b : Fv) : Fv :=
  match a, b with
  | .nan, _ => .nan
  | _, .nan => .nan
  | .inf s, .inf t => if s = t then .inf s else .nan
  | .inf s, _ => .inf s
  | _, .inf t => .inf t
  | .fin s m e, .fin t n g =>
    let q := min e g
    let x : Int := (m <<< (e - q).toNat : Nat)
    let y : Int := (n <<< (g - q).toNat : Nat)
    let z := (if s then -x else x) + (if t then -y else y)
    if z = 0 then .fin (s && t) 0 q else .fin (z < 0) z.natAbs q

/-- Exact product. -/
def mulFv (a b : Fv) : Fv :=
  match a, b with
  | .nan, _ => .nan
  | _, .nan => .nan
  | .inf s, .inf t => .inf (s != t)
  | .inf s, .fin t n _ => if n = 0 then .nan else .inf (s != t)
  | .fin s m _, .inf t => if m = 0 then .nan else .inf (s != t)
  | .fin s m e, .fin t n g => .fin (s != t) (m * n) (e + g)

def f32v (w : W32) : Fv := decodeF 2 w.toNat
def f32enc (v : Fv) : W32 := BitVec.ofNat 32 (encodeF 2 none v)

/-- FADD, FMUL, FFMA (R226). -/
def fadd32 (a b : W32) : W32 := f32enc (addFv (f32v a) (f32v b))
def fmul32 (a b : W32) : W32 := f32enc (mulFv (f32v a) (f32v b))
def ffma32 (a b c : W32) : W32 := f32enc (addFv (mulFv (f32v a) (f32v b)) (f32v c))

/-- a < b for values that are not NaN, with -0 below +0 (R227). -/
def ltFv (a b : Fv) : Bool :=
  match a, b with
  | .nan, _ => false
  | _, .nan => false
  | .inf s, .inf t => s && !t
  | .inf s, .fin _ _ _ => s
  | .fin _ _ _, .inf t => !t
  | .fin s m e, .fin t n g =>
    match addFv (.fin s m e) (.fin (!t) n g) with
    | .fin d z _ => if z = 0 then s && !t else d
    | _ => false

/-- Equal as IEEE 754 compares: ±0 are equal, NaN to nothing. -/
def eqFv (a b : Fv) : Bool :=
  match a, b with
  | .nan, _ => false
  | _, .nan => false
  | .inf s, .inf t => s == t
  | .fin s m e, .fin t n g =>
    match addFv (.fin s m e) (.fin (!t) n g) with
    | .fin _ z _ => z == 0
    | _ => false
  | _, _ => false

def isNanFv : Fv → Bool | .nan => true | _ => false

/-- FMIN and FMAX (R227). -/
def fminmax32 (mx : Bool) (a b : W32) : W32 :=
  let x := f32v a
  let y := f32v b
  if isNanFv x && isNanFv y then BitVec.ofNat 32 (canonNan 2)
  else if isNanFv x then b
  else if isNanFv y then a
  else if ltFv x y then (if mx then b else a) else (if mx then a else b)

/-- Integer part toward zero, as an integer (R229). -/
def truncFv (v : Fv) : Int :=
  match v with
  | .fin s m e => let n : Int := ((scaleTo m e 0).1 : Nat); if s then -n else n
  | _ => 0

/-- CVT between format codes 0 s32, 1 u32 and 2 to 6 (R229). Code 0 is s32 and 1 u32 as R168 numbers them. -/
def cvt (src dst : Nat) (v : Nat) : Nat :=
  let clamp (lo hi : Int) (i : Int) : Int := max lo (min hi i)
  let toInt (i : Int) : Nat :=
    if dst = 0 then uNat 32 (clamp (-2 ^ 31) (2 ^ 31 - 1) i) else uNat 32 (clamp 0 (2 ^ 32 - 1) i)
  if src ≤ 1 then
    let i : Int := if src = 0 then sInt 32 v else ((v % 2 ^ 32 : Nat) : Int)
    if dst ≤ 1 then toInt i
    else encodeF dst none (.fin (i < 0) i.natAbs 0)
  else
    let x := decodeF src (v % 2 ^ fmtBits src)
    if dst ≤ 1 then
      match x with
      | .nan => 0
      | .inf s => if dst = 0 then (if s then 2 ^ 31 else 2 ^ 31 - 1) else (if s then 0 else 2 ^ 32 - 1)
      | _ => toInt (truncFv x)
    else encodeF dst none x

/-! ## SFN (R228): any binary32 within the accuracy bound, chosen by a free value -/

/-- Integer square root by bits, from the bit `n` downward. -/
def isqrtFrom (x : Nat) : Nat → Nat → Nat
  | 0, r => r
  | n + 1, r =>
    let t := r + 2 ^ n
    isqrtFrom x n (if t * t ≤ x then t else r)

def isqrt (x : Nat) : Nat := isqrtFrom x (Nat.log2 x / 2 + 1) 0

/-- 31-bit magnitude of the binary32 next to m × 2^e, below it or above it; 0x7F800000 stands for 2^128 and more. -/
def magBits (up : Bool) (m : Nat) (e : Int) : Nat :=
  if m = 0 then 0
  else
    let q := lsbExp 2 m e
    let (lo, rem, _) := scaleTo m e q
    let sig := lo + b2n (up && rem != 0)
    let (sig, q) := if sig = 2 ^ 24 then (2 ^ 23, q + 1) else (sig, q)
    if sig < 2 ^ 23 then sig
    else
      let ex := (q + 149 + 1).toNat
      if ex ≥ 255 then 0x7F800000 else ex * 2 ^ 23 + (sig - 2 ^ 23)

/-- Ordinal of the least binary32 not below a × 2^e, and of the greatest not above it: -magnitude for negatives. -/
def ordCeil (a : Int) (e : Int) : Int :=
  if 0 ≤ a then (magBits true a.natAbs e : Nat) else -((magBits false a.natAbs e : Nat) : Int)
def ordFloor (a : Int) (e : Int) : Int :=
  if 0 ≤ a then (magBits false a.natAbs e : Nat) else -((magBits true a.natAbs e : Nat) : Int)

/-- The binary32 bits of an ordinal, flushed to a signed zero below 2^-126. -/
def sfnBits (neg : Bool) (o : Int) : Nat :=
  let m := o.natAbs
  if m < 0x00800000 then (if neg then 0x80000000 else 0)
  else if o < 0 then 0x80000000 + m else m

/-- Picks a result that differs by at most err × 2^e from the exact value, known to lie in [lo, hi] × 2^e. -/
def sfnChoose (pick : Nat) (lo hi err : Int) (e : Int) : Nat :=
  let a := ordCeil (hi - err) e
  let b := ordFloor (lo + err) e
  let n := (b - a).toNat + 1
  sfnBits (lo < 0) (a + ((pick % n : Nat) : Int))

/-- n ulp of the value lo × 2^e, in units of 2^e. -/
def ulpErr (n : Nat) (lo : Int) (e : Int) : Int :=
  ((n <<< (lsbExp 2 lo.natAbs e - e).toNat : Nat) : Int)

/-- 2^f for a fraction f = fr / 2^64, in units of 2^-80, from below within 2^-70. -/
def exp2Frac (fr : Nat) : Nat :=
  ((List.range 64).foldl (fun (acc : Nat × Nat) i =>
    let r := isqrt (acc.1 <<< 80)
    (r, if bit fr (63 - i) then (acc.2 * r) >>> 80 else acc.2)) (2 ^ 81, 2 ^ 80)).2

/-- log₂ of a significand y / 2^100 in [1, 2), in units of 2^-60, from below within 2^-58. -/
def log2Frac (y : Nat) : Nat :=
  ((List.range 60).foldl (fun (acc : Nat × Nat) _ =>
    let z := (acc.1 * acc.1) >>> 100
    if 2 ^ 101 ≤ z then (z / 2, 2 * acc.2 + 1) else (z, 2 * acc.2)) (y, 0)).2

/-- The special functions 0 reciprocal, 1 reciprocal square root, 2 power of two, 3 logarithm (R228). -/
def sfn (fn pick : Nat) (w : W32) : W32 :=
  let pinf := 0x7F800000
  let ninf := 0xFF800000
  let nan := canonNan 2
  let v := match f32v w with
    | .fin s m e => if m < 2 ^ 23 then Fv.fin s 0 e else Fv.fin s m e
    | x => x
  BitVec.ofNat 32 <|
  match fn, v with
  | _, .nan => nan
  | 0, .inf s => if s then 0x80000000 else 0
  | 0, .fin s 0 _ => if s then ninf else pinf
  | 0, .fin s m e =>
    let n := 2 ^ 110
    let lo : Int := (n / m : Nat)
    let hi : Int := ((n + m - 1) / m : Nat)
    let ex := -110 - e
    if s then sfnChoose pick (-hi) (-lo) (ulpErr 1 lo ex) ex else sfnChoose pick lo hi (ulpErr 1 lo ex) ex
  | 1, .inf s => if s then nan else 0
  | 1, .fin s 0 _ => if s then ninf else pinf
  | 1, .fin true _ _ => nan
  | 1, .fin false m e =>
    let (m, e) := if e % 2 = 0 then (m, e) else (2 * m, e - 1)
    let r := isqrt (2 ^ 220 / m)
    let lo : Int := (r : Nat)
    let exact := r * r * m == 2 ^ 220
    sfnChoose pick lo (if exact then lo else lo + 1) (ulpErr 1 lo (-110 - e / 2)) (-110 - e / 2)
  | 2, .inf s => if s then 0 else pinf
  | 2, .fin s m e =>
    if m != 0 && (Nat.log2 m : Int) + e ≥ 9 then (if s then 0 else pinf)
    else
      -- x from below in units of 2^-64; the next unit is a factor below 1 + 2^-64
      let (q, rem, _) := scaleTo m e (-64)
      let x : Int := if s then -((q + b2n (rem != 0) : Nat) : Int) else (q : Nat)
      let ip := x / 2 ^ 64
      let fr := (x % 2 ^ 64).toNat
      let lo : Int := ((exp2Frac fr : Nat) : Int) - b2n (fr != 0)
      let hi : Int := if fr = 0 && rem == 0 then lo else min (lo + 2 ^ 18) (2 ^ 81)
      if ip ≥ 128 then pinf
      else sfnChoose pick lo hi (ulpErr 2 lo (ip - 80)) (ip - 80)
  | 3, .inf s => if s then nan else pinf
  | 3, .fin _ 0 _ => ninf
  | 3, .fin true _ _ => nan
  | 3, .fin false m e =>
    let k := Nat.log2 m
    let y := (m <<< 100) >>> k
    let ip : Int := (k : Int) + e
    let lo : Int := ip * 2 ^ 60 + (log2Frac y : Nat)
    let exact := y == 2 ^ 100
    if exact && ip == 0 then 0
    else
      let hi : Int := if exact then lo else lo + 8
      let mid := ip == -1 || ip == 0 || (ip == 1 && exact)
      let err := if mid then 2 ^ 38 else ulpErr 2 (if lo < 0 then hi else lo) (-60)
      sfnChoose pick lo hi err (-60)
  | _, _ => nan

/-! ## Add-writes (R277) -/

/-- Bytes of an element type of R277: u32, binary32, bfloat16, binary16. -/
def addElemBytes (typ : Nat) : Nat := if typ ≤ 1 then 4 else 2

/-- Adds one element to the stored one (R277). -/
def addElem (typ old x : Nat) : Nat :=
  match typ with
  | 0 => (old + x) % 2 ^ 32
  | 1 => encodeF 2 none (addFv (decodeF 2 old) (decodeF 2 x))
  | 2 => encodeF 4 none (addFv (decodeF 4 old) (decodeF 4 x))
  | _ => encodeF 3 none (addFv (decodeF 3 old) (decodeF 3 x))

end Sys2Proof.Machine
end

