-- ==== Sys2Proof/Machine/Ops.lean ====
section
/-!
DEFINITION. The named operations on the parts of the device: access to cores, contexts, queues, functions, ports and
tables; time; free values; output to the host; the counters of R499 to R503; the events of R461, R462 and R513;
memory bytes and poison (R287, R289).
-/

namespace Sys2Proof.Machine
open Sys2Proof

/-! ## Time -/

/-- cc in a number of µs (R4: 1.05 cycles per ns). -/
def ccUs (us : Nat) : Nat := us * 1050

/-- Whole µs in a number of cc. -/
def usOf (cc : Nat) : Nat := cc / 1050

/-- HUB_CC (R498). -/
def Dev.hubCc (d : Dev) : Nat := if d.power.mainLock then d.time - d.power.mainLockAt else 0

/-- Root-clock cycles since the rise of PWR_GOOD (STW_STAGE_END): 50 MHz is 1.05 GHz / 21. -/
def Dev.rootCc (d : Dev) : Nat := (d.time - d.power.pwrGoodAt) / 21

/-! ## Access -/

/-- The core record that no table lists: everything zero but the LFSR of R468. -/
def Core.init (c : Nat) : Core := { lfsr := BitVec.ofNat 16 (1 + c) }

def Dev.core (d : Dev) (c : Nat) : Core := tget (Core.init c) d.cores c
def Dev.setCore (d : Dev) (c : Nat) (k : Core) : Dev := { d with cores := tset d.cores c k }
def Dev.modCore (d : Dev) (c : Nat) (f : Core → Core) : Dev := d.setCore c (f (d.core c))

def Core.group? (k : Core) (g : Nat) : Option Group := lookup? k.slots g
def Core.setGroup (k : Core) (n : Nat) (g : Group) : Core := { k with slots := tset k.slots n g }
def Dev.group? (d : Dev) (c n : Nat) : Option Group := (d.core c).group? n
def Dev.setGroup (d : Dev) (c n : Nat) (g : Group) : Dev := d.modCore c fun k => k.setGroup n g
def Dev.modGroup (d : Dev) (c n : Nat) (f : Group → Group) : Dev :=
  d.modCore c fun k => { k with slots := tmodIf k.slots n f }
def Dev.modSeq (d : Dev) (c : Nat) (f : Seq → Seq) : Dev := d.modCore c fun k => { k with seq := f k.seq }

def Dev.ctx (d : Dev) (c : Nat) : Ctx := tget {} d.host.ctxs c
def Dev.setCtx (d : Dev) (c : Nat) (x : Ctx) : Dev := { d with host := { d.host with ctxs := tset d.host.ctxs c x } }
def Dev.modCtx (d : Dev) (c : Nat) (f : Ctx → Ctx) : Dev := d.setCtx c (f (d.ctx c))

def Ctx.queue (x : Ctx) (q : Nat) : Queue := tget {} x.queues q
def Dev.queue (d : Dev) (c q : Nat) : Queue := (d.ctx c).queue q
def Dev.modQueue (d : Dev) (c q : Nat) (f : Queue → Queue) : Dev :=
  d.modCtx c fun x => { x with queues := tmod {} x.queues q f }

def Dev.func (d : Dev) (f : Fn) : Func := tget {} d.host.funcs f
def Dev.modFunc (d : Dev) (f : Fn) (g : Func → Func) : Dev :=
  { d with host := { d.host with funcs := tmod {} d.host.funcs f g } }

def Dev.port (d : Dev) (p : Nat) : Port := tget {} d.fab.ports p
def Dev.modPort (d : Dev) (p : Nat) (f : Port → Port) : Dev :=
  { d with fab := { d.fab with ports := tmod {} d.fab.ports p f } }

def Dev.tileMem (d : Dev) (t : Nat) : TileMem := tget {} d.mem.tiles t
def Dev.modTileMem (d : Dev) (t : Nat) (f : TileMem → TileMem) : Dev :=
  { d with mem := { d.mem with tiles := tmod {} d.mem.tiles t f } }

def Dev.biv (d : Dev) (p : Nat) : BivPort := tget {} d.mem.biv p
def Dev.modBiv (d : Dev) (p : Nat) (f : BivPort → BivPort) : Dev :=
  { d with mem := { d.mem with biv := tmod {} d.mem.biv p f } }

def Dev.pitchCnt (d : Dev) (p : Nat) : PitchCount := tget {} d.cnt p
def Dev.modPitchCnt (d : Dev) (p : Nat) (f : PitchCount → PitchCount) : Dev :=
  { d with cnt := tmod {} d.cnt p f }

def Dev.pitchBoard (d : Dev) (p : Nat) : PitchBoard := tget {} d.board.pitches p
def Dev.modPitchBoard (d : Dev) (p : Nat) (f : PitchBoard → PitchBoard) : Dev :=
  { d with board := { d.board with pitches := tmod {} d.board.pitches p f } }

def Dev.engine (d : Dev) (e : Nat) : Engine := tget {} d.board.engines e
def Dev.modEngine (d : Dev) (e : Nat) (f : Engine → Engine) : Dev :=
  { d with board := { d.board with engines := tmod {} d.board.engines e f } }

def Dev.node? (d : Dev) (n : Nat) : Option Node := lookup? d.board.nodes n
def Dev.modNode (d : Dev) (n : Nat) (f : Node → Node) : Dev :=
  { d with board := { d.board with nodes := tmodIf d.board.nodes n f } }
def Dev.graph? (d : Dev) (g : Nat) : Option Graph := lookup? d.board.graphs g
def Dev.modGraph (d : Dev) (g : Nat) (f : Graph → Graph) : Dev :=
  { d with board := { d.board with graphs := tmodIf d.board.graphs g f } }
def Dev.desc? (d : Dev) (n : Nat) : Option Desc := lookup? d.board.descs n
def Dev.modDesc (d : Dev) (n : Nat) (f : Desc → Desc) : Dev :=
  { d with board := { d.board with descs := tmodIf d.board.descs n f } }

def Dev.req? (d : Dev) (t : Nat) : Option Req := lookup? d.mem.reqs t
def Dev.setReq (d : Dev) (t : Nat) (r : Req) : Dev := { d with mem := { d.mem with reqs := tset d.mem.reqs t r } }
def Dev.modReq (d : Dev) (t : Nat) (f : Req → Req) : Dev :=
  { d with mem := { d.mem with reqs := tmodIf d.mem.reqs t f } }
def Dev.delReq (d : Dev) (t : Nat) : Dev := { d with mem := { d.mem with reqs := tdel d.mem.reqs t } }

def Dev.modPower (d : Dev) (f : Power → Power) : Dev := { d with power := f d.power }
def Dev.modChain (d : Dev) (f : Chain → Chain) : Dev := { d with chain := f d.chain }
def Dev.modBoot (d : Dev) (f : Boot → Boot) : Dev := { d with boot := f d.boot }
def Dev.modSec (d : Dev) (f : Security → Security) : Dev := { d with sec := f d.sec }
def Dev.modPlan (d : Dev) (f : Plan → Plan) : Dev := { d with plan := f d.plan }
def Dev.modMem (d : Dev) (f : Mem → Mem) : Dev := { d with mem := f d.mem }
def Dev.modXl (d : Dev) (f : Xlate → Xlate) : Dev := { d with xl := f d.xl }
def Dev.modHost (d : Dev) (f : HostIf → HostIf) : Dev := { d with host := f d.host }
def Dev.modBoard (d : Dev) (f : Board → Board) : Dev := { d with board := f d.board }
def Dev.modFab (d : Dev) (f : Fabric → Fabric) : Dev := { d with fab := f d.fab }
def Dev.modRec (d : Dev) (f : Recorder → Recorder) : Dev := { d with recorder := f d.recorder }

/-- Full service (R88): the end of stage 10. -/
def Dev.fullService (d : Dev) : Bool := d.boot.stage == 10

/-- The device's own ID for translation and routing (R334): 0 without a valid ID and with ID 0xFFF. -/
def Dev.ownId (d : Dev) : Nat :=
  if d.chain.idValid && !(d.chain.devId == 0xFFF) then d.chain.devId.toNat else 0

/-- Off the fabric (R410): no valid ID, or ID 0xFFF. -/
def Dev.offFabric (d : Dev) : Bool := !d.chain.idValid || d.chain.devId == 0xFFF

/-- Applies a function over a list, left to right. -/
def Dev.forEach {α : Type} (d : Dev) (l : List α) (f : Dev → α → Dev) : Dev := l.foldl f d

/-! ## Free values (log 4) -/

/-- Takes the next value that the manual leaves open. -/
def Dev.takeFree (d : Dev) : W64 × Dev := (Config.freeValue d.free, { d with free := d.free + 1 })

/-! ## Output -/

def Dev.emit (d : Dev) (o : Out) : Dev := { d with out := o :: d.out }

/-- Completion records and MSI-X messages wait until the PCIe link is up (R58). -/
def Dev.hostSend (d : Dev) (o : Out) : Dev :=
  if d.power.pcieL0 then d.emit o else d.modHost fun h => { h with hostHeld := h.hostHeld ++ [o] }

/-- An MSI-X vector of a function is raised (R348): sent, or held pending while its table entry is masked. -/
def Dev.msix (d : Dev) (f vec : Nat) : Dev :=
  if (tget ((1 : BitVec 128) <<< 96) (d.func f).msix vec).getLsbD 96 then
    d.modFunc f fun g => { g with msixPend := if g.msixPend.contains vec then g.msixPend else g.msixPend ++ [vec] }
  else d.hostSend (.msix f vec)

/-- The command-completion vector of a function (R348). -/
def Dev.cmdVector (d : Dev) (f : Nat) : Dev := d.msix f (if f = 0 then 1 else 0)

/-- The fault vector of the function that created a context (R348). -/
def Dev.faultVector (d : Dev) (f : Nat) : Dev := d.msix f (if f = 0 then 2 else 0)

/-! ## Counters (R499 to R503) -/

/-- The identifiers match a counter's filter (R501). -/
def ProgCounter.selects (k : ProgCounter) (id : Option Ident) : Bool :=
  let mode := fld k.filt.toNat 32 2
  let layer := BitVec.ofNat 16 (fld k.filt.toNat 16 16)
  let oper := BitVec.ofNat 16 (fld k.filt.toNat 0 16)
  let ctx := bit k.filt.toNat 35
  match id with
  | none => mode == 0 && !ctx
  | some i =>
    (mode == 0 || mode == 1 && i.layer == layer || mode == 2 && i.oper == oper
      || mode == 3 && i.layer == layer && i.oper == oper) && (!ctx || fld k.filt.toNat 36 12 == i.cid)

/-- The banks as a read in the cc `t` must return them are those at its start (R503). -/
def ProgCounter.mark (t : Nat) (k : ProgCounter) : ProgCounter :=
  if k.chgAt = t then k
  else { k with chgAt := t, prev := (k.value, k.epoch, k.closedValue, k.closedEpoch), fresh := 0 }

/-- `n` events of kind `ev` (R500) with the given identifiers; VALUE saturates (R502). -/
def ProgCounter.count (t ev n : Nat) (id : Option Ident) (k : ProgCounter) : ProgCounter :=
  if k.sel == ev && ev != 0 && k.selects id then
    let k := k.mark t
    { k with value := satAdd (2 ^ 48 - 1) k.value n, fresh := satAdd (2 ^ 48 - 1) k.fresh n }
  else k

/-- A dispatch of a node that the filter selects starts an epoch (R502): the closed bank takes the running bank of the start
of the cc, and the events of the cc are the new epoch's. -/
def ProgCounter.dispatch (t : Nat) (id : Option Ident) (k : ProgCounter) : ProgCounter :=
  if bit k.filt.toNat 34 && k.selects id then
    let k := k.mark t
    { k with closedValue := k.prev.1, closedEpoch := k.epoch, value := k.fresh, epoch := (k.epoch + 1) % 2 ^ 16 }
  else k

/-- Counts an event of R500 for a pitch: EVENT 0x01 to 0x10 are lantern counters 0 to 15 as well (R499). -/
def Dev.count (d : Dev) (p : Option Nat) (ev n : Nat) (id : Option Ident) : Dev :=
  match p with
  | none => d
  | some p =>
    d.modPitchCnt p fun c =>
      let lant := if 1 ≤ ev && ev ≤ 16 then tmod 0 c.lant (ev - 1) (fun v => (v + n) % 2 ^ 64) else c.lant
      { c with lant := lant, prog := c.prog.map fun e => (e.1, e.2.count d.time ev n id) }

/-- EPOCH_START. A dispatch by the Board: EVENT 0x0F after the epochs of that cc have started (R502). -/
def Dev.countDispatch (d : Dev) (p : Nat) (id : Option Ident) : Dev :=
  (d.modPitchCnt p fun c => { c with prog := c.prog.map fun e => (e.1, e.2.dispatch d.time id) }).count
    (some p) 15 1 id

/-! ## Events (R461, R462, R513) -/

/-- Severity of an event kind (R461). -/
def eventSev (kind : Nat) : Nat :=
  match kind with
  | 0x01 => 2 | 0x02 => 1 | 0x03 => 2 | 0x04 => 1 | 0x05 => 2 | 0x06 => 2 | 0x07 => 2 | 0x08 => 2
  | 0x09 => 1 | 0x0A => 2 | 0x0B => 2 | 0x0C => 2 | 0x0D => 1 | 0x0E => 2 | 0x0F => 2 | 0x10 => 2
  | 0x11 => 2 | 0x12 => 0 | 0x13 => 1 | 0x14 => 0 | 0x15 => 3 | 0x16 => 1 | 0x17 => 2
  | _ => 0

/-- Events of one cc enter the queue in ascending order of KIND, UNIT, DETAIL (R513). -/
def Event.before (a b : Event) : Bool :=
  a.time == b.time && (a.kind < b.kind || a.kind == b.kind && (a.unit < b.unit
    || a.unit == b.unit && a.detail < b.detail))

def insertEvent (e : Event) : List Event → List Event
  | [] => [e]
  | x :: xs => if e.before x then e :: x :: xs else x :: insertEvent e xs

/-- The two payload words of a FAULT frame (R462). -/
def faultPayload (e : Event) (since : Nat) : List Byte :=
  leBytes 4 (e.kind + 2 ^ 8 * e.sev + 2 ^ 16 * e.unit) ++ leBytes 4 (e.detail % 2 ^ 24 + 2 ^ 24 * since)

/-- A module that holds CHN_OUT low stays silent (R53, R462). -/
def Dev.chnSilent (d : Dev) : Bool := d.power.fatal || d.chain.stewardStopped || !d.power.pwrGood

/-- FAULT_FRAME_SEND (R462): queued in phase 3 unless one of the kind went out less than 10 ms before. -/
def Dev.faultFrame (d : Dev) (e : Event) : Dev :=
  if e.sev < 2 then d else
  let since := satAdd 0xFF (tget 0 d.chain.faultSince e.kind) 1
  let recent := match lookup? d.chain.faultSentAt e.kind with
    | some t => decide (d.time < t + ccUs 10000)
    | none => false
  if d.chain.phase = 3 && !d.chnSilent && !recent then
    d.modChain fun c => { c with
      own := c.own ++ [sealFrame { typ := 3, dest := 0xFFF, src := c.devId, payload := faultPayload e since,
                                   crc := 0, stop := true }]
      faultSentAt := tset c.faultSentAt e.kind d.time
      faultSince := tset c.faultSince e.kind 0 }
  else d.modChain fun c => { c with faultSince := tset c.faultSince e.kind since }

/-- An event is detected now: it enters the queue of 256 places, or is counted in DROP_Q (R513). -/
def Dev.event (d : Dev) (kind unit detail : Nat) : Dev :=
  let e : Event := { kind := kind, sev := eventSev kind, unit := unit % 2 ^ 16, detail := detail % 2 ^ 24,
                     time := d.hubCc }
  let d := d.faultFrame e
  d.modRec fun r =>
    if r.queue.length < 256 then { r with queue := insertEvent e r.queue }
    else { r with dropQ := r.dropQ.bump 0xFFFF 1 d.time }

/-! ## Memory bytes and poison -/

/-- The canonical form of the byte memory: addresses strictly rising, no byte equal to the 0 that an unlisted
address reads as. -/
def Memory.wf (m : List Host.Cell) : Bool := tsorted m && m.all fun c => c.2 != 0

/-- The byte at an address; an unlisted one is 0. -/
def byteAt (m : List Host.Cell) (a : Nat) : Byte := tget 0 m a

/-- Writes one byte canonically. -/
def setByte (m : List Host.Cell) (a : Nat) (b : Byte) : List Host.Cell := tput 0 m a b

/-- Writes bytes at consecutive addresses. -/
def setBytes (m : List Host.Cell) (a : Nat) : List Byte → List Host.Cell
  | [] => m
  | b :: bs => setBytes (setByte m a b) (a + 1) bs

/-- Removes the listed bytes of an interval: it reads 0 again. -/
def clearBytes (m : List Host.Cell) (a n : Nat) : List Host.Cell := m.filter fun c => !(a ≤ c.1 && c.1 < a + n)

def bytesAt (m : List Host.Cell) (a n : Nat) : List Byte := (List.range n).map fun i => byteAt m (a + i)

def Dev.rawBytes (d : Dev) (a n : Nat) : List Byte := bytesAt d.mem.bytes a n

/-- Poison of the 32 B chunk that holds a byte. -/
def Dev.chunkPois (d : Dev) (a : Nat) : Bool := tget false d.mem.pois (a / 32)

def Dev.setChunkPois (d : Dev) (chunk : Nat) (v : Bool) : Dev :=
  d.modMem fun m => { m with pois := tput false m.pois chunk v }

/-- The 32 B chunks touched by an interval of bytes. -/
def chunksTouched (a n : Nat) : List Nat :=
  if n = 0 then [] else (List.range ((a + n - 1) / 32 + 1 - a / 32)).map fun i => a / 32 + i

/-- Any byte of the interval is poisoned. -/
def Dev.anyPois (d : Dev) (a n : Nat) : Bool := (chunksTouched a n).any fun c => tget false d.mem.pois c

/-- Writes bytes to a place whose poison unit is the 32 B chunk (a scratchpad, R287, R289): an unpoisoned write of a
whole chunk clears it, a poisoned write sets it, a partial one leaves it. -/
def Dev.writeChunked (d : Dev) (a : Nat) (bs : List Byte) (pois : Bool) : Dev :=
  let d := d.modMem fun m => { m with bytes := setBytes m.bytes a bs }
  d.forEach (chunksTouched a bs.length) fun d c =>
    if pois then d.setChunkPois c true
    else if a ≤ 32 * c && 32 * c + 32 ≤ a + bs.length then d.setChunkPois c false
    else d

/-- Core IDs 0 to 255 (R16). -/
def allCores : List Nat := List.range 256

/-- The next state in which the module is `d`; the queue stays. -/
def State.to (s : State) (d : Dev) : Host.Outcome State Fault Refusal := .next { s with dev := d }

end Sys2Proof.Machine
end

