-- ==== Sys2Proof/Machine/View.lean ====
section
/-!
DEFINITION. What the running plan gives whom (R90 to R106, R436), the fixed topology of tiles, quads and cores
(R15 to R19), and the local address map (R252, R253, R273, R280, R335).
-/

namespace Sys2Proof.Machine
open Sys2Proof

/-! ## Fields of a plan (R90 to R106) -/

def planByte (pl : Tab Byte) (o : Nat) : Nat := (tget 0 pl o).toNat
def planNat (pl : Tab Byte) (o n : Nat) : Nat := leNat ((List.range n).map fun i => tget 0 pl (o + i))

/-- A PITCH record's fields (R93). -/
def planValid (pl : Tab Byte) (p : Nat) : Bool := bit (planByte pl (0x110 + 64 * p)) 0
def planVf (pl : Tab Byte) (p : Nat) : Nat := planByte pl (0x110 + 64 * p + 1)
def planCheck (pl : Tab Byte) (p : Nat) : Nat := planByte pl (0x110 + 64 * p + 2) % 4
def planHubDma (pl : Tab Byte) (p : Nat) : Nat := planByte pl (0x110 + 64 * p + 3) % 16
def planQuads (pl : Tab Byte) (p : Nat) : Nat := planNat pl (0x110 + 64 * p + 8) 8
def planSpare (pl : Tab Byte) : Nat := planNat pl 0x18 8
def planId (pl : Tab Byte) : Nat := planNat pl 0x10 8
/-- Owner byte of way `w` of tile `t`'s slice (R96). -/
def planWay (pl : Tab Byte) (t w : Nat) : Nat := planByte pl (0x1120 + 32 * t + w)
/-- Owner byte of granule `g` (R98). -/
def planGran (pl : Tab Byte) (g : Nat) : Nat := planByte pl (0x11B0 + g)
/-- Entry `e` of NoC table `b`: 0 to 3 meshes, 4 to 11 bridges (R100). -/
def planSlot (pl : Tab Byte) (b e : Nat) : Nat := planByte pl (0x12C0 + 64 * b + e)
/-- Route to a device (R103). -/
def planRoute (pl : Tab Byte) (i : Nat) : Nat := planNat pl (0x15D0 + 2 * i) 2
/-- Share of pitch `p` on port `n`; `p` = 64 gives the transit share (R105). -/
def planShare (pl : Tab Byte) (n p : Nat) : Nat :=
  if p < 64 then planByte pl (0x35E0 + 64 * n + p) else planByte pl (0x35E0 + 768 + n)
/-- START and LEN in GiB of a pitch's bivouac range on a port (R106). -/
def planBiv (pl : Tab Byte) (p n : Nat) : Nat × Nat :=
  (planNat pl (0x3900 + 16 * p + 8 * n) 2, planNat pl (0x3900 + 16 * p + 8 * n + 2) 2)

def planQuadCount (pl : Tab Byte) (p : Nat) : Nat := popcount 64 (planQuads pl p)

def allPitches : List Nat := List.range 64
def planPitches (pl : Tab Byte) : List Nat := allPitches.filter fun p => planValid pl p

/-! ## The running plan -/

def Dev.planRunning (d : Dev) : Bool := d.plan.running.isSome
def Dev.pl (d : Dev) : Tab Byte := d.plan.running.getD []
def Dev.pitchValid (d : Dev) (p : Nat) : Bool := p < 64 && d.planRunning && planValid d.pl p
def Dev.validPitches (d : Dev) : List Nat := if d.planRunning then planPitches d.pl else []

/-- Quad of a core, tile of a core and of a quad (R16, R17). -/
def quadOf (c : Nat) : Nat := c / 4
def tileOf (c : Nat) : Nat := c / 64
def tileOfQuad (q : Nat) : Nat := q / 16

/-- The pitch that owns a quad (R18, R93). -/
def Dev.pitchOfQuad (d : Dev) (q : Nat) : Option Nat :=
  d.validPitches.find? fun p => bit (planQuads d.pl p) q

def Dev.pitchOfCore (d : Dev) (c : Nat) : Option Nat := if c < 256 then d.pitchOfQuad (quadOf c) else none

/-- Quads of a pitch in order of logical number (R94, R112). -/
def Dev.quadsOf (d : Dev) (p : Nat) : List Nat := tget (bitsOf 64 (planQuads d.pl p)) d.plan.order p

/-- Cores of a pitch in order of logical number (R94). -/
def Dev.coresOf (d : Dev) (p : Nat) : List Nat :=
  if d.pitchValid p then (d.quadsOf p).flatMap fun q => [4 * q, 4 * q + 1, 4 * q + 2, 4 * q + 3] else []

/-- Number of quads of a pitch. -/
def Dev.quadCount (d : Dev) (p : Nat) : Nat := if d.pitchValid p then planQuadCount d.pl p else 0

/-- The logical number of a core in its pitch (R94). -/
def Dev.logicalOf (d : Dev) (p c : Nat) : Option Nat := (d.coresOf p).findIdx? fun x => x == c

def Dev.wayEnabled (d : Dev) (t w : Nat) : Bool := !d.boot.disabledWays.contains (t, w)

/-- The pitch that owns a way of a slice (R96), none for an unowned or disabled way. -/
def Dev.wayOwner (d : Dev) (t w : Nat) : Option Nat :=
  if d.planRunning && d.wayEnabled t w && planWay d.pl t w < 64 then some (planWay d.pl t w) else none

/-- Enabled ways that a pitch owns in a slice. -/
def Dev.waysOf (d : Dev) (p t : Nat) : List Nat := (List.range 32).filter fun w => d.wayOwner t w == some p

/-- The pitch that owns a granule (R98). -/
def Dev.granOwner (d : Dev) (g : Nat) : Option Nat :=
  if d.planRunning && planGran d.pl g < 64 then some (planGran d.pl g) else none

/-- Granules of a pitch in ascending number. -/
def Dev.gransOf (d : Dev) (p : Nat) : List Nat := (List.range 256).filter fun g => d.granOwner g == some p

def gib : Nat := 2 ^ 30

/-- The pitch whose bivouac range holds an address of a port (R106, R294). -/
def Dev.bivOwner (d : Dev) (n dpa : Nat) : Option Nat :=
  d.validPitches.find? fun p =>
    let r := planBiv d.pl p n
    r.1 * gib ≤ dpa && dpa < (r.1 + r.2) * gib

/-- The pitch of a virtual function (R93). -/
def Dev.pitchOfVf (d : Dev) (f : Fn) : Option Nat :=
  if 1 ≤ f && f ≤ 64 then d.validPitches.find? fun p => planVf d.pl p == f else none

/-- A pitch owns hub DMA engine `e`, numbered 0 to 3. -/
def Dev.hubDmaOf (d : Dev) (p : Nat) : List Nat := bitsOf 4 (planHubDma d.pl p)

/-- The pitch that owns a DMA engine: 0 to 63 quad engines, 64 to 67 hub engines (R95). -/
def Dev.pitchOfEngine (d : Dev) (e : Nat) : Option Nat :=
  if e < 64 then d.pitchOfQuad e else d.validPitches.find? fun p => bit (planHubDma d.pl p) (e - 64)

/-- An entry of a tile's mesh table names the owner: a pitch ID, or 0xFF (R100). -/
def Dev.meshHas (d : Dev) (t owner : Nat) : Bool :=
  if d.planRunning then (List.range 64).any fun e => planSlot d.pl t e == owner else owner == 0xFF

/-- The pitch is held saved by a SAVE, or a core of it is saved by a commit (R444, R451). -/
def Dev.pitchSaved (d : Dev) (p : Nat) : Bool := d.host.preSaved.getLsbD p

/-- A commit that was not refused stands between phases C and F. -/
def Dev.commitPastB (d : Dev) : Bool := d.plan.commit.any fun c => c.reason == 0 && 3 ≤ c.phase

/-- Debug is unlocked for a pitch (R492). -/
def Dev.unlocked (d : Dev) (p : Nat) : Bool := d.sec.unlocked.getLsbD p

/-- A context has existed and its teardown has not ended (R113: the pitch "has contexts"). -/
def Dev.pitchCtxs (d : Dev) (p : Nat) : List Nat :=
  (tkeys d.host.ctxs).filter fun c => let x := d.ctx c; x.exists_ && x.pitch == p

/-- Contexts of a pitch from creation to the end of teardown. -/
def Dev.pitchHasCtxs (d : Dev) (p : Nat) : Bool :=
  (d.pitchCtxs p).any fun c => let x := d.ctx c; !x.killed

/-- A context that exists and is neither dying nor killed. -/
def Ctx.live (x : Ctx) : Bool := x.exists_ && !x.dying && !x.killed

/-- The streams of a context may issue: it is live, or what ends it came in this very cc (R149, R153). -/
def Dev.streamsRun (d : Dev) (cid : Nat) : Bool :=
  (d.ctx cid).live || ((d.ctx cid).dying && (d.ctx cid).teardownAt == d.time)

/-- A teardown that began in an earlier cc runs. -/
def Dev.tearing (d : Dev) (cid : Nat) : Bool := (d.ctx cid).dying && (d.ctx cid).teardownAt != d.time

/-! ## The local address map (R252) -/

inductive Region where
  | stacked (tile : Nat)
  | spad (core : Nat)
  | imem (core : Nat)
  | control
  | biv (port : Nat)
  | reserved
deriving DecidableEq, Repr

def spadBase : Nat := 0x04000000000
def imemBase : Nat := 0x04040000000
def bivBase : Nat := 0x20000000000

/-- The region of a local address (R252). -/
def regionOf (a : Nat) : Region :=
  if a < 0x400000000 then .stacked (a / 0x100000000)
  else if spadBase ≤ a && a < spadBase + 0x20000000 then .spad ((a - spadBase) / 0x200000)
  else if imemBase ≤ a && a < imemBase + 0x1000000 then .imem ((a - imemBase) / 0x10000)
  else if 0x08000000000 ≤ a && a < 0x08000000000 + 0x4000000 then .control
  else if bivBase ≤ a && a < 0x30000000000 then .biv 0
  else if 0x30000000000 ≤ a && a < 0x40000000000 then .biv 1
  else .reserved

def Region.isStacked : Region → Bool | .stacked _ => true | _ => false
def Region.isBiv : Region → Bool | .biv _ => true | _ => false
def Region.isSpad : Region → Bool | .spad _ => true | _ => false
def Region.isImem : Region → Bool | .imem _ => true | _ => false

/-- Lines of the region may be held in the canopy and the L1, and take atomics (R253). -/
def Region.cached (r : Region) : Bool := r.isStacked || r.isBiv

/-- Local address of a byte of a core's scratchpad and instruction memory. -/
def spadAddr (c x : Nat) : Nat := spadBase + c * 0x200000 + x
def imemAddr (c x : Nat) : Nat := imemBase + c * 0x10000 + x

/-- Device number and local address of a 56-bit physical address. -/
def devOf (pa : Nat) : Nat := pa >>> 44
def localOf (pa : Nat) : Nat := pa % 2 ^ 44

/-- Device physical address on a bivouac port (R294). -/
def dpaOf (a : Nat) : Nat := (a - bivBase) % 0x10000000000

/-- The home slice of a line of stacked memory or of the bivouac tier (R273). -/
def Dev.homeTile (d : Dev) (a : Nat) : Nat :=
  match regionOf a with
  | .stacked t => t
  | .biv n =>
    match d.bivOwner n (dpaOf a) with
    | some p => ((List.range 4).find? fun t => !(d.waysOf p t).isEmpty).getD 0
    | none => 0
  | _ => 0

/-- The pitch to whom a request of another device counts (R274): the owner of what it addresses. -/
def Dev.ownerOfAddr (d : Dev) (a : Nat) : Option Nat :=
  match regionOf a with
  | .stacked _ => d.granOwner (a / 0x4000000)
  | .biv n => d.bivOwner n (dpaOf a)
  | .spad c => d.pitchOfCore c
  | .imem c => d.pitchOfCore c
  | _ => none

/-- R326: the kind of an unowned granule; an owned one has none. -/
def Dev.granKind (d : Dev) (g : Nat) : Nat :=
  if (d.granOwner g).isSome then 0 else fld (tget 0 d.xl.granKind (g / 32)).toNat (2 * (g % 32)) 2

/-- Page of stacked memory (64 KiB) of a local address, and its replica directory entry (R463). -/
def pageOf (a : Nat) : Nat := a / 0x10000
def Dev.repl (d : Dev) (pg : Nat) : ReplEntry := tget {} d.mem.repl pg
/-- The entry as it stood at the start of the cc, which a detection uses (R466). -/
def Dev.replSeen (d : Dev) (pg : Nat) : ReplEntry :=
  let e := d.repl pg
  if e.setAt = d.time then { e with valid := e.oldValid, replica := e.oldReplica } else e

/-- A granule is in service (R73). -/
def Dev.granInService (d : Dev) (g : Nat) : Bool := !d.boot.oosGranules.contains g

/-- The save area of a pitch's logical core (R446): local address of a byte of record `l`. A record is read back from
the granules in which it was written, whatever a commit has given to the pitch since. -/
def Dev.recordAddr (d : Dev) (p l off : Nat) : Nat :=
  let x := l * 0x279800 + off
  ((tget (d.gransOf p) d.plan.recGrans p)[x / 0x4000000]?).getD 0 * 0x4000000 + x % 0x4000000

/-! ## Node bodies (R380) -/

/-- A field of a node's body: bytes 0x10 to 0x3F of its record. -/
def Node.field (n : Node) (off len : Nat) : Nat := leNat ((n.body.drop (off - 0x10)).take len)

/-! ## Who reaches a register (R347, R492, R537) -/

/-- A function's accesses reach the full map: the steward's always after power-on reset, the host's over a link that is
up at full service (R64), from a VF only with VF Enable. -/
def Dev.reach (d : Dev) (fn : Fn) : Bool :=
  d.power.porReleased &&
    (fn == 65 && !d.chain.stewardStopped
      || d.power.pcieL0 && d.fullService && (fn == 0 || (fn ≤ 64 && d.host.vfEnable)))

/-- The function acts as the PF does: the PF itself or the steward, which sees the PF's view (R347). -/
def isPf (fn : Fn) : Bool := fn == 0 || fn == 65

/-- Whose registers a function's writes reach: the steward acts on the PF's (R347). -/
def regFn (fn : Fn) : Fn := if fn == 65 then 0 else fn

/-- A function takes configuration requests. -/
def Dev.configReach (d : Dev) (fn : Fn) : Bool := d.power.pcieL0 && (fn == 0 || (fn ≤ 64 && d.host.vfEnable))

/-- Configuration space is served (R63, R64). -/
def Dev.configServed (d : Dev) : Bool := d.boot.recovery || 4 ≤ d.boot.stage

/-- A configuration request: answered with Request Retry Status, and without effect, until configuration space is
served (R63). -/
def Dev.onConfig (d : Dev) (fn : Fn) (f : Dev → Dev) : Dev :=
  if !d.configReach fn then d else if d.configServed then f d else d.emit .cfgRetry

/-- A function reaches the CORE_ block of a core (R537). -/
def Dev.reachCore (d : Dev) (fn : Fn) (c : Nat) : Bool :=
  d.reach fn && c < 256 && (isPf fn || match d.pitchOfCore c with
    | some p => d.pitchOfVf fn == some p
    | none => false)

/-- A function reaches the CORE_DBG_ registers of a core: its pitch is unlocked (R492). -/
def Dev.reachDbg (d : Dev) (fn : Fn) (c : Nat) : Bool :=
  d.reachCore fn c && match d.pitchOfCore c with | some p => d.unlocked p | none => false

/-- A context's per-context registers are open to the PF and to the VF of its pitch (R347). -/
def Dev.reachCtx (d : Dev) (fn : Fn) (cid : Nat) : Bool :=
  d.reach fn && cid < 4096 && (isPf fn || d.pitchOfVf fn == some (d.ctx cid).pitch)

/-! ## The 64-bit command registers (R538) -/

def cmdRegIdx : CmdReg → Nat | .xl => 0 | .peg => 1 | .pack => 2 | .dbg => 3

/-- The 64-bit word of a write that starts a command; the function's held low half is discarded with it. -/
def Dev.takeCmd (d : Dev) (fn : Fn) (r : CmdReg) (w : CmdWrite) : Dev × Nat :=
  let lo := (tget 0 (d.func fn).held (cmdRegIdx r)).toNat
  (d.modFunc fn fun f => { f with held := tdel f.held (cmdRegIdx r) },
    match w with | .full v => v.toNat | .high v => v.toNat * 2 ^ 32 + lo)

end Sys2Proof.Machine
end

