-- ==== Sys2Proof/Machine/Home.lean ====
section
/-!
DEFINITION. The memory system at the home of a line: the canopy (R272 to R279), the memory ports and their sector
code (R280 to R286), poison (R287 to R289), atomics and add-writes (R139 to R141, R276, R277), pegs (R369, R455),
quarantine and the start of repairs (R464, R465), the bivouac ports (R293 to R296), and requests in flight.
-/

namespace Sys2Proof.Machine
open Sys2Proof

/-! ## The sector code (R283) -/

/-- Multiplication in GF(2^8) modulo x^8 + x^4 + x^3 + x^2 + 1. -/
def gfMul (a b : Nat) : Nat :=
  ((List.range 8).foldl (fun (acc : Nat × Nat) k =>
    let r := if bit b k then acc.1 ^^^ acc.2 else acc.1
    let x := acc.2 * 2
    (r, if x ≥ 256 then x ^^^ 0x11D else x)) (0, a)).1

/-- α^k with α = 2. -/
def gfPow : Nat → Nat
  | 0 => 1
  | k + 1 => gfMul (gfPow k) 2

/-- Generator polynomial, coefficients from the highest power: (x − α^0) … (x − α^7). -/
def rsGenerator : List Nat :=
  (List.range 8).foldl (fun g k =>
    let r := gfPow k
    List.zipWith (· ^^^ ·) (g ++ [0]) (0 :: g.map fun c => gfMul c r)) [1]

/-- The eight check symbols of a sector: the remainder of d(x)·x^8 by g(x) (R283). -/
def sectorCheck (data : List Byte) : List Nat :=
  let g := rsGenerator.drop 1
  data.foldl (fun (reg : List Nat) b =>
    let f := b.toNat ^^^ reg.headD 0
    List.zipWith (· ^^^ ·) (reg.drop 1 ++ [0]) (g.map fun c => gfMul c f)) (List.replicate 8 0)

/-! ## Lines -/

def lineOf (a : Nat) : Nat := a / 128

/-- A line as its home holds it: 128 B and the poison of its two sectors. -/
structure LineView where
  data : List Byte
  p0 : Bool := false
  p1 : Bool := false
deriving DecidableEq, Repr

/-- The sector is wholly covered by the written offsets. -/
def coversSector (bs : List (Nat × Byte)) (s : Nat) : Bool :=
  (List.range 64).all fun o => bs.any fun b => b.1 == 64 * s + o

def touchesSector (bs : List (Nat × Byte)) (s : Nat) : Bool := bs.any fun b => b.1 / 64 == s

/-- Sector poison after a write (R289). -/
def secPoisAfter (bs : List (Nat × Byte)) (pois : List Nat) (s : Nat) (old : Bool) : Bool :=
  if pois.contains s && touchesSector bs s then true
  else if coversSector bs s then false else old

/-- Applies a masked write to a line: offsets 0 to 127, `pois` lists the sectors written poisoned. -/
def LineView.write (v : LineView) (bs : List (Nat × Byte)) (pois : List Nat) : LineView :=
  { data := bs.foldl (fun l b => replAt l b.1 b.2) v.data
    p0 := secPoisAfter bs pois 0 v.p0
    p1 := secPoisAfter bs pois 1 v.p1 }

def LineView.nat (v : LineView) (o n : Nat) : Nat := leNat ((v.data.drop o).take n)
def LineView.pois (v : LineView) (o : Nat) : Bool := if o < 64 then v.p0 else v.p1

/-- Writes n little-endian bytes, poisoning the sector if asked. -/
def LineView.putNat (v : LineView) (o n x : Nat) (pois : Bool) : LineView :=
  let bs := (leBytes n x).zipIdx.map fun b => (o + b.2, b.1)
  v.write bs (if pois then [o / 64] else [])

def bytesOfTab (t : Tab Byte) : List Byte := (List.range 128).map fun o => tget 0 t o
def tabOfBytes (l : List Byte) : Tab Byte := (l.zipIdx.filter fun b => b.1 != 0).map fun b => (b.2, b.1)

/-! ## Quarantine and poison in storage -/

/-- The page of a stacked line is quarantined (R465). -/
def Dev.quarantined (d : Dev) (line : Nat) : Bool :=
  (regionOf (line * 128)).isStacked && (d.repl (pageOf (line * 128))).quarantined

def Dev.bivFailed (d : Dev) (line : Nat) : Bool :=
  match regionOf (line * 128) with | .biv n => (d.biv n).st == 2 | _ => false

/-- A line of backing memory as it is stored. -/
def Dev.memLine (d : Dev) (line : Nat) : LineView :=
  { data := d.rawBytes (line * 128) 128
    p0 := d.anyPois (line * 128) 64
    p1 := d.anyPois (line * 128 + 64) 64 }

/-- Poison of one 64 B sector in storage: both of its chunks. -/
def Dev.setSecPois (d : Dev) (sector : Nat) (v : Bool) : Dev :=
  (d.setChunkPois (2 * sector) v).setChunkPois (2 * sector + 1) v

/-- A sector write crosses CXL, or waits in its hub DMA engine behind 256 that are outstanding (R293). -/
def BivPort.sendWrite (b : BivPort) (line t : Nat) : BivPort :=
  if b.writes.length < 256 then { b with writes := b.writes ++ [(line, t)] } else { b with writeWaits := b.writeWaits ++ [line] }

/-- The reads of a line's two sectors cross CXL, or wait behind 256 that are outstanding. -/
def BivPort.sendReads (b : BivPort) (line t : Nat) : BivPort :=
  if b.pending.length < 128 then { b with pending := b.pending ++ [(line, t)] } else { b with waits := b.waits ++ [line] }

/-- What waited goes out as far as there is room. -/
def BivPort.sendWaiting (b : BivPort) (t : Nat) : BivPort :=
  let b := match b.waits with
    | l :: rest => if b.pending.length < 128 then { b with pending := b.pending ++ [(l, t)], waits := rest } else b
    | [] => b
  match b.writeWaits with
  | l :: rest => if b.writes.length < 256 then { b with writes := b.writes ++ [(l, t)], writeWaits := rest } else b
  | [] => b

/-- A write of a line's sector has been answered. -/
def BivPort.wrote (b : BivPort) (line t : Nat) : BivPort :=
  let ws : List (Nat × Nat) := match b.writes.find? fun w => w.1 == line with
    | some w => b.writes.erase w
    | none => b.writes
  ({ b with writes := ws } : BivPort).sendWaiting t

/-- Counts dropped requests of a FAILED bivouac port (R296). -/
def Dev.bivTimeouts (d : Dev) (n k : Nat) : Dev :=
  d.modBiv n fun b => { b with timeout := b.timeout.bump 0xFF k d.time }

/-- Writes a line back to memory, with the lantern counts of its sectors (R499 5, 6) for pitch `p` and identifiers
`id`. A write to a quarantined page or a FAILED port is dropped (R296, R465). -/
def Dev.memWriteLine (d : Dev) (line : Nat) (v : LineView) (secs : List Nat) (p : Option Nat) (id : Option Ident) :
    Dev :=
  match regionOf (line * 128) with
  | .biv n =>
    if (d.biv n).st != 1 then d.bivTimeouts n secs.length
    else
      let d := d.forEach secs fun d s =>
        ((d.modMem fun m => { m with bytes := setBytes m.bytes (line * 128 + 64 * s) ((v.data.drop (64 * s)).take 64) }
          ).setSecPois (2 * line + s) (v.pois (64 * s))).modBiv n fun b => b.sendWrite line d.time
      d.count p 7 secs.length id
  | .stacked _ =>
    if d.quarantined line then d
    else
      let d := d.forEach secs fun d s =>
        (d.modMem fun m => { m with
          bytes := setBytes m.bytes (line * 128 + 64 * s) ((v.data.drop (64 * s)).take 64)
          symErr := tput 0 m.symErr (2 * line + s) 0 }).setSecPois (2 * line + s) (v.pois (64 * s))
      d.count p 6 secs.length id
  | _ => d

/-! ## The canopy -/

/-- Key of a way in a set of a slice. -/
def canKey (t set w : Nat) : Nat := 2 ^ 18 * t + 32 * set + w
def setOf (line : Nat) : Nat := line % 8192
def keyTile (k : Nat) : Nat := k / 2 ^ 18
def keyWay (k : Nat) : Nat := k % 32

/-- The place that holds a line in its home slice (R274). -/
def Dev.canFind (d : Dev) (line : Nat) : Option Nat :=
  let t := d.homeTile (line * 128)
  ((List.range 32).map fun w => canKey t (setOf line) w).find? fun k =>
    match lookup? d.mem.canopy k with | some l => l.line == line | none => false

def Dev.canLine? (d : Dev) (line : Nat) : Option CanLine :=
  match d.canFind line with | some k => lookup? d.mem.canopy k | none => none

def CanLine.view (l : CanLine) : LineView := { data := bytesOfTab l.data, p0 := l.pois0, p1 := l.pois1 }

/-- Replaces a held line's content; `dirty` is or-ed in. A use by the way's owner moves it in that pitch's
replacement order (R274). -/
def Dev.canPut (d : Dev) (k : Nat) (v : LineView) (dirty use : Bool) : Dev :=
  d.modMem fun m => { m with
    stamp := m.stamp + 1
    canopy := tmodIf m.canopy k fun l => { l with
      data := tabOfBytes v.data, pois0 := v.p0, pois1 := v.p1, dirty := l.dirty || dirty
      used := if use then m.stamp + 1 else l.used } }

def Dev.canDrop (d : Dev) (k : Nat) : Dev := d.modMem fun m => { m with canopy := tdel m.canopy k }

/-- Writes a held line back if dirty, and drops it. Write-backs have no node (R501). -/
def Dev.canEvict (d : Dev) (k : Nat) : Dev :=
  match lookup? d.mem.canopy k with
  | none => d
  | some l =>
    let p := d.wayOwner (keyTile k) (keyWay k)
    let d := d.canDrop k
    if l.dirty then d.memWriteLine l.line l.view [0, 1] p none else d

/-- Ways in which a request of a pitch may allocate a line (R274), without those lost to tags (R467). -/
def Dev.allocKeys (d : Dev) (p : Option Nat) (line : Nat) : List Nat :=
  match p with
  | none => []
  | some p =>
    let t := d.homeTile (line * 128)
    ((d.waysOf p t).map fun w => canKey t (setOf line) w).filter fun k => !d.mem.deadWays.contains k

/-- Allocates a line: a free way, else the least recently used one, whose dirty line is written back (R274). -/
def Dev.canAlloc (d : Dev) (keys : List Nat) (line : Nat) (v : LineView) (dirty : Bool) : Dev :=
  let free := keys.find? fun k => (lookup? d.mem.canopy k).isNone
  let key := match free with
    | some k => some k
    | none => minBy? (fun k => match lookup? d.mem.canopy k with | some l => l.used | none => 0) keys
  match key with
  | none => d
  | some k =>
    let d := d.canEvict k
    d.modMem fun m => { m with
      stamp := m.stamp + 1
      canopy := tset m.canopy k { line := line, data := tabOfBytes v.data, pois0 := v.p0, pois1 := v.p1,
                                  dirty := dirty, used := m.stamp + 1 } }

/-! ## Atomics (R139 to R141), add-writes (R277) and pegs (R369) -/

/-- Bytes of an atomic's type: u64, s64 and b64 are 8 B. -/
def atomBytes (typ : Nat) : Nat := if typ == 1 || typ == 3 || typ == 6 then 8 else 4

/-- One step of an operation other than CAS on an old value. -/
def atomOp1 (op typ old x : Nat) : Nat :=
  let w := 8 * atomBytes typ
  let signed := typ == 2 || typ == 3
  let lt (a b : Nat) : Bool := if signed then sInt w a < sInt w b else a < b
  match op with
  | 0 => if typ == 4 then (fadd32 (BitVec.ofNat 32 old) (BitVec.ofNat 32 x)).toNat else (old + x) % 2 ^ w
  | 1 => if lt x old then x else old
  | 2 => if lt old x then x else old
  | 3 => old &&& x
  | 4 => old ||| x
  | 5 => old ^^^ x
  | _ => x

/-- A sub-operation on an old value: the new value, and what each lane receives with its CAS success (R139 to R141).
Lanes are in ascending order; CAS carries the swap value first and the comparand second. -/
def atomSub (op typ old : Nat) (lanes : List (Nat × W64 × W64)) : Nat × List (Nat × Nat × Bool) :=
  let w := 2 ^ (8 * atomBytes typ)
  if op = 7 then
    match lanes with
    | [] => (old, [])
    | (k, swap, cmp) :: rest =>
      let ok := old == cmp.toNat % w
      let new := if ok then swap.toNat % w else old
      (new, (k, old, ok) :: rest.map fun l => (l.1, new, false))
  else
    lanes.foldl (fun acc l => (atomOp1 op typ acc.1 (l.2.1.toNat % w), acc.2 ++ [(l.1, acc.1, false)])) (old, [])

/-- What a lane of an atomic receives for f32 ADD is the value after the lower lanes' additions, which `atomSub`
gives as for every other operation (R140). -/
def atomApply (op typ : Nat) (v : LineView) (s : AtomSub) : LineView × (Nat × W64) × Bool :=
  let o := s.addr % 128
  let n := atomBytes typ
  let old := v.nat o n
  let (new, _) := atomSub op typ old s.lanes
  let pois := s.pois || v.pois o
  let v' := v.putNat o n new pois
  ({ v' with p0 := v'.p0 || (pois && o < 64), p1 := v'.p1 || (pois && 64 ≤ o) },
    (s.addr, BitVec.ofNat 64 old), new != old)

/-- Adds the masked elements of an add-write to a line (R277); offsets in `bs` cover whole aligned elements. -/
def addWriteLine (typ : Nat) (v : LineView) (bs : List (Nat × Byte)) (pois : List Nat) : LineView :=
  let n := addElemBytes typ
  let v' := (List.range (128 / n)).foldl (fun (v : LineView) i =>
    let o := i * n
    match bs.find? fun b => b.1 == o with
    | none => v
    | some _ =>
      let x := leNat ((List.range n).map fun k => match bs.find? fun b => b.1 == o + k with | some b => b.2 | none => 0)
      v.putNat o n (addElem typ (v.nat o n) x) (v.pois o)) v
  let ps (s : Nat) (old : Bool) : Bool := old || (pois.contains s && touchesSector bs s)
  { v' with p0 := ps 0 v.p0, p1 := ps 1 v.p1 }

/-- A peg signal adds to bits [62:0] modulo 2^63 and leaves bit [63] (R369). -/
def pegAdd (old amt : Nat) : Nat := (old / 2 ^ 63) * 2 ^ 63 + (old % 2 ^ 63 + amt % 2 ^ 63) % 2 ^ 63

/-! ## Performing a request on its line (R276) -/

/-- The bytes of a burst that lie in a line, by offset in the line. -/
def burstIn (addr line : Nat) (bs : List (Nat × Byte)) : List (Nat × Byte) :=
  (bs.filter fun b => (addr + b.1) / 128 == line).map fun b => ((addr + b.1) % 128, b.2)

/-- Sectors of a line that a burst's poisoned sectors (by address / 64 from `addr`) are. -/
def burstPois (addr line : Nat) (ps : List Nat) : List Nat :=
  (ps.filter fun s => (addr + 64 * s) / 128 == line).map fun s => (addr + 64 * s) % 128 / 64

/-- Applies a request to one line: the new line, whether it changed, the response and its poisoned sectors, and for
an atomic the old values. -/
def performOn (r : Req) (line : Nat) (v : LineView) : LineView × Bool × List Byte × List Nat × List (Nat × W64) :=
  let a := r.addr % 2 ^ 44
  match r.kind with
  | .read => (v, false, v.data, (if v.p0 then [0] else []) ++ (if v.p1 then [1] else []), [])
  | .write bs ps => (v.write (burstIn a line bs) (burstPois a line ps), true, [], [], [])
  | .atomic op typ subs =>
    let x := subs.foldl (fun (acc : LineView × Bool × List (Nat × W64) × List Nat) s =>
      if s.addr / 128 != line then acc else
      let po := acc.1.pois (s.addr % 128)
      let y := atomApply op typ acc.1 s
      (y.1, acc.2.1 || y.2.2, acc.2.2.1 ++ [y.2.1],
        if po || s.pois then acc.2.2.2 ++ [s.addr % 128 / 64] else acc.2.2.2)) (v, false, [], [])
    (x.1, true, [b2n x.2.1], x.2.2.2, x.2.2.1)
  | .addWrite typ bs ps => (addWriteLine typ v (burstIn a line bs) (burstPois a line ps), true, [], [], [])
  | .pegSignal amt =>
    let o := a % 128
    (v.putNat o 8 (pegAdd (v.nat o 8) amt.toNat) (v.pois o), true, [], [], [])
  | .pegAbandon =>
    let o := a % 128
    (v.putNat o 8 (v.nat o 8 % 2 ^ 63 + 2 ^ 63) (v.pois o), true, [], [], [])

/-- Lines that a request covers. -/
def Req.lines (r : Req) : List Nat :=
  let a := r.addr % 2 ^ 44
  (List.range ((a + max r.len 1 - 1) / 128 + 1 - a / 128)).map fun i => a / 128 + i

/-- A core's load, fill, prefetch, drain or atomic allocates on a miss; DMA, remote and steward requests do not
(R275). -/
def Req.fromCore (r : Req) : Bool :=
  match r.org with
  | .fill _ _ | .load _ _ | .drain _ _ | .atom _ _ | .hint => true
  | _ => false

def Req.isAtomicKind (r : Req) : Bool :=
  match r.kind with | .atomic _ _ _ | .addWrite _ _ _ | .pegSignal _ | .pegAbandon => true | _ => false

/-- Allocates on a miss (R275): core requests, and every atomic and add-write. -/
def Req.allocates (r : Req) : Bool := r.fromCore || r.isAtomicKind

/-- A full-line write needs no fetch (R275). -/
def Req.fullLine (r : Req) (line : Nat) : Bool :=
  match r.kind with
  | .write bs _ =>
    let b := burstIn (r.addr % 2 ^ 44) line bs
    coversSector b 0 && coversSector b 1
  | _ => false

/-- Records a request's answer: it is performed. -/
def Dev.answer (d : Dev) (tag : Nat) (resp : List Byte) (pois : List Nat) (olds : List (Nat × W64)) : Dev :=
  let d := d.modReq tag fun r => { r with st := 2, resp := r.resp ++ resp, respPois := r.respPois ++ pois }
  match d.req? tag with
  | some { org := .atom c id, .. } =>
    d.modCore c fun k => { k with atoms := tmodIf k.atoms id fun a => { a with
      olds := a.olds ++ olds
      pois := a.pois ++ (olds.filter fun o => pois.contains (o.1 % 128 / 64)).map fun o => o.1
      changed := a.changed || resp == [1] } }
  | _ => d

/-! ## Misses, ports and fetches -/

/-- Port of a stacked address: tile offset bits [14:9] (R280). -/
def portOf (a : Nat) : Nat := fld a 9 6

/-- Counts errors of a pitch's memory (R499 12, 13). -/
def Dev.countErr (d : Dev) (corrected : Bool) (p : Option Nat) : Dev :=
  d.count p (if corrected then 13 else 14) 1 none

/-- Sets a page's quarantine bit (R465, event kind 0x0A). -/
def Dev.quarantine (d : Dev) (pg : Nat) : Dev :=
  let t := pg / 65536
  let d := d.modMem fun m => { m with repl := tmod {} m.repl pg fun e => { e with quarantined := true } }
  (d.modTileMem t fun m => { m with quarLast := pg % 65536 }).event 0x0A t (pg % 65536)

/-- MEM_ECC_ADDR, MEM_UE and the counters when a sector is found uncorrectable (R284, R286). -/
def Dev.sectorUe (d : Dev) (sector : Nat) : Dev :=
  let a := sector * 64
  let t := a / 0x100000000
  let d := d.modTileMem t fun m => { m with
    poisoned := m.poisoned.bump 0xFFFF 1 d.time
    eccAddrValid := if m.eccAddrValid.bit then m.eccAddrValid else m.eccAddrValid.set d.time
    eccSector := if m.eccAddrValid.bit then m.eccSector else sector }
  (d.event 0x03 (t + 4 * fld a 30 2) (fld a 6 24)).countErr false (d.granOwner (a / 0x4000000))

/-- A corrected sector: counted, recorded, and queued for rewriting if there is room (R284, R286). -/
def Dev.sectorCe (d : Dev) (sector errs : Nat) : Dev :=
  let a := sector * 64
  let t := a / 0x100000000
  let d := d.modTileMem t fun m => { m with
    corr := m.corr.bump 0xFFFF 1 d.time
    rewriteQ := if m.rewriteQ.contains sector || 256 ≤ m.rewriteQ.length then m.rewriteQ
      else m.rewriteQ ++ [sector] }
  let d := d.modMem fun m => { m with symErr := tput 0 m.symErr sector errs }
  (d.event 0x02 t (portOf a)).countErr true (d.granOwner (a / 0x4000000))

/-- One sector read of a port with a number of symbol errors (R284, R285): its bytes, its poison, and whether it was
found uncorrectable. -/
def Dev.readSector (d : Dev) (sector err : Nat) : Dev × List Byte × Bool × Bool :=
  let stored := d.anyPois (sector * 64) 64
  let bs := d.rawBytes (sector * 64) 64
  let err := max err (tget 0 d.mem.symErr sector)
  if err = 0 then (d, bs, stored, false)
  else if err ≤ 3 then (if stored then (d, bs, true, false) else (d.sectorCe sector err, bs, false, false))
  else if err ≤ 5 then
    ((d.modMem fun m => { m with symErr := tput 0 m.symErr sector err }).sectorUe sector, bs, true, true)
  else
    match Config.miscorrected d.free with
    | none => ({ (d.modMem fun m => { m with symErr := tput 0 m.symErr sector err }).sectorUe sector with
                   free := d.free + 1 }, bs, true, true)
    | some x => ({ d with free := d.free + 1 }, (x ++ zeros 64).take 64, false, false)

/-- Sends a request: it takes the next tag. -/
def Dev.send (d : Dev) (r : Req) : Dev × Nat :=
  ({ d with mem := { d.mem with
      reqs := tset d.mem.reqs d.mem.nextTag { r with sentAt := d.time }
      nextTag := d.mem.nextTag + 1 } }, d.mem.nextTag)

/-- The replica page lies on another device. -/
def Dev.replicaFar (d : Dev) (r : Repair) : Bool := devOf r.replica != d.ownId

/-- The engine of a tile turns to its oldest repair (R464): a replica on another device is read in 128 chunks of 512 B. -/
def Dev.repairReads (d : Dev) (t : Nat) : Dev :=
  match (d.tileMem t).repairs with
  | [] => d
  | r :: _ =>
    -- canopy lines of the page are invalidated, dirty or clean
    let d := d.modMem fun m => { m with canopy := m.canopy.filter fun e => !(e.2.line / 512 == r.page) }
    if !d.replicaFar r then d
    else d.forEach (List.range 128) fun d i =>
      (d.send { kind := .read, addr := r.replica + 512 * i, len := 512, org := .repair t, dev := some (devOf r.replica) }).1

/-- Starts a repair of a page, or joins the running one; the requests given are held (R464). -/
def Dev.startRepair (d : Dev) (pg : Nat) (held : List Nat) : Dev :=
  let t := pg / 65536
  let rs := (d.tileMem t).repairs
  if (rs.any fun r => r.page == pg) then
    d.modTileMem t fun m => { m with
      repairs := m.repairs.map fun r => if r.page == pg then { r with held := r.held ++ held } else r }
  else
    let d := d.modTileMem t fun m => { m with
      repairs := m.repairs ++ [{ page := pg, at_ := d.time, replica := (d.replSeen pg).replica, held := held }] }
    if rs.isEmpty then d.repairReads t else d

/-- The page is under repair: its requests are held. -/
def Dev.repairing (d : Dev) (line : Nat) : Bool :=
  (regionOf (line * 128)).isStacked &&
    (d.tileMem (line * 128 / 0x100000000)).repairs.any fun r => r.page == line / 512

/-- A poisoned sector of the page starts a repair (R464): its directory entry is valid and not quarantined. -/
def Dev.repairable (d : Dev) (line : Nat) : Bool :=
  (regionOf (line * 128)).isStacked && (d.replSeen (line / 512)).valid && !(d.repl (line / 512)).quarantined

/-- An uncorrectable sector of a shared granule whose entry is not valid quarantines its page (R465). -/
def Dev.quarantineOnUe (d : Dev) (line : Nat) (ue : Bool) : Dev :=
  if ue && (regionOf (line * 128)).isStacked && d.granKind (line * 128 / 0x4000000) == 2
      && !(d.replSeen (line / 512)).valid && !d.quarantined line then d.quarantine (line / 512) else d

def poisonedLine : LineView := { data := zeros 128, p0 := true, p1 := true }

/-- One waiting request is applied to a line that has arrived. -/
def serveWaiting (line : Nat) (acc : Dev × LineView × Bool) (t : Nat) : Dev × LineView × Bool :=
  match acc.1.req? t with
  | none => acc
  | some r =>
    if r.st == 2 then acc else
    let (v', ch, resp, ps, olds) := performOn r line acc.2.1
    (acc.1.answer t resp ps olds, v', acc.2.2 || ch)

/-- Applies the waiting requests to a line that has arrived, in their order of arrival (R276): it is allocated if the
first of them that may allocate has a way (R275), and passed through otherwise. -/
def Dev.deliverLine (d : Dev) (line : Nat) (v : LineView) (tags : List Nat) : Dev :=
  let keys := (tags.map fun t => match d.req? t with
    | some r => if r.allocates then d.allocKeys r.pitch line else []
    | none => []).find? fun ks => !ks.isEmpty
  let x := tags.foldl (serveWaiting line) (d, v, false)
  match keys with
  | some ks => if d.quarantined line then x.1 else x.1.canAlloc ks line x.2.1 x.2.2
  | none => if x.2.2 then x.1.memWriteLine line x.2.1 [0, 1] none none else x.1

/-! ## Order between LC reads and bulk requests of a pitch (R291) -/

def Req.isLcRead (r : Req) : Bool := r.lc && match r.kind with | .read => true | _ => false

/-- Port of a stacked line, on its tile. -/
def portKey (line : Nat) : Nat × Nat := (line * 128 / 0x100000000, portOf (line * 128))

/-- The pitch for which a line is fetched, and whether an LC read waits for it. -/
def Dev.fetchPitch (d : Dev) (f : Nat × List Nat) : Option Nat := (f.2.head?.bind d.req?).bind fun r => r.pitch
def Dev.fetchLc (d : Dev) (f : Nat × List Nat) : Bool := f.2.any fun t => (d.req? t).any Req.isLcRead

/-- The fetch may end: no LC read of its pitch at its port goes ahead of it. A bulk burst ends before an LC read that came
later only if it had started; one of them at most had (log 156). -/
def Dev.portTurn (d : Dev) (f : Nat × List Nat) : Bool :=
  let rival (g : Nat × List Nat) : Bool :=
    portKey g.1 == portKey f.1 && d.fetchPitch g == d.fetchPitch f && d.fetchLc g
  !((d.mem.fetches.takeWhile fun g => g.1 != f.1).any rival)
    && (d.fetchLc f || !(((d.mem.fetches.dropWhile fun g => g.1 != f.1).drop 1).any fun g =>
      rival g && d.mem.lcPassed.contains g.1))

/-- The fetch of a line leaves its port. -/
def Dev.leavePort (d : Dev) (f : Nat × List Nat) : Dev :=
  let passed := if d.fetchLc f then [] else (d.mem.fetches.filter fun g =>
    portKey g.1 == portKey f.1 && d.fetchPitch g == d.fetchPitch f && d.fetchLc g).map fun g => g.1
  d.modMem fun m => { m with
    fetches := m.fetches.filter fun g => g.1 != f.1
    lcPassed := (m.lcPassed ++ passed).filter fun l => l != f.1 }

/-- An LC read of a pitch has been sent to a home slice and is not yet served there. -/
def Dev.lcAt (d : Dev) (p : Option Nat) (tile : Nat) (x : Nat × Req) : Bool :=
  x.2.isLcRead && x.2.st == 0 && x.2.dev.isNone && x.2.pitch == p && (regionOf (localOf x.2.addr)).cached
    && d.homeTile (localOf x.2.addr) == tile

/-- A request's turn at its home slice (R291, R292): no LC read of its pitch goes ahead of it, and the tile's mesh table has
an entry of its pitch. -/
def Dev.homeTurn (d : Dev) (tag : Nat) (r : Req) : Bool :=
  let t := d.homeTile (localOf r.addr)
  (if r.isLcRead then !(d.mem.reqs.any fun x => d.lcAt r.pitch t x && decide (x.1 < tag))
    else r.lc || !(d.mem.reqs.any fun x => d.lcAt r.pitch t x))
    && r.pitch.all fun p => d.meshHas t p

/-- PORT_READ_DONE: the fetch of a stacked line ends, with symbol errors seen in its two sectors (R284). -/
def Dev.portReadDone (d : Dev) (line err0 err1 : Nat) : Dev :=
  match d.mem.fetches.find? fun f => f.1 == line with
  | none => d
  | some (l, tags) =>
    if !(regionOf (line * 128)).isStacked then d else
    let d := d.leavePort (l, tags)
    let r := (tags.head?.bind fun t => d.req? t)
    let d := d.count (r.bind fun r => r.pitch) 5 2 (r.bind fun r => r.ident)
    if d.quarantined line then d.deliverLine line poisonedLine tags
    else
      let (d, b0, p0, u0) := d.readSector (2 * line) err0
      let (d, b1, p1, u1) := d.readSector (2 * line + 1) err1
      if (p0 || p1) && d.repairable line then d.startRepair (line / 512) tags
      else
        let d := d.quarantineOnUe line (u0 || u1)
        if d.quarantined line then d.deliverLine line poisonedLine tags
        else d.deliverLine line { data := b0 ++ b1, p0 := p0, p1 := p1 } tags

/-- BIV_RESPONSE: both sectors of a bivouac line have arrived, with the CXL poison indications (R295); or a write of one of
its sectors has been answered. -/
def Dev.bivResponse (d : Dev) (line : Nat) (pois0 pois1 : Bool) : Dev :=
  match regionOf (line * 128), d.mem.fetches.find? fun f => f.1 == line with
  | .biv n, some (_, tags) =>
    if (d.biv n).st != 1 then d else
    let d := d.modMem fun m => { m with fetches := m.fetches.filter fun f => f.1 != line }
    let r := (tags.head?.bind fun t => d.req? t)
    let d := d.count (r.bind fun r => r.pitch) 7 2 (r.bind fun r => r.ident)
    let v := d.memLine line
    let v := { v with p0 := v.p0 || pois0, p1 := v.p1 || pois1 }
    let d := d.modBiv n fun b => ({ b with
      poisonRx := b.poisonRx.bump 0xFF (b2n v.p0 + b2n v.p1) d.time
      pending := b.pending.filter fun l => l.1 != line
      waits := b.waits.filter fun l => l != line }).sendWaiting d.time
    d.deliverLine line v tags
  | .biv n, none => d.modBiv n fun b => b.wrote line d.time
  | _, _ => d

/-- A line is fetched for a request: from its memory port, or from its bivouac port. A FAILED port's reads return poisoned
(R296). -/
def Dev.startFetch (d : Dev) (tag line : Nat) : Dev :=
  let d := d.modReq tag fun r => { r with st := 1 }
  if d.bivFailed line then d.deliverLine line poisonedLine [tag]
  else d.modMem fun m => { m with
    fetches := m.fetches ++ [(line, [tag])]
    biv := match regionOf (line * 128) with
      | .biv n => tmod {} m.biv n fun b => b.sendReads line d.time
      | _ => m.biv }

/-- What the codes of a held line show on an access (R279), with the sector that an uncorrectable error lies in, which a
free value picks where the access covers both. True when the line is still there: a clean line with an uncorrectable error
is invalidated, and fetched again. -/
def Dev.canEcc (d : Dev) (k : Nat) (sec : Option Nat) (ecc : EccObs) : Dev × Bool :=
  let t := keyTile k
  let own := d.wayOwner t (keyWay k)
  match ecc, lookup? d.mem.canopy k with
  | .corrected, some _ =>
    (((d.modTileMem t fun m => { m with canCe := m.canCe.bump 0xFFFF 1 d.time }).event 0x04 (0x100 + t) 5).countErr true own,
      true)
  | .tagCorrected, some _ =>
    (((d.modTileMem t fun m => { m with canTagCe := m.canTagCe.bump 0xFF 1 d.time }).event 0x04 (0x100 + t) 6).countErr
      true own, true)
  | .uncorrectable, some l =>
    let d := (d.modTileMem t fun m =>
      if l.dirty then { m with canUeDirty := m.canUeDirty.bump 0xFF 1 d.time }
      else { m with canUeClean := m.canUeClean.bump 0xFF 1 d.time })
    let d := (d.event 0x05 (0x100 + t) 5).countErr false own
    if !l.dirty then (d.canDrop k, false)
    else
      let (v, d) := match sec with
        | some s => (s, d)
        | none => let (v, d) := d.takeFree; (v.toNat % 2, d)
      (d.modMem fun m => { m with canopy := tmodIf m.canopy k fun l => { l with
        pois0 := l.pois0 || v == 0, pois1 := l.pois1 || v == 1 } }, true)
  | _, _ => (d, true)

/-- The sector of a line that a request's access lies in, none for both. -/
def Req.sector (r : Req) : Option Nat :=
  if r.addr % 128 / 64 == (r.addr % 128 + max r.len 1 - 1) / 64 then some (r.addr % 128 / 64) else none

/-- A request reaches its home: held for a repair, served by a hit, or sent to fetch its line (R274 to R276). `ecc`
is what the slice's codes show on the access (R279). Answers the new state; a tag lost in both copies is handled by
the caller. -/
def Dev.homeAccess (d : Dev) (tag : Nat) (line : Nat) (r : Req) (ecc : EccObs) : Dev :=
  if d.repairing line then
    -- the page's lines are not in the canopy: the held request misses
    ((d.startRepair (line / 512) [tag]).count r.pitch 0x19 1 r.ident).modReq tag fun r => { r with st := 1 }
  else
    match d.canFind line with
    | some k =>
      let own := d.wayOwner (keyTile k) (keyWay k)
      let d := d.count r.pitch 0x18 1 r.ident
      match d.canEcc k r.sector ecc with
      | (d, false) => d.startFetch tag line
      | (d, true) =>
        let l := (lookup? d.mem.canopy k).getD { line := line }
        let (v', ch, resp, ps, olds) := performOn r line l.view
        (d.canPut k v' ch (own == r.pitch)).answer tag resp ps olds
    | none =>
      let d := d.count r.pitch 0x19 1 r.ident
      match d.mem.fetches.find? fun f => f.1 == line with
      | some _ => d.modMem fun m => { m with
          reqs := tmodIf m.reqs tag fun r => { r with st := 1 }
          fetches := m.fetches.map fun f => if f.1 == line then (line, f.2 ++ [tag]) else f }
      | none =>
        let keys := if r.allocates then d.allocKeys r.pitch line else []
        if r.fullLine line then
          -- a full line is allocated without a fetch, or written to memory
          let (v', _, resp, ps, olds) := performOn r line { data := zeros 128 }
          let d := if keys.isEmpty || d.quarantined line then d.memWriteLine line v' [0, 1] r.pitch r.ident
            else d.canAlloc keys line v' true
          d.answer tag resp ps olds
        else d.startFetch tag line

/-! ## Reads and writes that pass through at once: DMA engines, the host, the steward, the Board, remote requests -/

/-- A line as its home would answer a read that does not allocate. -/
def Dev.homeLine (d : Dev) (line : Nat) : LineView :=
  if d.quarantined line then poisonedLine
  else match d.canLine? line with
    | some l => l.view
    | none =>
      match regionOf (line * 128) with
      | .biv n => if (d.biv n).st == 1 then d.memLine line else poisonedLine
      | .reserved => { data := zeros 128 }
      | _ =>
        let v := d.memLine line
        { v with p0 := v.p0 || tget 0 d.mem.symErr (2 * line) ≥ 4, p1 := v.p1 || tget 0 d.mem.symErr (2 * line + 1) ≥ 4 }

/-- Bytes of an interval of memory at its home, a scratchpad or an instruction memory, and the poison of each
aligned 32 B chunk touched. -/
def Dev.readMem (d : Dev) (a n : Nat) : List Byte :=
  match regionOf a with
  | .stacked _ | .biv _ =>
    let lines := (List.range ((a + max n 1 - 1) / 128 + 1 - a / 128)).map fun i => a / 128 + i
    ((lines.flatMap fun l => (d.homeLine l).data).drop (a % 128)).take n
  | .spad _ | .imem _ => d.rawBytes a n
  | _ => zeros n

/-- Any byte of the interval reads poisoned. -/
def Dev.readPois (d : Dev) (a n : Nat) : Bool :=
  if n = 0 then false else
  match regionOf a with
  | .stacked _ | .biv _ =>
    (List.range ((a + n - 1) / 64 + 1 - a / 64)).any fun i =>
      let s := a / 64 + i
      (d.homeLine (s / 2)).pois (64 * (s % 2))
  | .spad _ | .imem _ => d.anyPois a n
  | _ => false

/-- Pages of an interval whose repair a read of it has to wait for (R464): under repair, or repairable and holding a
poisoned sector that the read would find in memory. -/
def Dev.repairsFor (d : Dev) (a n : Nat) : List Nat :=
  if n = 0 || !(regionOf a).isStacked then [] else
  let lines := (List.range ((a + n - 1) / 128 + 1 - a / 128)).map fun i => a / 128 + i
  dedup ((lines.filter fun l => d.repairing l
    || (d.repairable l && (d.canFind l).isNone && (d.readPois (128 * l) 64 || d.readPois (128 * l + 64) 64))).map fun l => l / 512)

/-- Starts the repairs that a read has to wait for. -/
def Dev.beginRepairs (d : Dev) (pages : List Nat) : Dev := d.forEach pages fun d pg => d.startRepair pg []

/-- What a read of a stored sector of the stacked memory meets: the symbol errors that stand there (R284, R286). -/
def Dev.meetSector (d : Dev) (s : Nat) : Dev :=
  let e := tget 0 d.mem.symErr s
  if e = 0 || !(regionOf (64 * s)).isStacked then d
  else if e ≤ 3 then (if d.anyPois (64 * s) 64 then d else d.sectorCe s e)
  else (d.sectorUe s).quarantineOnUe (s / 2) true

/-- Sectors of an interval in which errors stand, and which a read of it finds in memory. -/
def Dev.errorsIn (d : Dev) (a n : Nat) : List Nat :=
  (tkeys d.mem.symErr).filter fun s => a < 64 * s + 64 && 64 * s < a + n && (d.canFind (s / 2)).isNone

/-- A read by the steward or a repair engine, which no counter of a pitch counts, meets those errors. -/
def Dev.meetErrors (d : Dev) (a n : Nat) : Dev := d.forEach (d.errorsIn a n) Dev.meetSector

/-- A request that is applied at once reaches a line whose fetch is under way: the fetch ends first, and with it the
requests that came before (R276; log 152). -/
def Dev.endFetch (d : Dev) (line : Nat) : Dev :=
  if !(d.mem.fetches.any fun f => f.1 == line) then d
  else if (regionOf (line * 128)).isBiv then d.bivResponse line false false
  else d.portReadDone line 0 0

/-- What the codes of the lines that a read finds in the canopy show (R279), and the CXL poison indications of sectors read
from a bivouac port, which stay with those sectors (R293). -/
def Dev.readEcc (d : Dev) (a n : Nat) (seen : EccSeen) : Dev :=
  d.forEach (seen.filter fun x => a < x.1 + 64 && x.1 < a + n && (regionOf x.1).cached) fun d x =>
    match d.canFind (x.1 / 128) with
    | some k => (d.canEcc k (some (x.1 % 128 / 64)) x.2).1
    | none => if (regionOf x.1).isBiv && x.2 == .uncorrectable then d.setSecPois (x.1 / 64) true else d

/-- What a read that does not allocate counts and records: canopy hits and misses, sectors read, and the errors that
stand in sectors of the stacked memory. -/
def Dev.passRead (d : Dev) (a n : Nat) (p : Option Nat) (id : Option Ident) : Dev :=
  if n = 0 || !(regionOf a).cached then d
  else
    let sectors := (List.range ((a + n - 1) / 64 + 1 - a / 64)).map fun i => a / 64 + i
    let d := d.forEach (dedup (sectors.map fun s => s / 2)) fun d l =>
      d.count p (if (d.canFind l).isSome then 0x18 else 0x19) 1 id
    d.forEach sectors fun d s =>
      if (d.canFind (s / 2)).isSome then d
      else match regionOf (64 * s) with
        | .biv n =>
          let d := d.count p 7 1 id
          if (d.biv n).st == 1 && d.anyPois (64 * s) 64 then
            d.modBiv n fun b => { b with poisonRx := b.poisonRx.bump 0xFF 1 d.time }
          else d
        | _ => (d.count p 5 1 id).meetSector s

/-- A masked write to one line that does not allocate (R275: DMA, remote, host): full sectors written, partial ones
merged. -/
def Dev.writeLineThrough (d : Dev) (line : Nat) (bs : List (Nat × Byte)) (ps : List Nat) (p : Option Nat)
    (id : Option Ident) : Dev :=
  let d := if bs.isEmpty then d else d.endFetch line
  if bs.isEmpty then d
  else if d.quarantined line then d
  else match d.canFind line with
    | some k =>
      let l := (lookup? d.mem.canopy k).getD { line := line }
      (d.count p 0x18 1 id).canPut k (l.view.write bs ps) true (d.wayOwner (keyTile k) (keyWay k) == p)
    | none =>
      let secs := [0, 1].filter fun s => touchesSector bs s
      let part := secs.filter fun s => !coversSector bs s
      let stk := (regionOf (line * 128)).isStacked
      let d := d.count p 0x19 1 id
      let d := if part.isEmpty then d else d.count p (if stk then 5 else 7) part.length id
      let d := d.forEach part fun d s => d.meetSector (2 * line + s)
      d.memWriteLine line ((d.homeLine line).write bs ps) secs p id

/-! ## Local flags (R171 to R174, R187) -/

/-- Scratchpad offset of flag f. -/
def flagOffset (f : Nat) : Nat := 0x1FFF00 + 4 * f

/-- A flag as the core's scratchpad holds it, with its chunk's poison. -/
def Dev.flag (d : Dev) (c f : Nat) : W32 × Bool :=
  (BitVec.ofNat 32 (leNat (d.rawBytes (spadAddr c (flagOffset f)) 4)), d.chunkPois (spadAddr c (flagOffset f)))

/-- Flags whose words an interval of the scratchpad covers keep what this cc's readers see (R187). -/
def Dev.noteFlags (d : Dev) (c off n : Nat) : Dev :=
  d.forEach ((List.range 64).filter fun f => off < flagOffset f + 4 && flagOffset f < off + n) fun d f =>
    if (lookup? (d.core c).flagPrev f).any fun x => x.1 == d.time then d
    else d.modCore c fun k => { k with flagPrev := tset k.flagPrev f (d.time, (d.flag c f).1, (d.flag c f).2) }

/-- The flags among bytes that are written at a local address. -/
def Dev.noteFlagBytes (d : Dev) (a : Nat) (bs : List (Nat × Byte)) : Dev :=
  match regionOf a with
  | .spad c => d.forEach bs fun d b => d.noteFlags c (a - spadAddr c 0 + b.1) 1
  | _ => d

/-- Writes a burst at its home (R276) or at a scratchpad or instruction memory. Writing instruction memory is checked
elsewhere (R196). -/
def Dev.writeMem (d : Dev) (a : Nat) (bs : List (Nat × Byte)) (ps : List Nat) (p : Option Nat) (id : Option Ident) :
    Dev :=
  match regionOf a with
  | .stacked _ | .biv _ =>
    d.forEach (dedup (bs.map fun b => (a + b.1) / 128)) fun d line =>
      d.writeLineThrough line (burstIn a line bs) (burstPois a line ps) p id
  | .spad _ | .imem _ =>
    (d.noteFlagBytes a bs).forEach (dedup (bs.map fun b => (a + b.1) / 32)) fun d ch =>
      let cb := bs.filter fun b => (a + b.1) / 32 == ch
      let pois := cb.any fun b => ps.contains ((a + b.1) / 64 - a / 64)
      let d := d.modMem fun m => { m with bytes := cb.foldl (fun m b => setByte m (a + b.1) b.2) m.bytes }
      if pois then d.setChunkPois ch true
      else if ((List.range 32).all fun o => cb.any fun b => a + b.1 == 32 * ch + o) then d.setChunkPois ch false
      else d
  | _ => d

/-- Bytes with offsets 0, 1, … -/
def withOffsets (bs : List Byte) : List (Nat × Byte) := bs.zipIdx.map fun b => (b.2, b.1)

/-- An indivisible request performed at once at its home (peg signals of the Board, teardown steps). -/
def Dev.performNow (d : Dev) (r : Req) : Dev :=
  d.forEach r.lines fun d line =>
    let d := d.endFetch line
    if d.quarantined line then d
    else match d.canFind line with
      | some k =>
        let l := (lookup? d.mem.canopy k).getD { line := line }
        let x := performOn r line l.view
        (d.count r.pitch 0x18 1 r.ident).canPut k x.1 x.2.1 (d.wayOwner (keyTile k) (keyWay k) == r.pitch)
      | none =>
        let d := d.count r.pitch 0x19 1 r.ident
        let d := d.count r.pitch (if (regionOf (line * 128)).isStacked then 5 else 7) 2 r.ident
        let d := (d.meetSector (2 * line)).meetSector (2 * line + 1)
        let x := performOn r line (d.homeLine line)
        let keys := d.allocKeys r.pitch line
        if keys.isEmpty then d.memWriteLine line x.1 [0, 1] r.pitch r.ident
        else d.canAlloc keys line x.1 x.2.1

/-- An outstanding request: not yet performed. -/
def Req.outstanding (r : Req) : Bool := r.st != 2 && !r.orphan

end Sys2Proof.Machine
end

