-- ==== Sys2Proof/Machine/Xlate.lean ====
section
/-!
DEFINITION. Ranges and range tables (R321 to R326, R337, R338), the search of a table (R331), rights by region
(R253, R332, R333), and the direction of a translated address (R334, R335).
-/

namespace Sys2Proof.Machine
open Sys2Proof

/-- An entry read from its 32 bytes (R323); `rsvd` says that a reserved field is nonzero. -/
def parseEntry (b : List Byte) : RangeEntry :=
  let w (o n : Nat) : Nat := leNat ((b.drop o).take n)
  let v := w 0 8
  let p := w 8 8
  let l := w 16 4
  let f := w 20 4
  let r := w 24 8
  { vstart := fld v 0 32 * 65536
    gen := fld v 32 16
    pstart := fld p 0 40 * 65536
    len := fld l 0 26
    valid := bit f 0, r := bit f 1, w := bit f 2, a := bit f 3, shared := bit f 4, repl := bit f 5
    replPstart := fld r 0 40 * 65536
    rsvd := fld v 48 16 != 0 || fld p 40 24 != 0 || fld l 26 6 != 0 || fld f 6 26 != 0 || fld r 40 24 != 0
      || (!bit f 5 && r != 0) }

def RangeEntry.bytes (e : RangeEntry) : Nat := e.len * 65536
def RangeEntry.covers (e : RangeEntry) (va : Nat) : Bool := e.vstart ≤ va && va < e.vstart + e.bytes

/-- Address of entry `i` of a context's live table (R324). -/
def Dev.entryAddr (d : Dev) (cid i : Nat) : Nat := (d.ctx cid).rtabBase + 32 * i

/-- The entry as memory holds it, none when it reads poisoned. -/
def Dev.readEntry (d : Dev) (cid i : Nat) : Option RangeEntry :=
  let a := d.entryAddr cid i
  if d.readPois a 32 then none else some (parseEntry (d.readMem a 32))

/-- How a search of the table ends. -/
inductive Found where
  | entry (e : RangeEntry)
  | none
  | poisoned
deriving DecidableEq, Repr

/-- One step of the bisection over entries lo to hi - 1 (R331): the next interval, or the end. -/
def bisect (e : RangeEntry) (va lo hi mid : Nat) : Sum (Nat × Nat) Found :=
  if va < e.vstart then (if lo < mid then .inl (lo, mid) else .inr .none)
  else if e.vstart + e.bytes ≤ va then (if mid + 1 < hi then .inl (mid + 1, hi) else .inr .none)
  else if e.valid then .inr (.entry e) else .inr .none

/-- The whole search, at most 13 reads. -/
def Dev.searchFrom (d : Dev) (cid va : Nat) : Nat → Nat → Nat → Found
  | 0, _, _ => .none
  | n + 1, lo, hi =>
    if hi ≤ lo then .none else
    let mid := (lo + hi) / 2
    match d.readEntry cid mid with
    | none => .poisoned
    | some e =>
      match bisect e va lo hi mid with
      | .inl (a, b) => d.searchFrom cid va n a b
      | .inr f => f

def Dev.search (d : Dev) (cid va : Nat) : Found := d.searchFrom cid va 13 0 (d.ctx cid).rtabCount

/-- A right: 0 none, 1 read, 2 write, 3 atomic (R332). -/
def RangeEntry.grants (e : RangeEntry) (right : Nat) : Bool :=
  match right with | 0 => true | 1 => e.r | 2 => e.w | _ => e.a

/-- R253: the rights a region can carry. An address of another device is not checked by region (R338 checks it at
MAP). -/
def regionAllows (r : Region) (right : Nat) : Bool :=
  match r, right with
  | .stacked _, _ => true
  | .biv _, _ => true
  | .spad _, 3 => false
  | .spad _, _ => true
  | .imem _, 3 => false
  | .imem _, _ => true
  | _, _ => false

/-- R253, for an access of a group: instruction memory and control space take none, scratchpads no atomic. -/
def groupAllows (r : Region) (right : Nat) : Bool :=
  match r with
  | .stacked _ | .biv _ => true
  | .spad _ => right != 3
  | _ => false

/-- Physical address of a virtual one under an entry (R322). -/
def RangeEntry.target (e : RangeEntry) (va : Nat) : Nat := e.pstart + (va - e.vstart)

/-- The address is local to this device (R334). -/
def Dev.isLocal (d : Dev) (pa : Nat) : Bool := devOf pa == d.ownId

/-- R335: a scratchpad or instruction-memory address of a core that a re-commit replaced goes to the core that has
taken its logical number; `moved` lists (old quad, new quad). -/
def redirect (moved : List (Nat × Nat)) (a : Nat) : Nat :=
  let go (base size : Nat) : Nat :=
    let c := (a - base) / size
    match moved.find? fun m => m.1 == c / 4 with
    | some m => base + (4 * m.2 + c % 4) * size + (a - base) % size
    | none => a
  match regionOf a with
  | .spad _ => go spadBase 0x200000
  | .imem _ => go imemBase 0x10000
  | _ => a

/-- A translated address as it is directed (R334, R335). -/
def Dev.direct (d : Dev) (pa : Nat) : Nat :=
  if d.isLocal pa then pa - localOf pa + redirect d.plan.moved (localOf pa) else pa

/-- Bytes from a physical address to the end of its core's window, unlimited elsewhere. -/
def windowLeft (pa : Nat) : Nat :=
  match regionOf (localOf pa) with
  | .spad _ => 0x200000 - (localOf pa - spadBase) % 0x200000
  | .imem _ => 0x10000 - (localOf pa - imemBase) % 0x10000
  | _ => 2 ^ 48

/-- What the translation of a span of bytes at admission gives (R333): pieces, or a fault code of R459. -/
inductive Span where
  | ok (segs : List Seg)
  | fault (code : Nat)
deriving DecidableEq, Repr

/-- The cached entry of a context that covers an address (R330). -/
def Dev.cacheGet (d : Dev) (tile pitch cid va : Nat) : Option RangeEntry :=
  ((tget [] d.xl.cache tile).find? fun e => e.pitch == pitch && e.cid == cid && e.ent.covers va).map fun e => e.ent

/-- A lookup: the cached entry of a tile if there is one (`tile` is none for a search of the table alone). -/
def Dev.lookup (d : Dev) (tile : Option Nat) (cid va : Nat) : Found :=
  match tile.bind fun t => d.cacheGet t (d.ctx cid).pitch cid va with
  | some e => .entry e
  | none => d.search cid va

/-- More pieces than a span can have: at most 4,096 ranges (R327), each within one region and so cut at no more than 256
windows of cores. -/
def spanFuel : Nat := 2097152

/-- Translates `len` bytes from `va`, entry by entry (an access may span adjacent ranges). A missing right is
reported only if every byte is covered. -/
def Dev.translateBy (d : Dev) (tile : Option Nat) (cid va len right : Nat) : Span :=
  let rec go (fuel va len : Nat) (lack : Bool) (acc : List Seg) : Span :=
    match fuel with
    | 0 => .fault 0x02
    | fuel + 1 =>
      if len = 0 then (if lack then .fault 0x03 else .ok acc.reverse)
      else match d.lookup tile cid va with
        | .poisoned => .fault 0x04
        | .none => .fault 0x02
        | .entry e =>
          let n := min (min len (e.vstart + e.bytes - va)) (windowLeft (e.target va))
          let pa := d.direct (e.target va)
          let ok := e.grants right && (!d.isLocal pa || regionAllows (regionOf (localOf pa)) right)
          go fuel (va + n) (len - n) (lack || !ok) ({ pa := pa, len := n, gen := e.gen } :: acc)
  go spanFuel va len false []

/-- Translation by the table alone (R371, R455). -/
def Dev.translate (d : Dev) (cid va len right : Nat) : Span := d.translateBy none cid va len right

/-- A peg address (R368, R332): 8 B-aligned, with the right asked for. -/
def Dev.translatePeg (d : Dev) (cid va right : Nat) : Span := d.translate cid va 8 right

/-- The two ends of a target lie in one region of R252. -/
def oneRegion (a len : Nat) : Bool :=
  match regionOf a, regionOf (a + len - 1) with
  | .stacked _, .stacked _ => true
  | .spad _, .spad _ => true
  | .imem _, .imem _ => true
  | .biv m, .biv n => m == n
  | _, _ => false

/-- Every 64 MiB granule of a stacked interval satisfies a predicate. -/
def allGrans (a len : Nat) (f : Nat → Bool) : Bool :=
  (List.range ((a + len - 1) / 0x4000000 + 1 - a / 0x4000000)).all fun i => f (a / 0x4000000 + i)

/-- Cores whose windows of `size` bytes from `base` an interval touches, from its first byte to its last. -/
def coreSpan (base size a len : Nat) : List Nat :=
  (List.range ((a + len - 1 - base) / size + 1 - (a - base) / size)).map fun i => (a - base) / size + i

/-- R338: a local target within the resources of a pitch, or in shared granules for a SHARED range. -/
def Dev.targetOk (d : Dev) (p : Nat) (shared : Bool) (a len : Nat) : Bool :=
  match regionOf a with
  | .stacked _ =>
    allGrans a len (fun g => d.granOwner g == some p) || shared && allGrans a len (fun g => d.granKind g == 2)
  | .biv n =>
    let r := planBiv d.pl p n
    r.1 * gib ≤ dpaOf a && dpaOf a + len ≤ (r.1 + r.2) * gib
  | .spad _ => (coreSpan spadBase 0x200000 a len).all fun c => d.pitchOfCore c == some p
  | .imem _ => (coreSpan imemBase 0x10000 a len).all fun c => d.pitchOfCore c == some p
  | _ => false

/-- R338: a replica wholly on another device, or in bivouac space that no pitch's range covers, within the capacity. -/
def Dev.replicaOk (d : Dev) (pa len : Nat) : Bool :=
  if devOf pa == 0xFFF then false
  else if !d.isLocal pa then devOf pa == devOf (pa + len - 1)
  else match regionOf (localOf pa) with
    | .biv n =>
      let x := dpaOf (localOf pa)
      oneRegion (localOf pa) len && x + len ≤ (d.biv n).gib * gib && d.validPitches.all fun p =>
        let r := planBiv d.pl p n
        r.2 == 0 || x + len ≤ r.1 * gib || (r.1 + r.2) * gib ≤ x
    | _ => false

/-- A SHARED range's or another entry's target as XL_E_TARGET judges it (R337). -/
def Dev.mapTargetOk (d : Dev) (p : Nat) (e : RangeEntry) : Bool :=
  if devOf e.pstart == 0xFFF then false
  else if devOf e.pstart != devOf (e.pstart + e.bytes - 1) then false
  else
    let a := localOf e.pstart
    oneRegion a e.bytes && (!d.isLocal e.pstart || d.targetOk p e.shared a e.bytes)

/-- Removes range-cache entries on every tile (R327, R335, R339, R454), and with them what an address stage keeps of
them for further lanes. -/
def Dev.dropCached (d : Dev) (f : CacheEntry → Bool) : Dev :=
  let cores := d.cores.map fun k => (k.1, { k.2 with
    stage := k.2.stage.map fun s => { s with ents := s.ents.filter fun e => !(f e) } })
  Dev.modXl { d with cores := cores } fun x => { x with cache := x.cache.map fun t => (t.1, t.2.filter fun e => !(f e)) }

/-! ## The range caches (R330) -/

/-- A use moves the entry in its pitch's replacement order. -/
def Dev.cacheUse (d : Dev) (tile pitch cid va : Nat) : Dev :=
  d.modXl fun x => { x with
    stamp := x.stamp + 1
    cache := tmod [] x.cache tile fun es => es.map fun e =>
      if e.pitch == pitch && e.cid == cid && e.ent.covers va then { e with used := x.stamp + 1 } else e }

/-- Entries a pitch holds on a tile: 16 for each of its quads there. -/
def Dev.cacheCap (d : Dev) (tile pitch : Nat) : Nat :=
  16 * ((d.quadsOf pitch).filter fun q => tileOfQuad q == tile).length

/-- Installs an entry in place of the pitch's least recently used one if its share is full. -/
def Dev.cacheInstall (d : Dev) (tile pitch cid : Nat) (e : RangeEntry) : Dev :=
  let es := tget [] d.xl.cache tile
  let mine := es.filter fun x => x.pitch == pitch
  let es := if mine.length < d.cacheCap tile pitch then es
    else match minBy? (fun x => x.used) mine with
      | some v => es.filter fun x => x != v
      | none => es
  if d.cacheCap tile pitch = 0 then d
  else d.modXl fun x => { x with
    stamp := x.stamp + 1
    cache := tset x.cache tile (es ++ [{ pitch := pitch, cid := cid, ent := e, used := x.stamp + 1 }]) }

/-- Starts a walk (R331) and counts the range-cache miss (EVENT 0x1A). -/
def Dev.startWalk (d : Dev) (core tile pitch cid va : Nat) (id : Option Ident) : Dev × Nat :=
  let n := d.xl.nextWalk
  ((d.modXl fun x => { x with
      nextWalk := n + 1
      walks := tset x.walks n { core := core, tile := tile, pitch := pitch, cid := cid, va := va, lo := 0,
                                hi := (d.ctx cid).rtabCount, base := (d.ctx cid).rtabBase
                                count := (d.ctx cid).rtabCount } }).count (some pitch) 0x1A 1 id, n)

/-- The tile whose range cache the Board uses for a pitch (R330): that of its lowest-numbered quad. -/
def Dev.boardTile (d : Dev) (p : Nat) : Nat := tileOfQuad (((d.quadsOf p).foldl min 63))

/-- What the Board's lookups of a translated span leave in the range cache (R330, R331). -/
def Dev.boardNote (d : Dev) (p cid : Nat) (id : Option Ident) : Nat → Nat → Nat → Dev
  | 0, _, _ => d
  | fuel + 1, va, len =>
    if len = 0 then d
    else
      let t := d.boardTile p
      match d.cacheGet t p cid va with
      | some e => (d.cacheUse t p cid va).boardNote p cid id fuel (e.vstart + e.bytes) (len - (e.vstart + e.bytes - va))
      | none =>
        let d := d.count (some p) 0x1A 1 id
        match d.search cid va with
        | .entry e =>
          (d.cacheInstall t p cid e).boardNote p cid id fuel (e.vstart + e.bytes) (len - (e.vstart + e.bytes - va))
        | _ => d

end Sys2Proof.Machine
end

