-- ==== Sys2Proof/Machine/Context.lean ====
section
/-!
DEFINITION. Faults and what they end: the fault record of a core (R147 to R153), the kill of a context and its
teardown (R453 to R458), halting of a core (R194, R195), admission of a context's work, and the clearing of pages.
-/

namespace Sys2Proof.Machine
open Sys2Proof

/-! ## The fault record (R153) -/

/-- Fills the record if VALID is 0, or replaces it by a lower slot of the same cc; otherwise counts in MORE. -/
def FltRec.raise (t : Nat) (code sub slot cid : Nat) (compat : Bool) (pc resume : Nat) (lanes : W32) (va : Nat)
    (f : FltRec) : FltRec :=
  let new : FltRec := { valid := f.valid.set t, code := code, sub := sub, slot := slot, cid := cid, compat := compat,
                        pc := pc, resumePc := resume, lanes := lanes, va := va, at_ := t, more := f.more }
  if !f.valid.bit then new
  else
    let more := f.more.bump 0xFF 1 t
    if f.at_ == t && slot < f.slot then { new with more := more } else { f with more := more }

def Dev.recordFault (d : Dev) (c code sub slot cid : Nat) (compat : Bool) (pc resume : Nat) (lanes : W32) (va : Nat) :
    Dev :=
  d.modCore c fun k => { k with flt := k.flt.raise d.time code sub slot cid compat pc resume lanes va }

/-! ## Halting (R194, R195, R268) -/

/-- No group occupies a slot and no array program runs. -/
def Core.halted (k : Core) : Bool := k.slots.isEmpty && k.seq.st == 0 && k.seq.endAt.isNone

/-- The line an entry of the write buffer drains: one write with its byte mask (R265). -/
def WbEntry.req (e : WbEntry) (c : Nat) (own : Nat) (p : Option Nat) (id : Option Ident) : Req :=
  { kind := .write e.bytes ((if e.pois0 then [0] else []) ++ (if e.pois1 then [1] else []))
    addr := e.line * 128
    org := .drain c e.id
    pitch := p, cid := some e.cid, ident := id
    dev := if devOf (e.line * 128) == own then none else some (devOf (e.line * 128)) }

/-- Identifiers of a slot's group (R501). -/
def Dev.identOf (d : Dev) (c slot : Nat) : Option Ident :=
  (d.group? c slot).map fun g => { cid := g.cid, layer := g.layer, oper := g.oper }

/-- What a drain sees of the code of an entry's data (R267): an uncorrectable error poisons one of its sectors. -/
def Dev.wbEcc (d : Dev) (c : Nat) (w : WbEntry) : Dev × WbEntry :=
  let note (d : Dev) (corrected : Bool) : Dev :=
    (d.event (if corrected then 4 else 5) c 4).countErr corrected (d.pitchOfCore c)
  match w.ecc with
  | .corrected => (note d true, { w with ecc := .clean })
  | .uncorrectable =>
    let (v, d) := d.takeFree
    let secs := [0, 1].filter fun x => touchesSector w.bytes x
    let sec := (secs[v.toNat % max 1 secs.length]?).getD 0
    (note (d.modCore c fun k => { k with wbUe := k.wbUe.bump 0xFF 1 d.time }) false,
      { w with ecc := .clean, pois0 := w.pois0 || sec == 0, pois1 := w.pois1 || sec == 1 })
  | _ => (d, w)

/-- An earlier write of the core to the line has not been acknowledged: one whose entry a save has taken out of the write
buffer as well (R301, R448). -/
def Dev.drainOut (d : Dev) (c line : Nat) : Bool :=
  d.mem.reqs.any fun r => r.2.addr / 128 == line && match r.2.org with
    | .drain c' _ => c' == c
    | _ => false

/-- WB_DRAIN: starts draining an entry and sends its write, unless an older entry for the same line waits (R301) or
a release waits for its conditions (R305). -/
def Dev.drainEntry (d : Dev) (c e : Nat) : Dev :=
  let k := d.core c
  match k.wb.find? fun w => w.id == e with
  | none => d
  | some w =>
    let older := (k.wb.any fun x => x.line == w.line && x.id < w.id) || d.drainOut c w.line
    let d := d.modCore c fun k => { k with wb := k.wb.map fun x => if x.id == e then { x with draining := true } else x }
    if older || w.tag.isSome || w.release.isSome then d
    else
      let (d, w) := d.wbEcc c w
      let gens := dedup (k.slots.flatMap fun g => (g.2.accs.filter fun a => a.wb == some e).flatMap fun a => a.gens)
      let (d, t) := d.send { w.req c d.ownId (d.pitchOfCore c) (d.identOf c w.slot) with gens := gens }
      (d.count (d.pitchOfCore c) 0x1B 1 (d.identOf c w.slot)).modCore c fun k => { k with
        wb := k.wb.map fun x => if x.id == e then { w with draining := true, tag := some t } else x }

/-- A younger entry of a line may go. -/
def Dev.drainNext (d : Dev) (c line : Nat) : Dev :=
  match (d.core c).wb.find? fun x => x.line == line && x.draining && x.tag.isNone with
  | some x => d.drainEntry c x.id
  | none => d

/-- Drains every entry in use (R265). -/
def Dev.drainAll (d : Dev) (c : Nat) : Dev :=
  d.forEach ((d.core c).wb.map fun w => w.id) fun d e => d.drainEntry c e

/-- L1_INVALIDATE_ALL: every line leaves the L1 and every fill outstanding is cancelled (R270). -/
def Core.l1Clear (k : Core) : Core :=
  { k with l1 := [], mregs := k.mregs.map fun r => (r.1, { r.2 with cancelled := true }) }

/-- CORE_HALT (R194): the write buffer drains, the L1 is invalidated and the touched record is cleared. -/
def Dev.haltCore (d : Dev) (c : Nat) : Dev :=
  if (d.core c).halted then (d.drainAll c).modCore c fun k => { k.l1Clear with touchNow := 0 } else d

/-! ## Nodes and descriptors of a context that ends -/

/-- Array state of a program that ends early: nothing pending is written (R454). -/
def Seq.drop (q : Seq) : Seq :=
  { q with st := 0, load := none, passes := [], drains := [], endAt := none, waiting := false, loops := [],
           stepping := 0 }

/-- The context's commands that no doorbell's admission has taken yet. -/
def Ctx.unadmitted (x : Ctx) : Nat :=
  x.queues.foldl (fun n q => n + ((q.2.tail - q.2.head : W32)).toNat) 0

/-- CONTEXT_TEARDOWN (R454 steps 1 to 3): admission ends, the streams stop, unstarted work is cancelled and started
descriptors stop after their chunk. -/
def Dev.startTeardown (d : Dev) (cid : Nat) (by_ : Option Nat) (quiet : Bool) : Dev :=
  let x := d.ctx cid
  if !x.exists_ || x.dying then d
  else
    let nodes := d.board.nodes.filter fun n => n.2.cid == cid
    let unstarted := nodes.filter fun n => n.2.st != 2
    let work := !nodes.isEmpty || x.unadmitted != 0
    let cancel := unstarted.length + x.unadmitted
    let d := d.setCtx cid { x with
      dying := true, teardownAt := d.time, quiet := quiet, destroyFn := by_, hadWork := work
      cancelled := satAdd 0xFFFF 0 cancel, orphanRemote := 0, pegAbandoned := 0, pegSkip := 0
      queues := x.queues.map fun q => (q.1, { q.2 with cmds := [], stalled := false, graph := none }) }
    let d := d.modBoard fun b => { b with
      nodes := b.nodes.map fun n => if n.2.cid == cid && n.2.st != 2 then (n.1, { n.2 with cancelled := some 0xFF }) else n
      graphs := b.graphs.map fun g => if g.2.cid == cid then (g.1, { g.2 with donePeg := none, ended := true }) else g
      descs := b.descs.map fun x => if x.2.cid == cid then (x.1, { x.2 with stopped := true }) else x }
    d.forEach (d.coresOf x.pitch) fun d c => d.modCore c fun k => { k with
      waiting := k.waiting.filter fun w => !(nodes.any fun n => n.1 == w.node)
      progQueue := k.progQueue.filter fun w => !(nodes.any fun n => n.1 == w) }

/-- The array programs of a context end as the cc in which its teardown began ends (R149, R454 step 2). -/
def Dev.stopPrograms (d : Dev) (cid : Nat) : Dev :=
  d.forEach (d.coresOf (d.ctx cid).pitch) fun d c =>
    let q := (d.core c).seq
    if q.cid == cid && (q.st != 0 || q.endAt.isSome) then (d.modSeq c fun q => q.drop).haltCore c else d

def Dev.tickTeardowns (d : Dev) : Dev :=
  d.forEach ((tkeys d.host.ctxs).filter fun c => (d.ctx c).dying && (d.ctx c).teardownAt == d.time) fun d c =>
    d.stopPrograms c

/-- A fault of a context as a whole, or of one of its streams in native mode (R147, R149): counted, recorded as event
kind 0x01, and the context is killed. -/
def Dev.killContext (d : Dev) (cid code : Nat) : Dev :=
  let x := d.ctx cid
  if !x.exists_ || x.dying || x.killed then d
  else
    let d := d.modCtx cid fun x => { x with fault := if x.fault = 0 then code else x.fault }
    (d.startTeardown cid none false).faultVector x.fn

/-- A second fault raised during a teardown counts in MORE and does nothing else (R454). -/
def Dev.lateFault (d : Dev) (c : Nat) : Dev :=
  d.modCore c fun k => { k with flt := { k.flt with more := k.flt.more.bump 0xFF 1 d.time } }

/-- CTX_FAULT is recorded and counted for every fault raised (R460, R461, R499 11). -/
def Dev.noteFault (d : Dev) (cid code sub : Nat) : Dev :=
  (d.event 0x01 cid (code + 2 ^ 8 * sub)).count (some (d.ctx cid).pitch) 12 1 none

/-- A fault whose source is the context as a whole (R147). -/
def Dev.ctxFault (d : Dev) (cid code sub : Nat) : Dev :=
  if d.tearing cid then d else (d.noteFault cid code sub).killContext cid code

/-- A fault of a context raised on a core from outside its streams (R153: slot 63). DESIGN CHOICE (log 154): COMPAT of the
record is 0. -/
def Dev.ctxFaultOn (d : Dev) (c cid code : Nat) : Dev :=
  if d.tearing cid then d.lateFault c else (d.recordFault c code 0 63 cid false 0 0 0 0).ctxFault cid code 0

/-- A slot named in CORE_DBG_CTL has halted again: a step of it is over (R154). -/
def Core.stepOver (k : Core) (slot : Nat) : Core :=
  if k.dbgSlot == slot && k.dbgResult == 2 then { k with dbgResult := 0 } else k

/-- GROUP_FAULT_KILL and GROUP_HALT: a fault whose source is a group (R147 to R152). `resume` is the next PC that the
group has not issued. -/
def Dev.groupFault (d : Dev) (c slot code sub pc : Nat) (lanes : W32) (va : Nat) : Dev :=
  match d.group? c slot with
  | none => d
  | some g =>
    if d.tearing g.cid then d.lateFault c else
    let resume := (g.stack.head?.map fun e => e.pc).getD 0
    let d := (d.recordFault c code sub slot g.cid g.compat pc resume lanes va).noteFault g.cid code sub
    if g.compat then
      (d.modGroup c slot fun g => { g with halted := true, haltCode := code, haltedAt := some d.time, stepping := 0 }).modCore c
        fun k => k.stepOver slot
    else d.killContext g.cid code

/-- SEQUENCER_HALT: a fault whose source is the array sequencer, of the instruction at `pc` (R147, R149, R151, R152). -/
def Dev.seqFaultAt (d : Dev) (c code sub pc : Nat) : Dev :=
  let q := (d.core c).seq
  if d.tearing q.cid then d.lateFault c else
  let d := (d.recordFault c code sub 48 q.cid q.compat pc q.pc 0 0).noteFault q.cid code sub
  if q.compat then
    (d.modSeq c fun q => { q with st := 5, haltCode := code, haltedAt := some d.time, stepping := 0 }).modCore c
      fun k => k.stepOver 48
  else (d.modSeq c fun q => { q with issueAt := max q.issueAt (q.ac + 1) }).killContext q.cid code

/-- A fault of the sequencer's next instruction. -/
def Dev.seqFault (d : Dev) (c code sub : Nat) : Dev := d.seqFaultAt c code sub (d.core c).seq.pc

/-! ## Teardown steps 4 to 6 (R454 to R458) -/

/-- A request of the context is still outstanding. -/
def Dev.ctxRequests (d : Dev) (cid : Nat) : List Nat :=
  (d.mem.reqs.filter fun r => r.2.cid == some cid && r.2.outstanding && r.2.org != .hint).map fun r => r.1

/-- An entry of the write buffer that cannot be sent: its release waits, or an earlier write of its line does. -/
def Dev.wbHeld (d : Dev) (c : Nat) (w : WbEntry) : Bool :=
  w.tag.isNone && (w.release.isSome || ((d.core c).wb.any fun x => x.line == w.line && x.id < w.id) || d.drainOut c w.line)

/-- A store of the context stands in a write buffer. -/
def Dev.ctxBuffered (d : Dev) (cid : Nat) : Bool := d.cores.any fun k => k.2.wb.any fun w => w.cid == cid

/-- A group of the context still waits at a scratchpad bank, or a store of it is still to leave a write buffer. -/
def Dev.ctxLocalBusy (d : Dev) (cid : Nat) : Bool :=
  d.cores.any fun k =>
    (k.2.wb.any fun w => w.cid == cid && w.tag.isNone && !d.wbHeld k.1 w) || k.2.spadQ.any fun s =>
      match s.kind with
      | .load src id => match lookup? (d.core src).loads id with
        | some l => (d.group? src l.slot).any fun g => g.cid == cid
        | none => false
      | .store src slot _ _ _ => (d.group? src slot).any fun g => g.cid == cid
      | .flgset slot _ _ _ _ _ => (d.group? k.1 slot).any fun g => g.cid == cid
      | .write _ _ _ => false

/-- A write that may still land after the teardown (R456). -/
def Req.isWrite (r : Req) : Bool := match r.kind with | .read => false | _ => true

/-- R456: requests left at the bound of step 4 become orphans. -/
def Dev.orphan (d : Dev) (cid : Nat) : Dev :=
  d.forEach (d.ctxRequests cid) fun d t =>
    match d.req? t with
    | none => d
    | some r =>
      let d := d.setReq t { r with orphan := true }
      if !r.isWrite then d
      else if r.dev.isSome then d.modCtx cid fun x => { x with orphanRemote := satAdd 0xFF x.orphanRemote 1 }
      else if (regionOf (localOf r.addr)).isBiv then d.modCtx cid fun x => { x with orphanBiv := x.orphanBiv + 1 }
      else d

/-- An orphan's reply is discarded; an orphaned bivouac write is performed or dropped (R456). -/
def Dev.dropOrphan (d : Dev) (tag : Nat) : Dev :=
  match d.req? tag with
  | none => d
  | some r =>
    let d := d.delReq tag
    -- a younger entry of the line may go
    let d := match r.org with
      | .drain c _ => if (d.core c).saved then d else d.drainNext c (r.addr / 128)
      | _ => d
    if r.isWrite && r.dev.isNone && (regionOf (localOf r.addr)).isBiv then
      d.modCtx (r.cid.getD 0) fun x => { x with orphanBiv := x.orphanBiv - 1 }
    else d

/-- PEG_ABANDON (R455): bit [63] of each registered local peg is set at its home; others are skipped. -/
def Dev.abandonPegs (d : Dev) (cid : Nat) : Dev :=
  d.forEach (d.ctx cid).pegs fun d va =>
    match d.translatePeg cid va 3 with
    | .ok [s] =>
      if d.isLocal s.pa then
        (d.performNow { kind := .pegAbandon, addr := localOf s.pa, len := 8, org := .board,
                        pitch := some (d.ctx cid).pitch, cid := some cid }).modCtx cid fun x =>
          { x with pegAbandoned := x.pegAbandoned + 1 }
      else d.modCtx cid fun x => { x with pegSkip := satAdd 0xFF x.pegSkip 1 }
    | _ => d.modCtx cid fun x => { x with pegSkip := satAdd 0xFF x.pegSkip 1 }

/-- Entries of a context's table that read with VALID 1. -/
def Dev.validEntries (d : Dev) (cid : Nat) : List RangeEntry :=
  ((List.range (d.ctx cid).rtabCount).filterMap fun i => d.readEntry cid i).filter fun e => e.valid

/-- Pages of stacked memory that an entry maps on this device. -/
def Dev.entryPages (d : Dev) (e : RangeEntry) : List Nat :=
  if d.isLocal e.pstart && (regionOf (localOf e.pstart)).isStacked then
    (List.range e.len).map fun i => pageOf (localOf e.pstart) + i
  else []

/-- Pages that zeroisation clears (R457): in the pitch's granules, mapped by an entry that is not SHARED, and mapped
by no other existing context of the pitch. -/
def Dev.zeroPages (d : Dev) (cid : Nat) : List Nat :=
  let p := (d.ctx cid).pitch
  let mine := ((d.validEntries cid).filter fun e => !e.shared).flatMap fun e => d.entryPages e
  let others := ((d.pitchCtxs p).filter fun c => c != cid).flatMap fun c =>
    (d.validEntries c).flatMap fun e => d.entryPages e
  (dedup mine).filter fun pg => d.granOwner (pg / 1024) == some p && !others.contains pg

/-- Bytes of a record read 0. -/
def Dev.recWipe (d : Dev) (p l off n : Nat) : Dev :=
  d.modMem fun m => { m with bytes := (List.range n).foldl (fun t i => setByte t (d.recordAddr p l (off + i)) 0) m.bytes }

/-- Groups and array state of a context leave the record of a saved core (R451): the registers and stacks of its slots, and
what its array program had. -/
def Dev.wipeRecord (d : Dev) (c : Nat) (slots : List Nat) (array : Bool) : Dev :=
  match (d.pitchOfCore c).bind fun p => (lookup? d.plan.recGrans p).bind fun _ => (d.logicalOf p c).map fun l => (p, l) with
  | none => d
  | some (p, l) =>
    let d := d.forEach slots fun d n => (d.recWipe p l (0x1000 + 256 * n) 256).recWipe p l (0x17900 + 8352 * n) 8352
    if array then (d.recWipe p l 0x800 2048).recWipe p l 0x4000 80128 else d

/-- Step 6 on a core: slots, records, descriptors and fills of the context are freed, and stores that could not be sent. -/
def Dev.freeOnCore (d : Dev) (cid c : Nat) : Dev :=
  let k := d.core c
  let gone := (k.slots.filter fun g => g.2.cid == cid).map fun g => g.1
  let d := if k.saved then d.wipeRecord c gone (k.seq.cid == cid) else d
  let d := d.modCore c fun k => { k with
    wb := k.wb.filter fun w => w.cid != cid
    slots := k.slots.filter fun g => g.2.cid != cid
    loads := k.loads.filter fun l => !gone.contains l.2.slot
    atoms := k.atoms.filter fun a => !gone.contains a.2.slot
    spadQ := k.spadQ.filter fun s => match s.kind with
      | .store src slot _ _ _ => !(src == c && gone.contains slot)
      | .flgset slot _ _ _ _ _ => !gone.contains slot
      | .load src id => !(src == c && (match lookup? k.loads id with | some l => gone.contains l.slot | none => true))
      | .write _ _ _ => true
    stage := match k.stage with | some s => if gone.contains s.slot then none else some s | none => none
    captures := k.captures.filter fun x => x.cid != cid
    prevCid := if k.prevCid == some cid then none else k.prevCid
    chkSkipped := k.chkSkipped.bump 0xFFFF (k.captures.filter fun x => x.cid == cid).length d.time
    freedAt := gone.foldl (fun t g => tset t g d.time) k.freedAt }
  if k.slots.isEmpty && k.seq.st == 0 then d else d.haltCore c

/-- The instruction-memory banks that a descriptor locked are free of it (R197). -/
def Dev.unlockBanks (d : Dev) (banks : List (Nat × Nat)) : Dev :=
  d.forEach banks fun d b => d.modCore b.1 fun k => { k with locked := tput 0 k.locked b.2 (tget 0 k.locked b.2 - 1) }

/-- Fields of XL_CMD. -/
def xlOp (v : Nat) : Nat := fld v 40 2
def xlGen (v : Nat) : Nat := fld v 24 16
def xlIndex (v : Nat) : Nat := fld v 12 12
def xlCid (v : Nat) : Nat := fld v 0 12

/-- The command-completion vector of a command that a teardown completes: not raised where the teardown reaches no host
memory (R62, R345). -/
def Dev.goneVector (d : Dev) (quiet : Bool) (f : Nat) : Dev := if quiet then d else d.cmdVector f

/-- Commands that named the context complete (R342): a MAP or INVAL with XL_E_GONE, one that waits for BAR4 writes
among them. -/
def Dev.xlGone (d : Dev) (cid : Nat) : Dev :=
  d.forEach (tkeys d.host.funcs) fun d f =>
    let g := d.func f
    let named := (g.xlMap.any fun m => m.1 == cid) || (g.xlInval.any fun m => m.1 == cid)
      || (g.xlWait.any fun v => xlCid v == cid)
    if g.xlBusy && named then
      (d.modFunc f fun g => { g with xlBusy := false, xlCode := 0x0D, xlMap := none, xlInval := none, xlWait := none
                                     xlElapsed := if g.xlWait.isSome then 0 else satAdd 0xFFFF 0 (usOf (d.time - g.xlStart))
        }).goneVector (d.ctx cid).quiet f
    else d

/-- Steps 5 and 6 of a teardown. -/
def Dev.endTeardown (d : Dev) (cid : Nat) : Dev :=
  let x := d.ctx cid
  let d := d.orphan cid
  let d := d.abandonPegs cid
  let pages := d.zeroPages cid
  let d := d.forEach allCores fun d c =>
    if (lookup? d.cores c).isSome then d.freeOnCore cid c else d
  let d := d.forEach (d.board.descs.filter fun s => s.2.cid == cid) fun d s => d.unlockBanks s.2.banks
  let d := d.modBoard fun b => { b with
    nodes := b.nodes.filter fun n => n.2.cid != cid
    graphs := b.graphs.filter fun g => g.2.cid != cid
    descs := b.descs.filter fun s => s.2.cid != cid
    engines := b.engines.map fun e => (e.1, { e.2 with
      queue := e.2.queue.filter fun n => (lookup? b.descs n).all fun s => s.cid != cid
      cur := match e.2.cur with
        | some n => if (lookup? b.descs n).all fun s => s.cid != cid then some n else none
        | none => none }) }
  let d := d.dropCached fun e => e.cid == cid
  let d := d.xlGone cid
  let d := d.modMem fun m => { m with zeroPend := pages.foldl (fun t pg => tset t pg (cid + 1)) m.zeroPend }
  let destroyed := x.destroyFn.isSome || x.quiet
  let d := d.modCtx cid fun x => { x with
    dying := false, slot := none, pegs := []
    queues := x.queues.map fun q => (q.1, { q.2 with head := q.2.tail })
    fault := if x.fault = 0 && x.hadWork then 0x0C else x.fault
    elapsed := satAdd 0xFFF 0 (usOf (d.time - x.teardownAt))
    zeroPend := pages.length
    zeroFull := (List.range 256).filter fun g => (pages.filter fun pg => pg / 1024 == g).length == 1024
    killed := !destroyed, exists_ := !destroyed, destroyed := destroyed }
  match x.destroyFn with
  | none => d
  | some f => (d.modFunc f fun g => { g with ctxBusy := false, ctxCode := 0 }).goneVector x.quiet f

/-- A CID is free for a CREATE (R458). -/
def Ctx.free (x : Ctx) : Bool := !x.exists_ && !x.dying && x.destroyed && x.zeroPend == 0 && x.orphanBiv == 0

/-! ## Zeroisation of pages -/

/-- Zeroes an interval of stacked memory with valid check bits: canopy copies of it are replaced as well. -/
def Dev.zeroStacked (d : Dev) (a n : Nat) : Dev :=
  d.modMem fun m => { m with
    bytes := clearBytes m.bytes a n
    pois := m.pois.filter fun e => !(a ≤ 32 * e.1 && 32 * e.1 < a + n)
    symErr := m.symErr.filter fun e => !(a ≤ 64 * e.1 && 64 * e.1 < a + n)
    canopy := m.canopy.filter fun e => !(a ≤ 128 * e.2.line && 128 * e.2.line < a + n) }

/-- CORE reset state of the parts that R495 and start-up clear; IDs, health and the LFSR are set by the caller. -/
def Core.cleared (c : Nat) (k : Core) : Core :=
  { Core.init c with health := k.health, watchMism := k.watchMism, clean := k.clean, testDue := k.testDue,
                     testDueAt := k.testDueAt, lfsr := k.lfsr, rng := k.rng, rngAt := k.rngAt, seed := k.seed,
                     seedLoShadow := k.seedLoShadow }

/-- The bytes of a core's scratchpad and instruction memory go to zero. -/
def Dev.clearCoreMem (d : Dev) (c : Nat) : Dev :=
  d.modMem fun m => { m with
    bytes := clearBytes (clearBytes m.bytes (spadAddr c 0) 0x200000) (imemAddr c 0) 0x10000
    pois := m.pois.filter fun e => !(spadAddr c 0 ≤ 32 * e.1 && 32 * e.1 < spadAddr c 0 + 0x200000)
      && !(imemAddr c 0 ≤ 32 * e.1 && 32 * e.1 < imemAddr c 0 + 0x10000) }

/-! ## A dice test gives its core back (R476, R477) -/

/-- Scratchpad offsets and instruction memory that the test save buffer holds. -/
def inTestSave (c a : Nat) : Bool :=
  spadAddr c 0x1E0000 ≤ a && a < spadAddr c 0x1F0000 || imemAddr c 0 ≤ a && a < imemAddr c 0x10000

/-- The bytes that the test port copies. -/
def Dev.testCopy (d : Dev) (c : Nat) : Tab Byte := d.mem.bytes.filter fun b => inTestSave c b.1

/-- Every saved byte is written back and the core is halted again: its touched record and L1 are clear. -/
def Dev.endTest (d : Dev) (c : Nat) : Dev :=
  if !(d.core c).testing then d
  else
    let saved := (d.core c).testSave
    let d := d.modMem fun m => { m with
      bytes := saved.foldl (fun t b => setByte t b.1 b.2) (m.bytes.filter fun b => !inTestSave c b.1) }
    (d.modCore c fun k => { k with testing := false, testSave := [] }).haltCore c

/-- Every segment in progress is abandoned. -/
def Dev.endTests (d : Dev) : Dev := d.forEach (tkeys d.cores) Dev.endTest

/-- An access to a core's scratchpad or instruction memory abandons its segment first (R477). -/
def Dev.endTestAt (d : Dev) (a n : Nat) : Dev :=
  d.forEach ((tkeys d.cores).filter fun c => (d.core c).testing) fun d c =>
    if (a < spadAddr c 0x200000 && spadAddr c 0 < a + n) || (a < imemAddr c 0x10000 && imemAddr c 0 < a + n) then
      d.endTest c
    else d

/-! ## The random source (R240 to R246) -/

def rngStep (g : W64) : W64 :=
  let g := g ^^^ (g <<< 13)
  let g := g ^^^ (g >>> 7)
  g ^^^ (g <<< 17)

def rngSteps : Nat → List W64 → List W64
  | 0, g => g
  | n + 1, g => rngSteps n (g.map rngStep)

/-- Seeding (R242): state at the end of the cc. -/
def seedState (s : W64) : List W64 :=
  (List.range 16).map fun j =>
    let g := s ^^^ BitVec.ofNat 64 (j * 0x9E3779B97F4A7C15)
    if g = 0 then 1 else g

/-- A seeding in this cc: the state is replaced at its end, so a draw of this cc still uses the old one (R242). -/
def Dev.seedDue (d : Dev) (c rank : Nat) (s : W64) : Dev := { d with due := d.due ++ [.seed c rank s] }

/-- The generators as they stand after their step in the present cc; a core not seeded since its reset holds the seed that
the reset gave it (R243). -/
def Dev.rngNow (d : Dev) (c : Nat) : List W64 :=
  let k := d.core c
  if k.rng.isEmpty then rngSteps (d.time - d.power.porAt) (seedState 1) else rngSteps (d.time - k.rngAt) k.rng

/-- The 16 bits for element j of a row written in this cc (R241). -/
def Dev.draw (d : Dev) (c j : Nat) : Nat :=
  fld (((d.rngNow c)[j / 4]?).getD 1).toNat (16 * (j % 4)) 16

/-- The multiplier of the seeds of R244 and R245 for logical core l. -/
def seedFor (s : W64) (l : Nat) : W64 := s ^^^ BitVec.ofNat 64 ((l + 1) * 0xD1B54A32D192ED03)

end Sys2Proof.Machine
end

