-- ==== Sys2Proof/Machine/Operands.lean ====
section
/-!
DEFINITION. The words of both instruction streams (R156, R161, R175): their fields, which encodings are assigned
(R160 to R168, R171), the registers an instruction reads and writes (R121, R126), and reading its operands with their
poison (R123).
-/

namespace Sys2Proof.Machine
open Sys2Proof

/-! ## Thread-group words (R161) -/

/-- The fields of a thread-group word, formats R, I and B together. -/
structure TgInst where
  op : Nat
  /-- format I: IMM32 stands in place of source B -/
  imm : Bool
  pg : Nat
  pn : Bool
  ds : Bool
  d : Nat
  as_ : Bool
  a : Nat
  bs : Bool
  b : Nat
  cs : Bool
  c : Nat
  mod_ : Nat
  imm16 : Nat
  imm32 : Nat
  rpc : Nat
  target : Nat
  raw : Nat
deriving DecidableEq, Repr

/-- Opcodes also assigned in format I (R166). -/
def alsoI : List Nat := [0x08, 0x09, 0x0A, 0x0D, 0x0E, 0x10, 0x11, 0x12, 0x14, 0x15, 0x16, 0x18, 0x19, 0x1B, 0x1C]

/-- Every listed opcode (R166). -/
def tgOpcodes : List Nat :=
  [0x00, 0x01, 0x02, 0x03, 0x08, 0x09, 0x0A, 0x0B, 0x0C, 0x0D, 0x0E, 0x10, 0x11, 0x12, 0x14, 0x15, 0x16, 0x18, 0x19,
   0x1A, 0x1B, 0x1C, 0x20, 0x21, 0x22, 0x24, 0x28, 0x2C, 0x2D, 0x2E, 0x38, 0x39, 0x3A, 0x40, 0x41, 0x42, 0x43, 0x44,
   0x45, 0x48, 0x49, 0x4A]

/-- The listed opcode of a word, none if its OP names no instruction of this stream. -/
def tgOp? (w : Nat) : Option Nat :=
  let op := fld w 0 8
  if tgOpcodes.contains op then some op
  else if 0x80 ≤ op && alsoI.contains (op - 0x80) then some (op - 0x80)
  else none

def parseTg (w : Nat) : TgInst :=
  let op := fld w 0 8
  let fi := op == 0x02 || 0x80 ≤ op
  { op := op % 0x80, imm := fi
    pg := fld w 8 3, pn := bit w 11, ds := bit w 12, d := fld w 13 6, as_ := bit w 19, a := fld w 20 6
    bs := bit w 26, b := fld w 27 6, cs := bit w 33, c := fld w 34 6
    mod_ := if fi then fld w 26 6 else fld w 40 8
    imm16 := fld w 48 16, imm32 := fld w 32 32, rpc := fld w 32 16, target := fld w 48 16, raw := w }

/-- IMM16 as a signed byte offset (R168). -/
def TgInst.offset (i : TgInst) : Int := sInt 16 i.imm16

/-- How a field is used: not at all, a 32-bit register, a 64-bit pair, a predicate, a scalar only, a thread register
only. -/
inductive FieldUse where
  | none | reg | pair | pred | scalar | thread
deriving DecidableEq, Repr

def TgInst.atomWide (i : TgInst) : Bool := let t := fld i.mod_ 3 3; t == 1 || t == 3 || t == 6

/-- What D, A, B and C of an opcode are (R163 to R168, R171). -/
def TgInst.uses (i : TgInst) : FieldUse × FieldUse × FieldUse × FieldUse :=
  let b : FieldUse := if i.imm then .none else .reg
  match i.op with
  | 0x00 => (.none, .none, .none, .none)
  | 0x01 => (.reg, .reg, .none, .none)
  | 0x02 => (.reg, .none, .none, .none)
  | 0x0C | 0x1A => (.reg, .reg, .reg, .reg)
  | 0x20 | 0x21 => (.pred, .reg, .reg, .none)
  | 0x22 => (.pred, .pred, .pred, .none)
  | 0x24 | 0x28 => (.reg, .reg, .none, .none)
  | 0x2C => (.scalar, .pred, .none, .none)
  | 0x2D => (.scalar, .thread, .scalar, .none)
  | 0x40 => (if fld i.mod_ 0 3 == 3 then .pair else .reg, .pair, .none, .none)
  | 0x41 => (.none, .pair, if fld i.mod_ 0 3 == 3 then .pair else .reg, .none)
  | 0x42 =>
    let k : FieldUse := if i.atomWide then .pair else .reg
    (k, .pair, k, if fld i.mod_ 0 3 == 7 then k else .none)
  | 0x43 | 0x44 => (.none, .pair, .none, .none)
  | 0x45 => (.none, .none, .none, .none)
  | 0x48 => (.none, .none, .scalar, .none)
  | 0x49 | 0x4A => (.scalar, .none, .scalar, .none)
  | _ => (.reg, .reg, b, .none)

/-- A field obeys its use (R161, R164, R165). -/
def fieldOk (u : FieldUse) (sel : Bool) (n : Nat) : Bool :=
  match u with
  | .none => !sel && n == 0
  | .reg => !sel || n < 32
  | .pair => n % 2 == 0 && (!sel || n < 32)
  | .pred => !sel && n < 8
  | .scalar => sel && n < 32
  | .thread => !sel

/-- The MOD bits and values that an opcode assigns (R166, R167). -/
def modOk (i : TgInst) : Bool :=
  let m := i.mod_
  match i.op with
  | 0x03 => m < 8
  | 0x0B | 0x0D | 0x0E => m < 2
  | 0x18 | 0x19 | 0x1B | 0x1C => fld m 2 1 == 0 && fld m 5 3 == 0
  | 0x1A => m < 64
  | 0x20 => m < 16 && fld m 0 3 ≤ 5
  | 0x21 => m < 8 && fld m 0 3 ≤ 5
  | 0x22 => m < 8
  | 0x24 => fld m 0 4 ≤ 6 && fld m 4 4 ≤ 6 && fld m 0 4 != fld m 4 4
  | 0x28 | 0x2E => m < 4
  | 0x40 => m < 128 && fld m 0 3 ≤ 3 && (!bit m 3 || fld m 0 3 ≤ 1) && fld m 4 2 ≤ 1
  | 0x41 => m < 64 && fld m 0 3 ≤ 3 && !bit m 3 && (fld m 4 2 == 0 || fld m 4 2 == 2)
  | 0x42 =>
    let t := fld m 3 3
    match fld m 0 3 with
    | 0 => t == 0 || t == 1 || t == 4
    | 1 => t < 4
    | 2 => t < 4
    | _ => t == 5 || t == 6
  | 0x43 | 0x44 | 0x48 => m < 2
  | 0x45 => m < 3
  | _ => m == 0

/-- IMM16 bits an opcode uses; all others are 0 (R160, R168, R171). -/
def imm16Ok (i : TgInst) : Bool :=
  if i.imm then true
  else match i.op with
    | 0x40 | 0x41 | 0x43 | 0x44 => true
    | 0x42 => i.imm16 < 8
    | 0x48 | 0x49 | 0x4A => i.imm16 < 64
    | _ => i.imm16 == 0

/-- BRA, BRX and EXIT use format B. -/
def isBranch (op : Nat) : Bool := op == 0x38 || op == 0x39 || op == 0x3A

/-- The word is an assigned encoding at ISA level 1.0 (R160). -/
def tgAssigned (w : Nat) : Bool :=
  match tgOp? w with
  | none => false
  | some op =>
    let i := parseTg w
    if i.pg == 7 && i.pn then false
    else if isBranch op then
      !bit w 12 && fld w 19 13 == 0 &&
        (if op == 0x39 then i.d < 32 && fld w 32 32 == 0
         else i.d == 0 && (op == 0x38 || fld w 32 32 == 0))
    else if op == 0x00 then w >>> 8 == 0
    else
      let (ud, ua, ub, uc) := i.uses
      let free := op == 0x2C || op == 0x2D
      modOk i && imm16Ok i
        && fieldOk ud i.ds i.d && fieldOk ua i.as_ i.a
        && (if i.imm then true else fieldOk ub i.bs i.b && fieldOk uc i.cs i.c)
        && (!i.ds || free || i.pg == 7)
        && (!i.ds || free ||
          ((ua == .none || ua == .pred || i.as_) && (i.imm || ub == .none || ub == .pred || i.bs)
            && (i.imm || uc == .none || i.cs)))

/-! ## Registers of an instruction -/

def regRef (sel : Bool) (n : Nat) : RegRef := if sel then .s n else .t n

def useRegs (u : FieldUse) (sel : Bool) (n : Nat) : List RegRef :=
  match u with
  | .none => []
  | .pair => [regRef sel n, regRef sel (n + 1)]
  | .pred => [.p n]
  | _ => [regRef sel n]

/-- Registers that the instruction writes (their ready bits are cleared at issue, R129). -/
def TgInst.dests (i : TgInst) : List RegRef :=
  if isBranch i.op || i.op == 0 then [] else
  let (ud, _, _, _) := i.uses
  let extra : List RegRef :=
    if i.op == 0x42 && fld i.mod_ 0 3 == 7 && i.imm16 % 8 != 7 then [.p (i.imm16 % 8)] else []
  ((useRegs ud i.ds i.d).filter fun r => r != .p 7) ++ extra

/-- Registers that the instruction reads (R126). DESIGN CHOICE (log 155): NOP has p0, which its PG field names, among its
sources; it waits until p0 is ready and consumes nothing. -/
def TgInst.sources (i : TgInst) : List RegRef :=
  let guard : List RegRef := if i.pg == 7 then [] else [.p i.pg]
  if i.op == 0 then guard
  else if isBranch i.op then guard ++ (if i.op == 0x39 then [.s i.d] else [])
  else
    let (_, ua, ub, uc) := i.uses
    guard ++ useRegs ua i.as_ i.a ++ (if i.imm then [] else useRegs ub i.bs i.b ++ useRegs uc i.cs i.c)
      ++ (if i.op == 0x03 then [.p (i.mod_ % 8)] else [])

/-- The pipe: 0 FMA, 1 memory, 2 neither (R166). -/
def TgInst.pipe (i : TgInst) : Nat := if isBranch i.op then 2 else if 0x40 ≤ i.op then 1 else 0

/-- Latency in cc of the fixed-latency opcodes (R166). -/
def tgLatency (op : Nat) : Nat :=
  match op with
  | 0x0A | 0x0B | 0x0C | 0x18 | 0x19 | 0x1A | 0x1B | 0x1C | 0x24 | 0x2C | 0x2D | 0x4A => 6
  | 0x28 => 14
  | 0x2E => 8
  | _ => 4

/-! ## Register files (R121 to R123) -/

def Group.t (g : Group) (n lane : Nat) : W32 := tget 0 g.treg (32 * n + lane)
def Group.s (g : Group) (n : Nat) : W32 := tget 0 g.sreg n
/-- p7 reads as 1 in every lane. -/
def Group.p (g : Group) (n lane : Nat) : Bool := n == 7 || tget false g.preg (32 * n + lane)

def Group.rd (g : Group) (sel : Bool) (n lane : Nat) : W32 := if sel then g.s n else g.t n lane
def Group.rdPois (g : Group) (sel : Bool) (n lane : Nat) : Bool :=
  if sel then tget false g.spois n else tget false g.tpois (32 * n + lane)
def Group.pPois (g : Group) (n lane : Nat) : Bool := n != 7 && tget false g.ppois (32 * n + lane)

/-- A 64-bit pair: bits [31:0] in the even register (R121). -/
def Group.rd64 (g : Group) (sel : Bool) (n lane : Nat) : W64 :=
  (g.rd sel (n + 1) lane) ++ (g.rd sel n lane)
def Group.rd64Pois (g : Group) (sel : Bool) (n lane : Nat) : Bool := g.rdPois sel n lane || g.rdPois sel (n + 1) lane

/-- Writes one register in one lane with its poison; lane 32 and scalars write the scalar file; p7 is not written. -/
def Group.wr (g : Group) (v : RegVal) : Group :=
  match v.reg with
  | .t n => { g with treg := tput 0 g.treg (32 * n + v.lane) v.val, tpois := tput false g.tpois (32 * n + v.lane) v.pois }
  | .s n => { g with sreg := tput 0 g.sreg n v.val, spois := tput false g.spois n v.pois }
  | .p n =>
    if n = 7 then g
    else { g with preg := tput false g.preg (32 * n + v.lane) (v.val != 0)
                  ppois := tput false g.ppois (32 * n + v.lane) v.pois }

def Group.wrAll (g : Group) (vs : List RegVal) : Group := vs.foldl Group.wr g

/-- The ready bits of registers are cleared or set (R129). -/
def Group.busy (g : Group) (rs : List RegRef) : Group := { g with notReady := g.notReady ++ rs }
def Group.ready (g : Group) (rs : List RegRef) : Group := { g with notReady := g.notReady.filter fun r => !rs.contains r }

/-- Active lanes: the mask of the top entry (R132). -/
def Group.active (g : Group) : List Nat :=
  match g.stack with
  | [] => []
  | e :: _ => bitsOf 32 e.mask.toNat

def Group.pc (g : Group) : Nat := match g.stack with | [] => 0 | e :: _ => e.pc

/-- R134, R136: entries at their RPC, and empty ones, are popped as they reach the top. -/
def popStack : List StackEntry → List StackEntry
  | [] => []
  | e :: es => if e.mask = 0 || (e.rpc != 0xFFFF && e.pc == e.rpc) then popStack es else e :: es

def setTopPc (pc : Nat) : List StackEntry → List StackEntry
  | [] => []
  | e :: es => { e with pc := pc } :: es

/-- The group goes on at a PC. -/
def Group.goto (g : Group) (pc : Nat) : Group := { g with stack := popStack (setTopPc pc g.stack) }

/-- The guard in a lane (R162). -/
def Group.guard (g : Group) (i : TgInst) (lane : Nat) : Bool := g.p i.pg lane != i.pn

/-- The lanes of an instruction (R162): for a branch its active lanes. -/
def Group.lanesOf (g : Group) (i : TgInst) : List Nat :=
  if isBranch i.op then g.active else g.active.filter fun l => g.guard i l

/-- A source field's value in a lane. -/
def Group.srcA (g : Group) (i : TgInst) (l : Nat) : W32 := g.rd i.as_ i.a l
def Group.srcB (g : Group) (i : TgInst) (l : Nat) : W32 := if i.imm then BitVec.ofNat 32 i.imm32 else g.rd i.bs i.b l
def Group.srcC (g : Group) (i : TgInst) (l : Nat) : W32 := g.rd i.cs i.c l

/-- Poison of the sources named by A, B and C in a lane. -/
def Group.srcPois (g : Group) (i : TgInst) (l : Nat) : Bool :=
  let (_, ua, ub, uc) := i.uses
  let p (u : FieldUse) (sel : Bool) (n : Nat) : Bool :=
    match u with
    | .none => false
    | .pair => g.rd64Pois sel n l
    | .pred => g.pPois n l
    | _ => g.rdPois sel n l
  p ua i.as_ i.a || (!i.imm && (p ub i.bs i.b || p uc i.cs i.c)) || (i.op == 0x03 && g.pPois (i.mod_ % 8) l)

/-- Lanes in which the instruction consumes poison (R124, R162). PF consumes none: it never faults (R170). DESIGN CHOICE
(log 153): BRX consumes its target in every active lane, also where its condition holds in none. -/
def Group.consumes (g : Group) (i : TgInst) : List Nat :=
  let lanes := g.lanesOf i
  let guard := if i.op == 0 || i.op == 0x43 then [] else g.active.filter fun l => g.pPois i.pg l
  let extra :=
    match i.op with
    | 0x20 | 0x21 | 0x22 => lanes.filter fun l => g.srcPois i l
    | 0x39 => lanes.filter fun _ => g.rdPois true i.d 0
    | 0x40 | 0x41 | 0x44 => lanes.filter fun l => g.rd64Pois i.as_ i.a l
    | 0x42 => lanes.filter fun l => g.srcPois i l
    | 0x49 => if g.rdPois true i.b 0 then lanes else []
    | _ => []
  (List.range 32).filter fun l => guard.contains l || extra.contains l

/-! ## Fetch (R156 to R159, R195, R197) -/

def bankOf (pc : Nat) : Nat := fld pc 14 2

/-- A word that no table assigns. -/
def unassignedWord : Nat := 0xFFFFFFFFFFFFFFFF

/-- The word at a PC; beyond 0xFFF8, or off a multiple of 8, an unassigned encoding. -/
def Dev.fetchWord (d : Dev) (c pc : Nat) : Nat :=
  if pc ≤ 0xFFF8 && pc % 8 == 0 then leNat (d.rawBytes (imemAddr c pc) 8) else unassignedWord

def Core.bankLocked (k : Core) (pc : Nat) : Bool := pc ≤ 0xFFFF && tget 0 k.locked (bankOf pc) != 0

/-- A successful fetch touches its bank (R195). -/
def Core.touch (k : Core) (pc : Nat) : Core :=
  if pc ≤ 0xFFFF then { k with touchNow := k.touchNow ||| ((1 : BitVec 4) <<< bankOf pc) } else k

/-- The word at a PC has been fetched before this cc: its bank is touched at the start of the cc (R195, R197). -/
def Core.fetchedAt (k : Core) (pc : Nat) : Bool := 0xFFFF < pc || k.touched.getLsbD (bankOf pc)

/-! ## Array-sequencer words (R175) -/

def seqOpcodes : List Nat := [0x00, 0x01, 0x08, 0x09, 0x0C, 0x10, 0x11, 0x20, 0x30, 0x31, 0x40, 0x41, 0x7F]

/-- Bits that an opcode names beyond OP; every other bit must be 0. -/
def seqMask (op : Nat) : Nat :=
  let f (hi lo : Nat) : Nat := (2 ^ (hi - lo + 1) - 1) <<< lo
  match op with
  | 0x01 => f 31 8
  | 0x08 => f 10 8 + f 52 32
  | 0x09 => f 10 8 + f 63 32
  | 0x0C => f 9 8 + f 31 16 + f 47 32
  | 0x10 | 0x11 => f 10 8 + f 47 32
  | 0x20 => f 10 8 + f 18 12 + f 24 19 + f 47 32 + f 63 48
  | 0x30 => f 9 8
  | 0x31 => f 9 8 + f 24 22 + f 47 32
  | 0x40 => f 14 8 + f 63 32
  | 0x41 => f 13 8 + f 63 32
  | _ => 0

/-- The listed opcode of a sequencer word. -/
def seqOp? (w : Nat) : Option Nat := if seqOpcodes.contains (fld w 0 8) then some (fld w 0 8) else none

/-- Assigned as far as the word alone tells (R160, R175): listed, reserved bits 0, WAIT's N not 0, PASS's M at most
64. -/
def seqAssigned (w : Nat) : Bool :=
  match seqOp? w with
  | none => false
  | some op =>
    (w >>> 8 <<< 8) &&& seqMask op == (w >>> 8 <<< 8)
      && (op != 0x01 || fld w 8 24 != 0) && (op != 0x20 || fld w 12 7 ≤ 64)

end Sys2Proof.Machine
end

