-- ==== Sys2Proof/Machine/ArrayMath.lean ====
section
/-!
DEFINITION. The arithmetic of the matrix array: operand layouts (R198 to R204), block sums by both paths (R230, R231,
R234), accumulation (R232, R233), the residue check (R248, R250) and the conversion of a row to its output format
(R235 to R239).
-/

namespace Sys2Proof.Machine
open Sys2Proof

/-! ## Formats and layouts (R198, R200, R201, R206) -/

def isFmt (f : Nat) : Bool := 2 ≤ f && f ≤ 8
/-- Formats that the array takes as operands. -/
def isOperandFmt (f : Nat) : Bool := 3 ≤ f && f ≤ 8
def is8 (f : Nat) : Bool := f == 5 || f == 6 || f == 7
def is16 (f : Nat) : Bool := f == 3 || f == 4
def hasScales (f : Nat) : Bool := f == 7 || f == 8

/-- The two formats form a row of R198. -/
def classOk (s w : Nat) : Bool := (is8 s && is8 w) || (s == 8 && w == 8) || (is16 s && is16 w)

/-- ac per streaming row (R183, R198). -/
def classK (s : Nat) : Nat := if is16 s then 4 else 1

/-- Elements of a streaming or stored row, and of a converted row. -/
def rowElems (f : Nat) : Nat := if f = 8 then 128 else 64

/-- Bytes of `n` packed elements (R200). -/
def packedBytes (f n : Nat) : Nat := if f = 8 then n / 2 else if is16 f then 2 * n else if f = 2 then 4 * n else n

/-- Element j of packed bytes. -/
def unpackElem (f : Nat) (b : List Byte) (j : Nat) : W16 :=
  if f = 8 then BitVec.ofNat 16 (fld ((b[j / 2]?).getD 0).toNat (4 * (j % 2)) 4)
  else if is16 f then BitVec.ofNat 16 (leNat ((b.drop (2 * j)).take 2))
  else BitVec.ofNat 16 ((b[j]?).getD 0).toNat

def unpackRow (f n : Nat) (b : List Byte) : List W16 := (List.range n).map fun j => unpackElem f b j

/-- Packs stored values (R200). -/
def packRow (f : Nat) (l : List Nat) : List Byte :=
  if f = 8 then (chunksOf 2 l.length l).map fun p => BitVec.ofNat 8 ((p[0]?).getD 0 % 16 + 16 * ((p[1]?).getD 0 % 16))
  else l.flatMap fun v => leBytes (packedBytes f 1) v

/-! ## Operands (R222, R230, R231) -/

/-- The void scale. -/
def voidScale (b : Byte) : Bool := b == 0x80

/-- An element as an exact value: SB8 and SB4 elements are integers times 2^scale; a void scale is a NaN. -/
def elemValue (f : Nat) (x : W16) (scale : Byte) : Fv :=
  if hasScales f then
    if voidScale scale then .nan
    else
      let e := sInt (if f = 7 then 8 else 4) x.toNat
      .fin (e < 0) e.natAbs (sInt 8 scale.toNat)
  else decodeF f x.toNat

/-- W[k][c] of a block with its scale (R202 to R204). -/
def Block.weight (b : Block) (k c : Nat) : W16 × Byte :=
  if b.trans then (tget 0 b.elems (128 * k + c), tget 0 b.scales (4 * k + c / 32))
  else (tget 0 b.elems (128 * c + k), tget 0 b.scales (4 * c + k / 32))

/-- A block sum: formed as S × 2^E, or a NaN or infinity (R234). -/
inductive BlockSum where
  | formed (s e : Int)
  | special (v : Fv)
deriving DecidableEq, Repr

/-- R230: the path of a pass's blocks. -/
def intPath (sfmt : Nat) (b : Block) : Bool := hasScales sfmt && sfmt == b.fmt && !b.trans

/-- R230: the exact integer sum. -/
def intSum (f : Nat) (xs ws : List W16) (sx sw : Byte) : BlockSum :=
  if voidScale sx || voidScale sw then .special .nan
  else
    let w := if f = 7 then 8 else 4
    .formed (((xs.zip ws).map fun p => sInt w p.1.toNat * sInt w p.2.toNat).sum)
      (sInt 8 sx.toNat + sInt 8 sw.toNat)

def isInfFv : Fv → Bool | .inf _ => true | _ => false

/-- Weight of the leading bit of a nonzero product. -/
def leadExp : Fv → Option Int
  | .fin _ m e => if m = 0 then none else some ((Nat.log2 m : Int) + e)
  | _ => none

/-- A product aligned to 2^e, truncated toward zero. -/
def alignTo (e : Int) : Fv → Int
  | .fin s m q => let n : Int := ((scaleTo m q e).1 : Nat); if s then -n else n
  | _ => 0

def maxInt : List Int → Option Int
  | [] => none
  | x :: xs => match maxInt xs with | none => some x | some y => some (max x y)

/-- R231 and R234: the per-element path with a window of `l` bits, over the products. -/
def prodSum (l : Nat) (ps : List Fv) : BlockSum :=
  if ps.any isNanFv then .special .nan
  else
    let infs := ps.filter isInfFv
    match infs.head? with
    | some v => if infs.all fun x => x == v then .special v else .special .nan
    | none =>
      match maxInt (ps.filterMap leadExp) with
      | none => .formed 0 0
      | some p => .formed ((ps.map (alignTo (p - l))).sum) (p - l)

def elemSum (l : Nat) (xs ws : List Fv) : BlockSum := prodSum l ((xs.zip ws).map fun p => mulFv p.1 p.2)

/-- The block sum of block `b` of result column `c` for one streaming row. -/
def blockSum (sfmt : Nat) (blk : Block) (row : StreamRow) (c b : Nat) : BlockSum :=
  let ks := (List.range 32).map fun i => 32 * b + i
  let x (k : Nat) : W16 := (row.elems[k]?).getD 0
  let sx (k : Nat) : Byte := (row.scales[k / 32]?).getD 0
  if intPath sfmt blk then
    intSum sfmt (ks.map x) (ks.map fun k => (blk.weight k c).1) (sx (32 * b)) (blk.weight (32 * b) c).2
  else
    elemSum (if is16 sfmt then 48 else 32) (ks.map fun k => elemValue sfmt (x k) (sx k))
      (ks.map fun k => elemValue blk.fmt (blk.weight k c).1 (blk.weight k c).2)

/-- Blocks of a reduction. -/
def blockCount (sfmt : Nat) : Nat := rowElems sfmt / 32

/-- A failing cell adds its error to a formed sum. -/
def BlockSum.upset (v : BlockSum) (delta : Int) : BlockSum :=
  match v with
  | .formed s e => .formed (s + delta) e
  | x => x

/-! ## The residue check (R248 to R250) -/

/-- Bits that change in streaming element `k`, and in the stored element that multiplies it in column `c`. -/
def streamFlip (us : List Upset) (k : Nat) : W16 :=
  us.foldl (fun x u => match u with | .stream j f => if j = k then x ^^^ f else x | _ => x) 0

def weightFlip (us : List Upset) (c k : Nat) : W16 :=
  us.foldl (fun x u => match u with | .weight i j f => if i = c && j = k then x ^^^ f else x | _ => x) 0

/-- Errors added to the product at `k`, and to the sum of block `b`, of column `c`. -/
def productDelta (us : List Upset) (c k : Nat) : Int :=
  us.foldl (fun x u => match u with | .product i j δ => if i = c && j = k then x + δ else x | _ => x) 0

def sumDelta (us : List Upset) (c b : Nat) : Int :=
  us.foldl (fun x u => match u with | .sum i j δ => if i = c && j = b then x + δ else x | _ => x) 0

/-- Significand of a finite value, with its sign. -/
def signif : Fv → Option Int
  | .fin s m _ => some (if s then -(m : Int) else m)
  | _ => none

/-- A product whose significand is off by `delta`. -/
def Fv.off (v : Fv) (delta : Int) : Fv :=
  match v, signif v with
  | .fin _ _ e, some m => .fin (m + delta < 0) (m + delta).natAbs e
  | x, _ => x

/-- The sum of block `b` of column `c` as the array delivers it, and whether its check fails: on the integer path where S
differs from the operands' residues, on the per-element path where a significand product does, or S from the aligned
products. A difference that is a multiple of 7 escapes (R250). -/
def checkedSum (sfmt : Nat) (blk : Block) (row : StreamRow) (us : List Upset) (c b : Nat) : BlockSum × Bool :=
  let good := blockSum sfmt blk row c b
  if us.isEmpty then (good, false)
  else
    let ks := (List.range 32).map fun i => 32 * b + i
    let x (k : Nat) : W16 := (row.elems[k]?).getD 0
    let sx (k : Nat) : Byte := (row.scales[k / 32]?).getD 0
    let x' (k : Nat) : W16 := x k ^^^ streamFlip us k
    let w' (k : Nat) : W16 := (blk.weight k c).1 ^^^ weightFlip us c k
    if intPath sfmt blk then
      let δ := (ks.map fun k => productDelta us c k).sum + sumDelta us c b
      let v := (intSum sfmt (ks.map x') (ks.map w') (sx (32 * b)) (blk.weight (32 * b) c).2).upset δ
      (v, match good, v with
        | .formed s _, .formed s' _ => (s' - s) % 7 != 0
        | _, _ => false)
    else
      let mul (f g : Nat → W16) (k : Nat) : Fv :=
        mulFv (elemValue sfmt (f k) (sx k)) (elemValue blk.fmt (g k) (blk.weight k c).2)
      let ps := ks.map fun k => (mul x' w' k).off (productDelta us c k)
      let wrong := (ks.zip ps).any fun p => match signif (mul x (fun k => (blk.weight k c).1) p.1), signif p.2 with
        | some m, some m' => (m' - m) % 7 != 0
        | _, _ => false
      let v := prodSum (if is16 sfmt then 48 else 32) ps
      (v.upset (sumDelta us c b), wrong || match v with
        | .formed _ _ => sumDelta us c b % 7 != 0
        | _ => false)

/-- R232, R233, R234: one block added to a running binary32 value. -/
def addBlock (run : W32) (v : BlockSum) : W32 :=
  match v with
  | .formed s e => if s = 0 then run else f32enc (addFv (f32v run) (.fin (s < 0) s.natAbs e))
  | .special x => f32enc (addFv (f32v run) x)

/-- The permutation of a list that a number names. -/
def permute {α : Type} : Nat → Nat → List α → List α
  | 0, _, l => l
  | n + 1, k, l =>
    match l with
    | [] => []
    | _ =>
      let i := k % l.length
      match l[i]? with
      | none => l
      | some x => x :: permute n (k / l.length) (l.eraseIdx i)

/-- One result element: the blocks added in the order that the free value `pick` names (R232). -/
def accumulate (start : W32) (blocks : List BlockSum) (pick : Nat) : W32 :=
  (permute blocks.length pick blocks).foldl addBlock start

/-! ## Captured sums (R469) -/

/-- S as 32 bits and E as 16 bits; a block whose S is not formed gives zeros on both sides of the comparison. -/
def BlockSum.pair : BlockSum → Int × Int
  | .formed s e => (s, e)
  | .special _ => (0, 0)

def sumsCrc (l : List (Int × Int)) : W32 := crc32 (l.flatMap fun p => leBytes 4 (uNat 32 p.1) ++ leBytes 2 (uNat 16 p.2))

/-! ## Conversion (R235 to R239) -/

/-- R239: the scale of a group of exact values, none for the void scale. -/
def groupScale (f : Nat) (vs : List Fv) : Option Int :=
  if vs.any fun v => isNanFv v || isInfFv v then none
  else match maxInt (vs.filterMap leadExp) with
    | none => some 0
    | some a => some (max (-127) (a - (if f = 7 then 6 else 2)))

/-- R239 step 3. -/
def scaledElem (f : Nat) (s : Int) (u : Option Nat) (v : Fv) : Nat :=
  match v with
  | .fin neg m e =>
    let (lo, rem, sh) := scaleTo m e s
    let n : Int := ((lo + b2n (roundUp lo rem sh u) : Nat) : Int)
    let hi : Int := if f = 7 then 127 else 7
    let w := if f = 7 then 8 else 4
    uNat w (max (-hi - 1) (min hi (if neg then -n else n)))
  | _ => 0

/-- Converts a row of exact values: stored elements and scale bytes. `u` gives each element's 16 random bits. -/
def convertRow (f : Nat) (vs : List Fv) (u : Nat → Option Nat) : List Nat × List Byte :=
  if hasScales f then
    let gs := (chunksOf 32 vs.length vs).map fun g => groupScale f g
    let es := vs.zipIdx.map fun v =>
      match (gs[v.2 / 32]?).getD none with
      | none => 0
      | some s => scaledElem f s (u v.2) v.1
    (es, gs.map fun g => match g with | none => 0x80 | some s => BitVec.ofNat 8 (uNat 8 s))
  else (vs.zipIdx.map fun v => encodeF f (u v.2) v.1, [])

/-- R235: the exact sum of tile and addend. -/
def exactSum (tile : W32) (add : Option W32) : Fv :=
  match add with
  | none => f32v tile
  | some a => addFv (f32v tile) (f32v a)

end Sys2Proof.Machine
end

