-- ==== Sys2Proof/Machine/ArrayDue.lean ====
section
/-!
DEFINITION. What the array's units have to do in the running ac: the rows that enter, leave and are converted, by the
ac counts of R183, R211, R213 and R214, and the scratchpad banks that they need (R255, R257).
-/

namespace Sys2Proof.Machine
open Sys2Proof

def spadSize : Nat := 0x200000

/-- Row `i` of a pass: its entry ac and its write ac (R183). -/
def PassFl.enterAc (p : PassFl) (i : Nat) : Nat := p.n + p.k * i
def PassFl.writeAc (p : PassFl) (i : Nat) : Nat := p.n + p.k * i + p.k - 1 + 128

def PassFl.rowOff (p : PassFl) (i : Nat) : Nat := (p.row0 + i * p.rstride) % spadSize
def PassFl.sclOff (p : PassFl) (i : Nat) : Nat := (p.scl + i * p.sclStride) % spadSize

/-- Bytes of scales of a row of `n` elements (R201). -/
def sclBytes (f n : Nat) : Nat := if hasScales f then n / 32 else 0

/-- Row `r` of a conversion: its write ac (R183) and places. -/
def DrainFl.writeAc (x : DrainFl) (r : Nat) : Nat := x.n + 4 + r
def DrainFl.rowOff (x : DrainFl) (r : Nat) : Nat := (x.dst + r * x.dstride) % spadSize
def DrainFl.sclOff (x : DrainFl) (r : Nat) : Nat := (x.dscl + r * x.dsclStride) % spadSize

/-- The pass whose next row enters in this ac. -/
def Seq.enterDue (q : Seq) : Option PassFl :=
  q.passes.find? fun p => p.rows.length < p.m && p.enterAc p.rows.length ≤ q.ac

/-- The pass whose next result row is written in this ac. -/
def Seq.writeDue (q : Seq) : Option PassFl := q.passes.find? fun p => p.written < p.m && p.writeAc p.written ≤ q.ac

/-- The conversion whose next row is written in this ac. -/
def Seq.convDue (q : Seq) : Option DrainFl :=
  q.drains.find? fun x => x.written < x.rows && x.writeAc x.written ≤ q.ac

/-- The conversion whose next addend row is read in this ac (R214 step 1). -/
def Seq.addendDue (q : Seq) : Option DrainFl :=
  q.drains.find? fun x => x.add.isSome && x.addRead < x.rows && x.n + 3 + x.addRead ≤ q.ac

/-- A stored row is read in this ac (R211). -/
def Seq.storedDue (q : Seq) : Bool := q.load.any fun l => l.done < 64 && l.n + l.done ≤ q.ac

/-- The loaded block becomes the stationary buffer's content in this ac (R211). -/
def Seq.loadDue (q : Seq) : Bool := q.load.any fun l => l.done == 64 && l.n + 64 ≤ q.ac

/-! ## The scratchpad as the array sees it in an ac (R179, R186) -/

/-- Bytes and poison as they stood after every write of the ac domain with a write ac below the running one. -/
def Dev.seqRead (d : Dev) (c off n : Nat) : List Byte × Bool :=
  let q := (d.core c).seq
  let u := if q.undoAc = q.ac then q.undo else []
  let os := (List.range n).map fun i => (off + i) % spadSize
  (os.map fun o => match u.find? fun e => e.1 == o with | some e => e.2.1 | none => byteAt d.mem.bytes (spadAddr c o),
   os.any fun o => match u.find? fun e => e.1 / 32 == o / 32 with
     | some e => e.2.2
     | none => d.chunkPois (spadAddr c o))

/-! ## Issue (R176, R177, R181, R182) -/

/-- R177: the levels that end at `pc`, from the highest number to the lowest. -/
def loopBack (pc : Nat) : List Nat → Tab LoopLevel → Tab LoopLevel × Nat
  | [], ls => (ls, pc + 8)
  | l :: rest, ls =>
    match lookup? ls l with
    | some v =>
      if v.end_ != pc then loopBack pc rest ls
      else if 1 < v.count then (tset ls l { v with count := v.count - 1 }, v.start)
      else loopBack pc rest (tdel ls l)
    | none => loopBack pc rest ls

/-- The instruction has issued and occupies issue for `occ` ac. -/
def Seq.advance (q : Seq) (occ : Nat) : Seq :=
  let (ls, pc) := loopBack q.pc [3, 2, 1, 0] q.loops
  { q with loops := ls, pc := pc, issueAt := q.ac + occ, waiting := false, st := 1
           stepping := if q.stepping = 1 then 2 else q.stepping, begun := true, got := tdel q.got 0 }

/-- R527: cc `t` of HUB_CC is allowed to the arrays of a pitch with duty `n`. -/
def dutyAllows (t n : Nat) : Bool := decide (t % 64 * n / 64 < (t % 64 + 1) * n / 64)

/-- The duty in force for a pitch (R527): a new one applies from its window on. -/
def PitchCount.dutyNow (c : PitchCount) (t : Nat) : Nat := if c.dutyFrom ≤ t then c.dutyNext else c.duty

/-- The power cap does not withhold the cc from the core's array (R217 cause 3). -/
def Dev.dutyRuns (d : Dev) (c : Nat) : Bool :=
  (d.pitchOfCore c).all fun p => dutyAllows d.hubCc ((d.pitchCnt p).dutyNow d.hubCc)

/-- No cause of a freeze that stands for the whole cc holds (R217 causes 3 to 5): the units of a running program go on. A
step's occupancy that has ended freezes the array again (R189). -/
def Dev.arrayRuns (d : Dev) (c : Nat) : Bool :=
  let k := d.core c
  let q := k.seq
  1 ≤ q.st && q.st ≤ 4 && !k.saved && !k.testing && d.dutyRuns c && q.from_ ≤ d.time && !(q.stepping == 2 && q.issueAt ≤ q.ac)

/-- The sequencer may issue in this ac, as far as the word does not matter. -/
def Dev.seqMay (d : Dev) (c : Nat) : Bool :=
  let k := d.core c
  let q := k.seq
  d.arrayRuns c && q.endAt.isNone && !k.testing && q.stepping != 2 && q.issueAt ≤ q.ac && d.streamsRun q.cid
    && !k.bankLocked q.pc && (k.fetchedAt q.pc || k.touchNow.getLsbD (bankOf q.pc))

def isUnitOp (op : Nat) : Bool := op == 0x10 || op == 0x11 || op == 0x20 || op == 0x31

/-- The unit of an instruction is free (R183). A PASS with M = 0 has none. -/
def Seq.unitFree (q : Seq) (w : Nat) : Bool :=
  match fld w 0 8 with
  | 0x10 | 0x11 => q.feederFree ≤ q.ac && q.load.isNone
  | 0x20 => fld w 12 7 == 0 || (q.feederFree ≤ q.ac && q.load.isNone)
  | 0x31 => q.convFree ≤ q.ac
  | _ => true

/-- Assigned for this PC: a LOOP's END_PC is above it and a multiple of 8 (R175). -/
def seqWordOk (pc w : Nat) : Bool := seqAssigned w && (fld w 0 8 != 0x0C || (pc < fld w 32 16 && fld w 32 16 % 8 == 0))

/-- The scratchpad offset of an instruction's descriptor. -/
def Seq.descOff (q : Seq) (reg doff : Nat) : Nat := (tget 0 q.base reg + 32 * doff) % spadSize

/-- An address field (R205). -/
def Seq.addrField (q : Seq) (w : Nat) : Nat := (tget 0 q.base (fld w 21 3) + fld w 0 21) % spadSize

def dWord (b : List Byte) (o : Nat) : Nat := leNat ((b.drop o).take 4)
def dByte (b : List Byte) (o : Nat) : Nat := leNat ((b.drop o).take 1)
/-! ## Units of the scratchpad that the array needs in an ac (R255, R257) -/

/-- 64 B units that an interval of the scratchpad touches. -/
def unitsOf (off n : Nat) : List Nat :=
  if n = 0 then [] else dedup ((List.range ((off % 64 + n - 1) / 64 + 1)).map fun i => (off + 64 * i) % spadSize / 64 * 64)

/-- A streaming row, a stored row, an addend row and a converted row, with scales. -/
def Seq.enterUnits (q : Seq) : List Nat :=
  match q.enterDue with
  | none => []
  | some p =>
    let n := rowElems p.sfmt
    dedup (unitsOf (p.rowOff p.rows.length) (packedBytes p.sfmt n) ++ unitsOf (p.sclOff p.rows.length) (sclBytes p.sfmt n))

def LoadFl.rowUnits (l : LoadFl) : List Nat :=
  let n := rowElems l.blk.fmt
  dedup (unitsOf ((l.src + l.done * l.stride) % spadSize) (packedBytes l.blk.fmt n)
    ++ unitsOf ((l.scl + l.done * l.sclStride) % spadSize) (sclBytes l.blk.fmt n))

def Seq.storedUnits (q : Seq) : List Nat := if q.storedDue then (q.load.map LoadFl.rowUnits).getD [] else []

def Seq.addendUnits (q : Seq) : List Nat :=
  match q.addendDue with
  | none => []
  | some x => match x.add with
    | some (a, st) => unitsOf ((a + x.addRead * st) % spadSize) 256
    | none => []

def Seq.convertUnits (q : Seq) : List Nat :=
  match q.convDue with
  | none => []
  | some x => dedup (unitsOf (x.rowOff x.written) (packedBytes x.ofmt 64) ++ unitsOf (x.sclOff x.written) (sclBytes x.ofmt 64))

/-- The words that the sequencer can issue in this ac, with the state in which each finds it: the next instruction and,
behind passes with M = 0, those after it (R182). -/
def Dev.nextWords (d : Dev) (c : Nat) : Nat → Seq → List (Seq × Nat)
  | 0, _ => []
  | n + 1, q =>
    let w := d.fetchWord c q.pc
    if !seqWordOk q.pc w || !q.unitFree w then []
    else if fld w 0 8 == 0x20 && fld w 12 7 == 0 then (q, w) :: d.nextWords c n { (q.advance 0) with issueAt := q.issueAt }
    else [(q, w)]

def Dev.mayIssue (d : Dev) (c : Nat) : List (Seq × Nat) := if d.seqMay c then d.nextWords c 64 (d.core c).seq else []

/-- The 32 B descriptor that a word names, if it names one. -/
def Seq.descAt (q : Seq) (w : Nat) : Option Nat :=
  match fld w 0 8 with
  | 0x10 | 0x11 => some (q.descOff (fld w 8 3) (fld w 32 16))
  | 0x20 | 0x31 => some (q.descOff (fld w 22 3) (fld w 32 16))
  | _ => none

/-- What the issue of a word asks of the banks in its ac: its descriptor, the first row that it reads, or its flag. -/
def Dev.issueUnits (d : Dev) (c : Nat) (q : Seq) (w : Nat) : List Nat :=
  let desc := match q.descAt w with | some o => unitsOf o 32 | none => []
  let b := match q.descAt w with | some o => (d.seqRead c o 32).1 | none => []
  desc ++ match fld w 0 8 with
    | 0x10 | 0x11 =>
      let l : LoadFl := { n := 0, src := q.addrField (dWord b 0), stride := 0, scl := q.addrField (dWord b 8), sclStride := 0
                          blk := { fmt := dByte b 0x10 } }
      if isOperandFmt (dByte b 0x10) then l.rowUnits else []
    | 0x20 =>
      let f := dByte b 0
      let row0 := (tget 0 q.base (fld w 19 3) + 32 * fld w 48 16) % spadSize
      if fld w 12 7 != 0 && isOperandFmt f then
        unitsOf row0 (packedBytes f (rowElems f)) ++ unitsOf (q.addrField (dWord b 8)) (sclBytes f (rowElems f))
      else []
    | 0x40 => [flagOffset (fld w 8 6) / 64 * 64]
    | _ => []

/-! ## The banks (R255, R257) -/

def bankOfUnit (u : Nat) : Nat := fld u 6 4

/-- Class of an access of DMA, another core, the fabric or the host: 2 once it has waited 8 cc. -/
def agedClass (since t : Nat) : Nat := if since + 8 ≤ t then 2 else 5

/-- Class of a request in the cc `t` (R257). -/
def SpadReq.cls (r : SpadReq) (t : Nat) : Nat := if r.own then 6 else agedClass r.since t

/-- Such an access still asks for the bank. -/
def BankWait.asks (w : BankWait) (bank t : Nat) : Bool := w.bank == bank && t ≤ w.last + 1

/-- A class 2 access waits at the bank. -/
def Core.agedAt (k : Core) (bank t : Nat) : Bool :=
  (k.spadQ.any fun r => bankOfUnit r.unit == bank && r.cls t == 2)
    || k.bankWait.any fun w => w.asks bank t && agedClass w.since t == 2

/-- The converter, and the array as a whole, need the bank for what is due in this ac and not granted. -/
def Seq.needs (q : Seq) (key : Nat) (us : List Nat) (bank : Nat) : Bool :=
  us.any fun u => bankOfUnit u == bank && !(tget [] q.got key).contains u

def Dev.converterWants (d : Dev) (c bank : Nat) : Bool :=
  let q := (d.core c).seq
  d.arrayRuns c && (q.needs 3 q.addendUnits bank || q.needs 4 q.convertUnits bank)

def Dev.arrayWants (d : Dev) (c bank : Nat) : Bool :=
  let q := (d.core c).seq
  d.converterWants c bank || (d.arrayRuns c && (q.needs 1 q.enterUnits bank || q.needs 2 q.storedUnits bank))
    || (d.mayIssue c).any fun x => q.needs 0 (d.issueUnits c x.1 x.2) bank

/-- The bank can grant an access of a class in this cc: it has granted none, and no lower class waits there. -/
def Dev.bankOk (d : Dev) (c bank cls : Nat) : Bool :=
  let k := d.core c
  lookup? k.bankAt bank != some d.time && (cls ≤ 2 || !k.agedAt bank d.time) && (cls ≤ 3 || !d.converterWants c bank)
    && (cls ≤ 4 || !d.arrayWants c bank)

def Core.takeBank (k : Core) (bank t : Nat) : Core := { k with bankAt := tset k.bankAt bank t }

/-- The array's access `key` takes the units that its banks grant; true when it has them all. -/
def Dev.takeUnits (d : Dev) (c cls key : Nat) (us : List Nat) : Dev × Bool :=
  let d := d.forEach us fun d u =>
    if (tget [] (d.core c).seq.got key).contains u || !d.bankOk c (bankOfUnit u) cls then d
    else d.modCore c fun k =>
      let k := k.takeBank (bankOfUnit u) d.time
      { k with seq := { k.seq with got := tmod [] k.seq.got key fun l => l ++ [u] } }
  if us.all fun u => (tget [] (d.core c).seq.got key).contains u then
    (d.modSeq c fun q => { q with got := tdel q.got key }, true)
  else (d, false)

/-- An access of DMA, the fabric or the host to units (core, unit) of scratchpads is performed in a cc in which every bank
that it needs grants it; else it goes on waiting, and is of class 2 after 8 cc. -/
def Dev.claim (d : Dev) (key : Nat) (us : List (Nat × Nat)) : Dev × Bool :=
  let since (u : Nat × Nat) : Nat :=
    (((d.core u.1).bankWait.find? fun w => w.key == key && w.asks (bankOfUnit u.2) d.time).map fun w => w.since).getD d.time
  let free (u : Nat × Nat) : Bool :=
    let b := bankOfUnit u.2
    let k := d.core u.1
    let cls := agedClass (since u) d.time
    let before (cls' since' : Nat) : Bool := cls' < cls || (cls' == cls && since' < since u)
    d.bankOk u.1 b cls && !(k.spadQ.any fun r => bankOfUnit r.unit == b && before (r.cls d.time) r.since)
      && !(k.bankWait.any fun w => w.key != key && w.asks b d.time && before (agedClass w.since d.time) w.since)
  if us.all free then
    (d.forEach us fun d u => d.modCore u.1 fun k => { k.takeBank (bankOfUnit u.2) d.time with
      bankWait := k.bankWait.filter fun w => w.key != key }, true)
  else
    (d.forEach us fun d u => d.modCore u.1 fun k =>
      let b := bankOfUnit u.2
      { k with bankWait := k.bankWait.filter (fun w => !(w.key == key && w.bank == b) && d.time ≤ w.last + 1)
          ++ [{ key := key, bank := b, since := since u, last := d.time }] }, false)

/-- Units of scratchpads among an interval of local addresses. -/
def spadUnitsOf (a n : Nat) : List (Nat × Nat) :=
  match regionOf a with
  | .spad c => (unitsOf (a - spadAddr c 0) n).map fun u => (c, u)
  | _ => []

end Sys2Proof.Machine
end

