-- ==== Sys2Proof/Machine/FabOut.lean ====
section
/-!
DEFINITION. What leaves for other devices: routes (R103, R411), virtual channels (R413), packets of requests (R414,
R415), requests that end at once (R434, R535), and the marking of a device as unreachable (R317, R320, R430, R432,
R435).
-/

namespace Sys2Proof.Machine
open Sys2Proof

def allPorts : List Nat := List.range 12

/-- The port is UP. -/
def Dev.portUp (d : Dev) (n : Nat) : Bool := n < 12 && (d.port n).st == 1
def Dev.portRetrain (d : Dev) (n : Nat) : Bool := n < 12 && ((d.port n).st == 2 || (d.port n).st == 3)

/-- Where a packet for a device goes (R411). -/
inductive Route where
  | self
  | invalid
  | port (n : Nat)
  | dead
deriving DecidableEq, Repr

def Dev.route (d : Dev) (dst : Nat) : Route :=
  let r := if d.planRunning then planRoute d.pl dst else 0
  let prim := fld r 0 4
  let alt := fld r 4 4
  if d.offFabric then .invalid
  else if dst == d.ownId then .self
  else if !bit r 15 then .invalid
  else if d.portUp prim then .port prim
  else if d.portUp alt then .port alt
  else if d.portRetrain prim then .port prim
  else if d.portRetrain alt then .port alt
  else .dead

/-- The coordinate in which two IDs differ, if exactly one (R413). -/
def coordDiff (a b : Nat) : Option Nat :=
  match (List.range 3).filter fun c => fld a (4 * c) 4 != fld b (4 * c) 4 with
  | [c] => some c
  | _ => none

/-- A request takes its channel and DIM as it leaves by a port (R413). -/
def Dev.takeVc (d : Dev) (n : Nat) (p : Packet) : Packet :=
  let partner := (d.port n).partner.toNat
  match coordDiff d.ownId partner with
  | none => { p with vc1 := false }
  | some c =>
    let a := fld d.ownId (4 * c) 4
    let b := fld partner (4 * c) 4
    let dateline := (a == 0 && 1 < b) || (b == 0 && 1 < a)
    { p with vc1 := dateline || (p.vc1 && p.dim.toNat == c), dim := BitVec.ofNat 2 c }

/-- Requests of R415; the others are replies, UNREACH and management. -/
def isRequest (p : Packet) : Bool :=
  let c := p.cls.toNat
  c == 1 || (3 ≤ c && c ≤ 7)

/-- A packet as it leaves by a port. -/
def Dev.leaving (d : Dev) (n : Nat) (p : Packet) : Packet := if isRequest p then d.takeVc n p else p

/-- Where a request of another device waits for a port, the time from which R431 counts. -/
def Dev.noteWait (d : Dev) (p : Packet) : Dev :=
  if !isRequest p || p.src.toNat == d.ownId || d.fab.waiting.any fun w => w.1 == p then d
  else d.modFab fun f => { f with waiting := f.waiting ++ [(p, d.time)] }

/-- Packets that no port holds any more. -/
def Dev.noWait (d : Dev) (ps : List Packet) : Dev :=
  d.modFab fun f => { f with waiting := f.waiting.filter fun w => !ps.contains w.1 }

def Dev.enqueue (d : Dev) (n owner : Nat) (p : Packet) : Dev :=
  (d.modPort n fun q => { q with txq := tmod [] q.txq owner fun l => l ++ [p] }).noteWait p

/-! ## Unreachable devices -/

def Dev.unreachable (d : Dev) (dev : Nat) : Bool := (tget {} d.fab.unreach dev).bit

/-- A request is over with REMOTE_LOST; a read returns poison (R317, R434). -/
def Req.lost (r : Req) : Req :=
  { r with st := 2, status := 3, resp := zeros r.len, respPois := [0, 1] }

/-- A held final is discarded: its peg, if any, is abandoned (R320, R435); an address that holds no peg is left alone. -/
def Dev.abandonPeg (d : Dev) (p : Packet) : Dev :=
  if p.attach && p.pegAddr % 8 == 0 && (regionOf p.pegAddr).cached then
    d.performNow { kind := .pegAbandon, addr := p.pegAddr, len := 8, org := .board, pitch := d.ownerOfAddr p.pegAddr }
  else d

/-- DEVICE_UNREACHABLE: the device's bit is set, requests to it end, held finals from it are discarded (R317 to R320); a
tracker entry that holds none goes on counting, since later packets are applied (R434). While the bit is set, a new
detection discards what has been held since. -/
def Dev.markUnreach (d : Dev) (dev : Nat) : Dev :=
  let first := !d.unreachable dev
  let held := d.fab.tracks.filter fun t => t.src == dev && t.held.isSome
  if !first && held.isEmpty then d
  else
    let gone := d.mem.reqs.filter fun r => r.2.dev == some dev && r.2.st != 2
    let d := d.modFab fun f => { f with
      unreach := tset f.unreach dev ((tget {} f.unreach dev).set d.time)
      tracks := f.tracks.filter fun t => !(t.src == dev && t.held.isSome)
      discard := f.discard.bump 0xFF held.length d.time
      ports := f.ports.map fun p => (p.1, { p.2 with txq := p.2.txq.map fun q =>
        (q.1, if q.1 == 64 then q.2 else q.2.filter fun x => !(x.dst.toNat == dev && isRequest x)) }) }
    let d := d.modMem fun m => { m with
      reqs := m.reqs.map fun r => if r.2.dev == some dev && r.2.st != 2 then (r.1, r.2.lost) else r }
    let d := d.forEach held fun d t => match t.held with | some (_, p) => d.abandonPeg p | none => d
    let d := if first then d.event 0x0F dev gone.length else d
    if held.isEmpty then d else d.event 0x10 dev held.length

/-! ## Packets of a request -/

/-- Runs of consecutive offsets: start and bytes. A write of the write buffer may have gaps; each run is a packet. -/
def runsOf (bs : List (Nat × Byte)) : List (Nat × List Byte) :=
  (bs.foldl (fun (acc : List (Nat × List Byte)) b =>
    match acc with
    | (o, xs) :: rest => if o + xs.length == b.1 then (o, xs ++ [b.2]) :: rest else (b.1, [b.2]) :: acc
    | [] => [(b.1, [b.2])]) []).reverse

/-- Poison byte of a packet: bit i is the i-th sector of the 512 B chunk that holds its address (R414). -/
def poisonByte (a n : Nat) (pois : Nat → Bool) : Byte :=
  BitVec.ofNat 8 (maskOf ((List.range 8).filter fun i =>
    let s := a / 512 * 8 + i
    s * 64 < a + n && a < s * 64 + 64 && pois s))

def blankPacket : Packet :=
  { cls := 0, lc := false, attach := false, vc1 := false, poison := 0, dst := 0, dim := 0, src := 0, len := 0
    addType := 0, addr := 0, hops := 0, sender := 127, tag := 0, state := 0, finCnt := 0, pegAddr := 0, pegAmt := 0
    rsvd := false, payload := [] }

/-- The packets that carry a request (R414, R415). -/
def Dev.packetsOf (d : Dev) (tag : Nat) (r : Req) : List Packet :=
  let a := localOf r.addr
  let base : Packet := { blankPacket with
    dst := BitVec.ofNat 12 (devOf r.addr), src := BitVec.ofNat 12 d.ownId, lc := r.lc, addr := a
    sender := r.sender, tag := BitVec.ofNat 16 tag
    state := BitVec.ofNat 8 (b2n r.epoch + 2 * b2n (r.counted && r.finCnt.isNone)) }
  let ext (p : Packet) : Packet := match r.peg with
    | some (pa, amt) => { p with attach := true, pegAddr := localOf pa, pegAmt := amt }
    | none => p
  let data (cls fcls typ : Nat) (bs : List (Nat × Byte)) (ps : List Nat) : List Packet :=
    let runs := if bs.isEmpty then [(0, [])] else runsOf bs
    runs.map fun run =>
      let x := { base with
        cls := BitVec.ofNat 4 (if r.finCnt.isSome then fcls else cls), addType := BitVec.ofNat 3 typ
        addr := a + run.1, len := run.2.length, payload := run.2
        poison := poisonByte (a + run.1) run.2.length fun s => ps.any fun q => (a / 64 + q) == s
        finCnt := r.finCnt.getD 0 }
      if r.finCnt.isSome then ext x else x
  match r.kind with
  | .read => [{ base with cls := 1, len := r.len }]
  | .write bs ps => data 3 4 0 bs ps
  | .addWrite typ bs ps => data 5 6 typ bs ps
  | .pegSignal amt => [{ base with cls := 7, pegAddr := a, pegAmt := amt }]
  | _ => []

/-- Sends one request to another device, or ends it at once (R411, R430, R434, R535). -/
def Dev.pumpOne (d : Dev) (tag : Nat) : Dev :=
  match d.req? tag with
  | none => d
  | some r =>
    match r.dev with
    | none => d
    | some dev =>
      if r.st != 0 || r.queued then d
      else if d.unreachable dev then d.setReq tag r.lost
      else
        match d.route dev with
        | .invalid | .dead => d.markUnreach dev
        | .self => d.setReq tag { r with dev := none }
        | .port n =>
          let owner := r.pitch.getD 64
          if owner != 64 && planShare d.pl n owner == 0 then
            (d.setReq tag r.lost).modFab fun f => { f with noShare := f.noShare.bump 0xFFFF 1 d.time }
          else
            let ps := d.packetsOf tag r
            let d := d.setReq tag { r with queued := true, acks := ps.length, sentAt := d.time }
            d.forEach ps fun d p => d.enqueue n owner p

/-- Every request that is still to be sent to another device. -/
def Dev.pump (d : Dev) : Dev :=
  d.forEach ((d.mem.reqs.filter fun r => r.2.dev.isSome && !r.2.queued && r.2.st == 0).map fun r => r.1) Dev.pumpOne

end Sys2Proof.Machine
end

