-- ==== Sys2Proof/Machine/Thread.lean ====
section
/-!
DEFINITION. Thread groups: placement and end (R116 to R120, R309), the choice of the group that issues (R125 to R127),
the arithmetic instructions and branches (R132 to R137, R166, R167, R226 to R229), write-back of results (R129) and
the debug commands (R154, R155).
-/

namespace Sys2Proof.Machine
open Sys2Proof

/-! ## Readiness and choice (R125 to R127) -/

/-- A standing barrier holds a memory instruction from the address stage (R173, R304). FENCE.REL holds store and
atomic instructions only. -/
def Barrier.holds (b : Barrier) (op : Nat) : Bool :=
  match b with
  | .fence 1 _ _ => op == 0x41 || op == 0x42 || op == 0x48
  | _ => true

/-- The pipe can accept the instruction in the cc `t` (R126, R130, R166). -/
def Core.accepts (k : Core) (t : Nat) (g : Group) (i : TgInst) : Bool :=
  match i.pipe with
  | 0 => k.sfnUntil ≤ t
  | 1 => k.stage.isNone && k.stageFree ≤ t && !(g.barriers.any fun b => b.holds i.op)
  | _ => true

/-- R126. The ready bits of a word that names no instruction of the stream are not consulted: it names no register. -/
def Dev.tgReady (d : Dev) (c slot : Nat) : Bool :=
  let k := d.core c
  match k.group? slot with
  | none => false
  | some g =>
    let w := d.fetchWord c g.pc
    let i := parseTg w
    !g.halted && g.stepping != 2 && !g.stack.isEmpty && d.streamsRun g.cid && !k.saved && !k.testing
      && g.fetchAt ≤ d.time && !k.bankLocked g.pc && k.fetchedAt g.pc && !(k.stage.any fun s => s.slot == slot)
      && ((tgOp? w).isNone || k.accepts d.time g i
        && (i.sources ++ i.dests).all fun r => !g.notReady.contains r)

def Core.slotIf (k : Core) (n : Nat) (f : Group → Bool) : Bool := (k.group? n).any f

/-- The slot that issues in this cc (R125, R127). -/
def Dev.chosen (d : Dev) (c : Nat) : Option Nat :=
  let k := d.core c
  if k.lastIssue == some d.time then none
  else
    let ready := (tkeys k.slots).filter fun n => d.tgReady c n
    match minBy? (fun n => ((k.group? n).map fun g => g.age).getD 0) (ready.filter fun n => k.slotIf n fun g => g.latency) with
    | some n => some n
    | none => minBy? (fun n => (n + 48 - k.rr) % 48) ready

/-- What every issue does: the core's one issue of the cc, the bulk pointer, the touched bank, the counters. -/
def Dev.markIssue (d : Dev) (c slot : Nat) (g : Group) : Dev :=
  let d := d.modCore c fun k => { (k.touch g.pc) with
    lastIssue := some d.time, lastSlot := slot, rr := if g.latency then k.rr else (slot + 1) % 48 }
  let d := d.modGroup c slot fun g => { g with stepping := if g.stepping == 1 then 2 else g.stepping }
  let d := d.modCtx g.cid fun x => { x with threadCc := x.threadCc + 1 }
  d.count (d.pitchOfCore c) 1 1 (some { cid := g.cid, layer := g.layer, oper := g.oper })

def laneMask (ls : List Nat) : W32 := BitVec.ofNat 32 (maskOf ls)

/-- Issue of the chosen slot's next instruction, when its word is the command's opcode or names no instruction of the
stream: FLT_ILLEGAL subcause 1 for an unassigned encoding (R160), FLT_POISON where it consumes poison (R124), else
the instruction itself. -/
def Dev.issueTg (d : Dev) (c slot op : Nat) (body : Dev → Group → TgInst → Dev) : Dev :=
  if d.chosen c != some slot then d
  else match d.group? c slot with
    | none => d
    | some g =>
      let w := d.fetchWord c g.pc
      if (tgOp? w).getD op != op then d
      else
        let d := d.markIssue c slot g
        let i := parseTg w
        if !tgAssigned w then d.groupFault c slot 1 1 g.pc (laneMask g.active) 0
        else
          let ps := g.consumes i
          if !ps.isEmpty then d.groupFault c slot 4 0 g.pc (laneMask ps) 0
          else body d g i

/-! ## Results (R122, R123, R129) -/

/-- The instruction leaves issue: destinations not ready until the results are due, and the group goes on. -/
def Dev.retire (d : Dev) (c slot : Nat) (i : TgInst) (vals : List RegVal) : Dev :=
  d.modGroup c slot fun g =>
    let ds := i.dests
    let g := if ds.isEmpty then g
      else { (g.busy ds) with pend := g.pend ++ [{ vals := vals, dests := ds, due := d.time + tgLatency i.op }] }
    { (g.goto (g.pc + 8)) with fetchAt := d.time + 1 }

/-- One value for each lane that is written, or one for a scalar destination (R122, R163), with its poison. -/
def Group.results (g : Group) (i : TgInst) (f : Nat → W32) : List RegVal :=
  if i.ds then [{ reg := .s i.d, lane := 32, val := f 0, pois := g.srcPois i 0 }]
  else (g.lanesOf i).map fun l => { reg := .t i.d, lane := l, val := f l, pois := g.srcPois i l }

/-- A predicate destination (R164). -/
def Group.predResults (g : Group) (i : TgInst) (f : Nat → Bool) : List RegVal :=
  (g.lanesOf i).map fun l => { reg := .p i.d, lane := l, val := if f l then 1 else 0, pois := false }

/-- An instruction whose result in a lane depends on A, B and C there. -/
def Dev.alu (d : Dev) (c slot op : Nat) (f : TgInst → W32 → W32 → W32 → W32) : Dev :=
  d.issueTg c slot op fun d g i =>
    d.retire c slot i (g.results i fun l => f i (g.srcA i l) (g.srcB i l) (g.srcC i l))

/-- Source modifiers of the binary32 instructions (R166): absolute value, then negation. -/
def f32mod (m k : Nat) (x : W32) : W32 :=
  let x := if bit m (3 + k) then x &&& 0x7FFFFFFF else x
  if bit m k then x ^^^ 0x80000000 else x

def Dev.falu (d : Dev) (c slot op : Nat) (f : W32 → W32 → W32 → W32) : Dev :=
  d.alu c slot op fun i a b x => f (f32mod i.mod_ 0 a) (f32mod i.mod_ 1 b) (f32mod i.mod_ 2 x)

/-- CMP of R167 from less-than and equal. -/
def cmpOf (k : Nat) (lt eq : Bool) : Bool :=
  match k with
  | 0 => eq
  | 1 => !eq
  | 2 => lt
  | 3 => lt || eq
  | 4 => !(lt || eq)
  | _ => !lt

/-- FSETP (R166, R167): a NaN makes every comparison false except NE, and ±0 are equal. -/
def fcmp (k : Nat) (a b : W32) : Bool :=
  let eq := eqFv (f32v a) (f32v b)
  if isNanFv (f32v a) || isNanFv (f32v b) then k == 1 else cmpOf k (!eq && ltFv (f32v a) (f32v b)) eq

/-- PLOP (R167). -/
def plopOf (m : Nat) (a b : Bool) : Bool :=
  let x := match m % 4 with | 0 => a && b | 1 => a || b | 2 => a != b | _ => a && !b
  x != bit m 2

/-! ## The arithmetic instructions -/

def execNop (core slot : Nat) (s : State) := s.to (s.dev.issueTg core slot 0x00 fun d _ i => d.retire core slot i [])

def execMov (core slot : Nat) (s : State) := s.to (s.dev.alu core slot 0x01 fun _ a _ _ => a)

def execMovi (core slot : Nat) (s : State) :=
  s.to (s.dev.alu core slot 0x02 fun i _ _ _ => BitVec.ofNat 32 i.imm32)

/-- A scalar SEL whose predicate is not the same in every active lane takes a free value of the two (log 12). -/
def execSel (core slot : Nat) (s : State) :=
  s.to (s.dev.issueTg core slot 0x03 fun d g i =>
    let n := i.mod_ % 8
    let ps := g.active.map fun l => g.p n l
    if i.ds && ps.contains true && ps.contains false then
      let (v, d) := d.takeFree
      let pois := g.active.any fun l => g.srcPois i l
      d.retire core slot i [{ reg := .s i.d, lane := 32, val := if v.getLsbD 0 then g.srcA i 0 else g.srcB i 0,
                              pois := pois }]
    else if i.ds then
      let pois := g.active.any fun l => g.srcPois i l
      d.retire core slot i [{ reg := .s i.d, lane := 32, val := if ps.contains true then g.srcA i 0 else g.srcB i 0,
                              pois := pois }]
    else d.retire core slot i (g.results i fun l => if g.p n l then g.srcA i l else g.srcB i l))

def execIadd (core slot : Nat) (s : State) := s.to (s.dev.alu core slot 0x08 fun _ a b _ => a + b)

def execIsub (core slot : Nat) (s : State) := s.to (s.dev.alu core slot 0x09 fun _ a b _ => a - b)

def execImul (core slot : Nat) (s : State) := s.to (s.dev.alu core slot 0x0A fun _ a b _ => a * b)

/-- The high word of a product, signed or not (R166). -/
def mulHigh (signed : Bool) (a b : W32) : W32 :=
  if signed then ((a.signExtend 64 * b.signExtend 64) >>> 32).truncate 32
  else ((a.zeroExtend 64 * b.zeroExtend 64) >>> 32).truncate 32

def execImulh (core slot : Nat) (s : State) := s.to (s.dev.alu core slot 0x0B fun i a b _ => mulHigh (bit i.mod_ 0) a b)

def execImad (core slot : Nat) (s : State) := s.to (s.dev.alu core slot 0x0C fun _ a b x => a * b + x)

/-- a is below b, as signed or unsigned words. -/
def ilt (signed : Bool) (a b : W32) : Bool := if signed then a.slt b else a.ult b

def execImin (core slot : Nat) (s : State) :=
  s.to (s.dev.alu core slot 0x0D fun i a b _ => if ilt (bit i.mod_ 0) b a then b else a)

def execImax (core slot : Nat) (s : State) :=
  s.to (s.dev.alu core slot 0x0E fun i a b _ => if ilt (bit i.mod_ 0) a b then b else a)

def execAnd (core slot : Nat) (s : State) := s.to (s.dev.alu core slot 0x10 fun _ a b _ => a &&& b)

def execOr (core slot : Nat) (s : State) := s.to (s.dev.alu core slot 0x11 fun _ a b _ => a ||| b)

def execXor (core slot : Nat) (s : State) := s.to (s.dev.alu core slot 0x12 fun _ a b _ => a ^^^ b)

def execShl (core slot : Nat) (s : State) := s.to (s.dev.alu core slot 0x14 fun _ a b _ => a <<< (b.toNat % 32))

def execShr (core slot : Nat) (s : State) := s.to (s.dev.alu core slot 0x15 fun _ a b _ => a >>> (b.toNat % 32))

def execSar (core slot : Nat) (s : State) := s.to (s.dev.alu core slot 0x16 fun _ a b _ => a.sshiftRight (b.toNat % 32))

def execFadd (core slot : Nat) (s : State) := s.to (s.dev.falu core slot 0x18 fun a b _ => fadd32 a b)

def execFmul (core slot : Nat) (s : State) := s.to (s.dev.falu core slot 0x19 fun a b _ => fmul32 a b)

def execFfma (core slot : Nat) (s : State) := s.to (s.dev.falu core slot 0x1A ffma32)

def execFmin (core slot : Nat) (s : State) := s.to (s.dev.falu core slot 0x1B fun a b _ => fminmax32 false a b)

def execFmax (core slot : Nat) (s : State) := s.to (s.dev.falu core slot 0x1C fun a b _ => fminmax32 true a b)

def execIsetp (core slot : Nat) (s : State) :=
  s.to (s.dev.issueTg core slot 0x20 fun d g i => d.retire core slot i (g.predResults i fun l =>
    let a := g.srcA i l
    let b := g.srcB i l
    cmpOf (i.mod_ % 8) (ilt (bit i.mod_ 3) a b) (a == b)))

def execFsetp (core slot : Nat) (s : State) :=
  s.to (s.dev.issueTg core slot 0x21 fun d g i => d.retire core slot i (g.predResults i fun l =>
    fcmp (i.mod_ % 8) (g.srcA i l) (g.srcB i l)))

def execPlop (core slot : Nat) (s : State) :=
  s.to (s.dev.issueTg core slot 0x22 fun d g i => d.retire core slot i (g.predResults i fun l =>
    plopOf i.mod_ (g.p i.a l) (g.p i.b l)))

def execCvt (core slot : Nat) (s : State) :=
  s.to (s.dev.alu core slot 0x24 fun i a _ _ => BitVec.ofNat 32 (cvt (i.mod_ % 16) (i.mod_ / 16) a.toNat))

/-- SFN occupies the FMA pipe for 4 cc. -/
def execSfn (core slot : Nat) (s : State) :=
  s.to (s.dev.issueTg core slot 0x28 fun d g i =>
    let fn := i.mod_ % 4
    (d.retire core slot i (g.results i fun l => sfn fn (Config.sfnPick fn (g.srcA i l)) (g.srcA i l))).modCore core
      fun k => { k with sfnUntil := d.time + 4 })

/-- BALLOT takes its mask from the lanes of the instruction; a poisoned predicate there poisons the result. -/
def execBallot (core slot : Nat) (s : State) :=
  s.to (s.dev.issueTg core slot 0x2C fun d g i =>
    let ls := g.lanesOf i
    d.retire core slot i [{ reg := .s i.d, lane := 32, val := laneMask (ls.filter fun l => g.p i.a l),
                            pois := ls.any fun l => g.pPois i.a l }])

/-- BCAST reads lane s[B] mod 32 of thread register A, active or not (R163). -/
def execBcast (core slot : Nat) (s : State) :=
  s.to (s.dev.issueTg core slot 0x2D fun d g i =>
    let l := (g.s i.b).toNat % 32
    d.retire core slot i [{ reg := .s i.d, lane := 32, val := g.t i.a l,
                            pois := g.rdPois false i.a l || g.rdPois true i.b 0 }])

/-- The lane that SHFL reads for lane k (R167), none out of range. -/
def shflLane (mode k b : Nat) : Option Nat :=
  match mode with
  | 0 => some (b % 32)
  | 1 => if b ≤ k then some (k - b) else none
  | 2 => if k + b < 32 then some (k + b) else none
  | _ => if k ^^^ b < 32 then some (k ^^^ b) else none

def execShfl (core slot : Nat) (s : State) :=
  s.to (s.dev.issueTg core slot 0x2E fun d g i =>
    if i.ds then d.retire core slot i (g.results i fun l => g.srcA i l)
    else
      let ls := g.lanesOf i
      d.retire core slot i (ls.map fun l =>
        let from_ := match shflLane (i.mod_ % 4) l (g.srcB i l).toNat with
          | some k => if ls.contains k then k else l
          | none => l
        { reg := .t i.d, lane := l, val := g.srcA i from_
          pois := g.rdPois i.as_ i.a from_ || g.rdPois i.bs i.b l }))

/-! ## Branches (R132 to R137) -/

/-- The group goes on at a PC once the next instruction has been fetched, 4 cc after the branch (R166). -/
def Dev.branch (d : Dev) (c slot : Nat) (f : Group → List StackEntry) : Dev :=
  d.modGroup c slot fun g => { g with stack := popStack (f g), fetchAt := d.time + 4 }

/-- BRA (R133, R137). -/
def execBra (core slot : Nat) (s : State) :=
  s.to (s.dev.issueTg core slot 0x38 fun d g i =>
    let t := g.active.filter fun l => g.guard i l
    let n := g.active.filter fun l => !g.guard i l
    if n.isEmpty then d.branch core slot fun g => setTopPc i.target g.stack
    else if t.isEmpty then d.branch core slot fun g => setTopPc (g.pc + 8) g.stack
    else if 32 < g.stack.length + 2 then d.groupFault core slot 1 3 g.pc (laneMask g.active) 0
    else d.branch core slot fun g =>
      { pc := i.target, rpc := i.rpc, mask := laneMask t } :: { pc := g.pc + 8, rpc := i.rpc, mask := laneMask n }
        :: setTopPc i.rpc g.stack)

/-- BRX (R135). -/
def execBrx (core slot : Nat) (s : State) :=
  s.to (s.dev.issueTg core slot 0x39 fun d g i =>
    let t := g.active.filter fun l => g.guard i l
    let target := (g.s i.d).toNat
    if t.isEmpty then d.branch core slot fun g => setTopPc (g.pc + 8) g.stack
    else if t.length != g.active.length then d.groupFault core slot 1 5 g.pc (laneMask g.active) 0
    else if 0xFFFF < target || target % 8 != 0 then d.groupFault core slot 1 4 g.pc (laneMask g.active) 0
    else d.branch core slot fun g => setTopPc target g.stack)

/-- Lanes leave every entry of the stack (R136). -/
def dropLanes (gone : W32) (st : List StackEntry) : List StackEntry :=
  st.map fun e => { e with mask := e.mask &&& ~~~gone }

/-- EXIT (R136). -/
def execExit (core slot : Nat) (s : State) :=
  s.to (s.dev.issueTg core slot 0x3A fun d g i =>
    let t := g.active.filter fun l => g.guard i l
    d.branch core slot fun g => dropLanes (laneMask t) (setTopPc (g.pc + 8) g.stack))

/-! ## Write-back, placement and end -/

/-- RESULT_WRITEBACK (R129): the results that are due are written and their ready bits set. -/
def execResultWriteback (core slot : Nat) (s : State) :=
  s.to (s.dev.modGroup core slot fun g =>
    let due := g.pend.filter fun p => p.due ≤ s.dev.time
    let g := due.foldl (fun g p => (g.wrAll p.vals).ready p.dests) g
    { g with pend := g.pend.filter fun p => !(p.due ≤ s.dev.time) })

/-- A group's registers, stack and identifiers at placement (R120, R148). -/
def placedGroup (n : Node) (num core age : Nat) (compat : Bool) (t : Nat) : Group :=
  { stack := [{ pc := n.field 0x1E 2, rpc := 0xFFFF, mask := 0xFFFFFFFF }]
    latency := bit (n.field 0x2E 1) 0
    age := age, cid := n.cid, layer := n.layer, oper := n.oper, compat := compat
    treg := ((List.range 32).filter fun l => l != 0).map fun l => (l, BitVec.ofNat 32 l)
    sreg := (((((tput 0 [] 0 (BitVec.ofNat 32 num)) |> fun m => tput 0 m 1 (BitVec.ofNat 32 (n.field 0x30 4)))
      |> fun m => tput 0 m 2 (BitVec.ofNat 32 core)) |> fun m => tput 0 m 3 (n.layer ++ n.oper))
      |> fun m => tput 0 m 4 (BitVec.ofNat 32 (n.field 0x20 4)))
      |> fun m => tput 0 m 5 (BitVec.ofNat 32 (n.field 0x24 2))
    fetchAt := t + 1 }

/-- The lowest slot free since before this cc (R117). -/
def Core.freeSlot (k : Core) (t : Nat) : Option Nat :=
  (List.range 48).find? fun n => (k.group? n).isNone && lookup? k.freedAt n != some t

/-- GROUP_PLACE (R117 to R120): the core's next waiting group takes a free slot, at most one in a cc. -/
def execGroupPlace (core : Nat) (s : State) :=
  let d := s.dev
  let k := d.core core
  s.to <| match k.waiting, k.freeSlot d.time with
    | w :: rest, some n =>
      match d.node? w.node with
      | some nd =>
        if k.lastPlace == some d.time || k.saved || k.testing || !(d.ctx nd.cid).live then d
        else
          let l := ((d.logicalOf nd.pitch core).getD 0)
          let g := { placedGroup nd w.num l k.ageNext (d.ctx nd.cid).compat d.time with node := w.node }
          d.setCore core { k with waiting := rest, slots := tset k.slots n g, ageNext := k.ageNext + 1
                                  lastPlace := some d.time }
      | none => d
    | _, _ => d

/-- Every store and atomic of the group is performed (R309). -/
def Dev.groupDrained (d : Dev) (g : Group) : Bool :=
  (g.accs.all fun a => a.kind == 0) && (d.ctx g.cid).carriedWrites == 0

/-- GROUP_END (R116, R309): the slot is freed and the launch has one group less; the core may halt (R194). -/
def execGroupEnd (core slot : Nat) (s : State) :=
  let d := s.dev
  s.to <| match d.group? core slot with
    | none => d
    | some g =>
      if !g.stack.isEmpty || g.halted || g.stepping == 2 || !d.groupDrained g then d
      else
        let d := d.modCore core fun k => { k with
          slots := tdel k.slots slot, freedAt := tset k.freedAt slot d.time
          loads := k.loads.filter fun l => l.2.slot != slot }
        let d := d.modNode g.node fun n => { n with groupsLeft := n.groupsLeft - 1 }
        d.haltCore core

/-! ## Debug (R154, R155, R189) -/

/-- The slot of a CORE_DBG_CTL write. -/
def dbgSlotOf (v : W32) : Nat := fld v.toNat 0 6

/-- A slot was halted at the start of the cc (R154): a group's, or the sequencer's as slot 48. -/
def Dev.dbgHalted (d : Dev) (c slot : Nat) : Bool :=
  if slot = 48 then (d.core c).seq.st == 5 && (d.core c).seq.stepping == 0 && (d.core c).seq.haltedAt != some d.time
  else (d.group? c slot).any fun g => g.halted && g.haltedAt != some d.time

/-- A write to CORE_DBG_CTL: it takes effect for a function that reaches the register, with the ACTION of the
command; a reserved ACTION, SLOT or a slot that is not halted is refused (RESULT 1). -/
def Dev.dbgCtl (d : Dev) (fn : Fn) (c : Nat) (v : W32) (action : Nat) (f : Dev → Nat → Dev) : Dev :=
  let slot := dbgSlotOf v
  if !d.reachDbg fn c || fld v.toNat 8 3 != action then d
  else
    let d := d.modCore c fun k => { k with dbgSlot := slot }
    if slot > 48 || !d.dbgHalted c slot then d.modCore c fun k => { k with dbgResult := 1 }
    else f (d.modCore c fun k => { k with dbgResult := 0 }) slot

/-- DBG_SELECT: ACTION NONE names a slot for CORE_DBG_RDATA; actions 4 to 7 are refused. -/
def execDbgSelect (fn : Fn) (core : Nat) (v : W32) (s : State) :=
  s.to (
    let a := fld v.toNat 8 3
    if a ≤ 3 then s.dev.dbgCtl fn core v 0 fun d _ => d
    else if !s.dev.reachDbg fn core then s.dev
    else s.dev.modCore core fun k => { k with dbgSlot := dbgSlotOf v, dbgResult := 1 })

/-- DBG_STEP: the slot leaves the halted state for one instruction. A PC that the debugger set equal to the RPC is popped
before the fetch (R134). -/
def execDbgStep (fn : Fn) (core : Nat) (v : W32) (s : State) :=
  s.to (s.dev.dbgCtl fn core v 1 fun d slot =>
    let d := d.modCore core fun k => { k with dbgResult := 2 }
    if slot = 48 then d.modSeq core fun q => { q with stepping := 1, st := 1 }
    else d.modGroup core slot fun g => { g with halted := false, stepping := 1, stack := popStack g.stack })

/-- DBG_RESUME. -/
def execDbgResume (fn : Fn) (core : Nat) (v : W32) (s : State) :=
  s.to (s.dev.dbgCtl fn core v 2 fun d slot =>
    if slot = 48 then d.modSeq core fun q => { q with st := 1, stepping := 0 }
    else d.modGroup core slot fun g => { g with halted := false, stepping := 0, stack := popStack g.stack })

/-- DBG_KILL: the halted slot's fault is handled as in native mode (R149, R154). A slot halted by a step has the code
0x00, and its context is killed with FLT_ABORTED's teardown and no code of its own. -/
def execDbgKill (fn : Fn) (core : Nat) (v : W32) (s : State) :=
  s.to (s.dev.dbgCtl fn core v 3 fun d slot =>
    if slot = 48 then d.killContext (d.core core).seq.cid (d.core core).seq.haltCode
    else match d.group? core slot with
      | some g => d.killContext g.cid g.haltCode
      | none => d)

/-- DBG_STEP_END: the stepped instruction's results are written and the slot halts again (R154, R189). DESIGN CHOICE (log
150): a group whose stepped EXIT empties its stack halts again too, and ends once it is resumed. -/
def execDbgStepEnd (core slot : Nat) (s : State) :=
  let d := s.dev
  s.to (
    if slot = 48 then
      let q := (d.core core).seq
      if q.stepping == 2 && q.issueAt ≤ q.ac then
        (d.modSeq core fun q => { q with st := 5, stepping := 0, haltCode := 0, haltedAt := some d.time }).modCore core
          fun k => k.stepOver 48
      else d
    else match d.group? core slot with
      | none => d
      | some g =>
        let k := d.core core
        let busy := !g.pend.isEmpty || !g.notReady.isEmpty || (k.stage.any fun x => x.slot == slot)
        if g.stepping == 2 && !busy then
          (d.modGroup core slot fun g => { g with halted := true, haltCode := 0, haltedAt := some d.time, stepping := 0 }).modCore
            core fun k => k.stepOver slot
        else d)

/-- The entry of a stack numbered from 0 at the bottom (R155). -/
def stackAt (st : List StackEntry) (n : Nat) : Option StackEntry := st.reverse[n]?

def setStackAt (st : List StackEntry) (n : Nat) (f : StackEntry → StackEntry) : List StackEntry :=
  st.reverse.zipIdx.map (fun e => if e.2 == n then f e.1 else e.1) |>.reverse

/-- The item that CORE_DBG_RSEL selects (R155). -/
def Dev.dbgRead (d : Dev) (c : Nat) : W32 :=
  let k := d.core c
  let r := k.dbgRsel.toNat
  let lane := fld r 16 5
  let idx := fld r 8 6
  let file := fld r 0 3
  if k.dbgSlot = 48 then (if file = 3 && idx = 0 then BitVec.ofNat 32 k.seq.pc else 0)
  else match k.group? k.dbgSlot with
    | none => 0
    | some g =>
      match file with
      | 0 => g.t idx lane
      | 1 => if idx < 32 then g.s idx else 0
      | 2 => if idx < 8 && g.p idx lane then 1 else 0
      | 3 => BitVec.ofNat 32 (match idx with
        | 0 => g.pc
        | 1 => g.stack.length
        | 2 => g.repeatCnt
        | 3 => b2n g.latency
        | _ => 0)
      | 4 => match stackAt g.stack idx with | some e => e.mask | none => 0
      | 5 => match stackAt g.stack idx with | some e => BitVec.ofNat 32 (e.rpc * 65536 + e.pc % 65536) | none => 0
      | 6 => laneMask ((List.range 32).filter fun n => g.rdPois false n lane)
      | _ => laneMask ((List.range 32).filter fun n => g.rdPois false (32 + n) lane)

/-- DBG_RDATA_WRITE (R155): the selected item of a halted slot; a register's poison is cleared in the lane. -/
def execDbgRdataWrite (fn : Fn) (core : Nat) (v : W32) (s : State) :=
  let d := s.dev
  s.to (
    if !d.reachDbg fn core then d
    else
      let k := d.core core
      let r := k.dbgRsel.toNat
      let lane := fld r 16 5
      let idx := fld r 8 6
      let file := fld r 0 3
      if !d.dbgHalted core k.dbgSlot then d
      else if k.dbgSlot = 48 then
        (if file = 3 && idx = 0 then d.modSeq core fun q => { q with pc := v.toNat % 65536 } else d)
      else d.modGroup core k.dbgSlot fun g =>
        match file with
        | 0 => g.wr { reg := .t idx, lane := lane, val := v, pois := false }
        | 1 => if idx < 32 then g.wr { reg := .s idx, lane := 32, val := v, pois := false } else g
        | 2 => if idx < 8 then g.wr { reg := .p idx, lane := lane, val := v &&& 1, pois := false } else g
        | 3 => if idx = 0 then { g with stack := setTopPc (v.toNat % 65536) g.stack } else g
        | 4 => { g with stack := setStackAt g.stack idx fun e => { e with mask := v } }
        | 5 => { g with stack := setStackAt g.stack idx fun e => { e with pc := v.toNat % 65536, rpc := v.toNat / 65536 } }
        | _ => g)

/-- CTX_FLAGS_WRITE (R148, R190, R492): TIMING_AUDIT is bit 1; a 1 in IMRAD_COMPAT counts only while unlocked. -/
def execCtxFlagsWrite (fn : Fn) (cid : Nat) (v : W32) (s : State) :=
  let d := s.dev
  s.to (
    if !d.reachCtx fn cid || !(d.ctx cid).exists_ then d
    else d.modCtx cid fun x => { x with
      audit := v.getLsbD 1
      compat := if v.getLsbD 0 && !d.unlocked x.pitch then x.compat else v.getLsbD 0 })

end Sys2Proof.Machine
end

