-- ==== Sys2Proof/Machine/ThreadMem.lean ====
section
/-!
DEFINITION. Memory instructions of the thread groups: the address stage (R130, R168 to R170, R329 to R333, R509 to
R511), loads and the L1 (R259 to R263, R266 to R271, R302), stores and the write buffer (R264, R265, R267, R301,
R533), atomics (R138 to R142, R534), marks and fences (R304 to R306), local flags (R171 to R174, R187), scratchpad
banks (R256 to R258), and the livelock detector (R144, R145).
-/

namespace Sys2Proof.Machine
open Sys2Proof

/-- A number of its own for an access or an operation. -/
def Dev.fresh (d : Dev) : Dev × Nat := (d.modMem fun m => { m with nextTag := m.nextTag + 1 }, d.mem.nextTag)

/-! ## The livelock detector (R144, R145) -/

/-- A qualifying access to one line that gave each lane a value: it repeats the previous one if each of its lanes has
received the value that it received then. -/
def Group.qualify (g : Group) (pc line : Nat) (vals : List (Nat × W64)) : Group :=
  let same := g.lastLine == some line && (vals.all fun v => g.lastVals.contains v) && !g.storeSince
  let n := if same then g.repeatCnt + 1 else 1
  { g with repeatCnt := n, lastLine := some line, lastVals := vals, storeSince := false
           liveDue := g.liveDue || n == 2 ^ 20, livePc := pc }

/-- A store, or an atomic that changed memory. -/
def Group.noteStore (g : Group) : Group := { g with repeatCnt := 0, storeSince := true }

/-! ## Addresses of a memory instruction (R168, R169) -/

/-- The lanes that a memory instruction gives addresses for; one for a scalar destination (R163). -/
def Group.memLanes (g : Group) (i : TgInst) : List Nat :=
  if i.ds then g.active.take 1 else g.lanesOf i

/-- Virtual address of a lane. -/
def Group.laneVa (g : Group) (i : TgInst) (l : Nat) : Nat :=
  let a : Int := (((g.rd64 i.as_ i.a l).toNat % 2 ^ 48 : Nat) : Int)
  uNat 48 (a + if i.op == 0x42 then 0 else i.offset)

/-- Bytes that one lane accesses. -/
def TgInst.accBytes (i : TgInst) : Nat :=
  match i.op with
  | 0x40 | 0x41 => 2 ^ (fld i.mod_ 0 3)
  | 0x42 => atomBytes (fld i.mod_ 3 3)
  | _ => 1

/-- The right that R332 asks for. -/
def TgInst.right (i : TgInst) : Nat :=
  match i.op with | 0x40 => 1 | 0x41 => 2 | 0x42 => 3 | 0x43 => 1 | _ => 0

/-- One lane's pieces, cut at 64 KiB of virtual address: lane, offset, length, virtual address. -/
def lanePieces (l va n : Nat) : List (Nat × Nat × Nat × Nat) :=
  let k := min n (0x10000 - va % 0x10000)
  if k = n then [(l, 0, n, va)] else [(l, 0, k, va), (l, k, n - k, (va + k) % 2 ^ 48)]

def Group.pieces (g : Group) (i : TgInst) : List (Nat × Nat × Nat × Nat) :=
  (g.memLanes i).flatMap fun l => lanePieces l (g.laneVa i l) i.accBytes

/-- Distinct 128 B lines that the lanes address (R130). -/
def Group.lineCount (g : Group) (i : TgInst) : Nat :=
  (dedup ((g.pieces i).flatMap fun p => [p.2.2.2 / 128, (p.2.2.2 + p.2.2.1 - 1) / 128])).length

/-- Bytes of a piece in a line: lane, offset in the access, offset in the line. -/
def LaneSeg.inLine (x : LaneSeg) (line : Nat) : List (Nat × Nat × Nat) :=
  ((List.range x.len).filter fun j => (x.pa + j) / 128 == line).map fun j => (x.lane, x.off + j, (x.pa + j) % 128)

def segsInLine (ss : List LaneSeg) (line : Nat) : List (Nat × Nat × Nat) := ss.flatMap fun x => x.inLine line

/-! ## Leaving the address stage -/

/-- The instruction leaves the stage and its group goes on. -/
def Dev.leaveStage (d : Dev) (c slot : Nat) : Dev :=
  let u := ((d.core c).stage.map fun s => s.until_).getD 0
  let d := d.modCore c fun k => { k with stage := none, stageFree := max d.time u }
  d.modGroup c slot fun g => { (g.goto (g.pc + 8)) with fetchAt := max (d.time + 1) u }

/-- A fault found in the address stage (R147, R152): nothing of the instruction is performed. -/
def Dev.stageFault (d : Dev) (c slot code sub pc : Nat) (lanes : List Nat) (va : Nat) : Dev :=
  let u := ((d.core c).stage.map fun s => s.until_).getD 0
  (d.modCore c fun k => { k with stage := none, stageFree := max d.time u }).groupFault c slot code sub pc
    (laneMask lanes) va

/-! ## Watchpoints (R509 to R511) -/

/-- Lanes in which a watchpoint matches pieces of an access of kind bit `kb`. -/
def Watch.lanes (w : Watch) (kb : Nat) (ss : List LaneSeg) : List Nat :=
  let b := w.base.toNat
  if bit b 59 && bit b kb then
    dedup ((ss.filter fun x => fld b 0 56 < x.pa + x.len + (1 - x.len) && fld b 0 56 ≤ x.pa + x.len - 1
      && x.pa ≤ fld w.limit.toNat 0 56).map fun x => x.lane)
  else []

/-- Counts record-only matches and answers the lowest faulting watchpoint with its lanes. -/
def Dev.watch (d : Dev) (pitch op : Nat) (ss : List LaneSeg) : Dev × Option (Nat × List Nat) :=
  if op != 0x40 && op != 0x41 && op != 0x42 then (d, none) else
  let kb := 56 + (op - 0x40)
  let ws := (d.pitchCnt pitch).watch
  let m := ws.filterMap fun w =>
    let ls := w.2.lanes kb ss
    if ls.isEmpty then none else some (w.1, w.2.base.getLsbD 60, ls)
  let d := d.modPitchCnt pitch fun c => { c with watch := c.watch.map fun w =>
    if (m.any fun x => x.1 == w.1 && x.2.1) then (w.1, { w.2 with hits := w.2.hits.bump 0xFF 1 d.time }) else w }
  (d, (m.find? fun x => !x.2.1).map fun x => (x.1, x.2.2))

/-! ## Write buffer (R264 to R267) -/

/-- A byte that the write buffer holds, from its youngest entry, with its sector's poison. -/
def Core.wbByte (k : Core) (line off : Nat) : Option (Byte × Bool) :=
  (k.wb.reverse.find? fun w => w.line == line && w.bytes.any fun b => b.1 == off).bind fun w =>
    (w.bytes.find? fun b => b.1 == off).map fun b => (b.2, if off < 64 then w.pois0 else w.pois1)

/-- Writes bytes (offset, byte) and poisoned sectors into an entry. -/
def WbEntry.put (w : WbEntry) (bs : List (Nat × Byte)) (ps : List Nat) (t : Nat) : WbEntry :=
  { w with
    bytes := bs.foldl (fun m b => tset m b.1 b.2) w.bytes
    pois0 := secPoisAfter bs ps 0 w.pois0, pois1 := secPoisAfter bs ps 1 w.pois1, lastWrite := t }

/-- What the data's code will show at the drain (R267), as the store that wrote it observes. -/
def WbEntry.upset (w : WbEntry) (ecc : EccObs) : WbEntry := if ecc = .clean then w else { w with ecc := ecc }

/-! ## The L1 (R259 to R263) -/

/-- Updates a valid L1 line in place, and notes the bytes for a fill of the line that is under way. -/
def Core.l1Store (k : Core) (line : Nat) (bs : List (Nat × Byte)) (ps : List Nat) : Core :=
  { k with
    l1 := k.l1.map fun l => if l.line == line then
        let v := (LineView.mk (bytesOfTab l.data) l.pois0 l.pois1).write bs ps
        { l with data := tabOfBytes v.data, pois0 := v.p0, pois1 := v.p1 } else l
    mregs := k.mregs.map fun r => if r.2.line == line then
        (r.1, { r.2 with overlay := bs.foldl (fun m b => tset m b.1 b.2) r.2.overlay
                         overlayMask := dedup (r.2.overlayMask ++ ps) }) else r }

/-- A core has a read outstanding to the line (R302): a fill, an acquire load or an atomic. -/
def Dev.readOut (d : Dev) (c line56 : Nat) : Bool :=
  let k := d.core c
  (k.mregs.any fun r => d.ownId * 2 ^ 37 + r.2.line == line56)
    || (k.atoms.any fun a => a.2.subs.any fun s => s.addr / 128 == line56)
    || d.mem.reqs.any fun r => match r.2.org with
      | .load c' _ => c' == c && r.2.addr / 128 == line56
      | _ => false

/-- The line lies in the bivouac tier or on another device (R448). -/
def Dev.farLine (d : Dev) (line56 : Nat) : Bool :=
  !d.isLocal (line56 * 128) || (regionOf (localOf (line56 * 128))).isBiv

/-- Loads and atomics to the bivouac tier and other devices that the core has outstanding (R448). -/
def Dev.farOut (d : Dev) (c : Nat) : Nat :=
  let k := d.core c
  (k.mregs.map fun r => if (regionOf (r.2.line * 128)).isBiv then r.2.waiters.length else 0).sum
    + (d.mem.reqs.filter fun r => r.2.outstanding && match r.2.org with
        | .load c' _ => c' == c && d.farLine (r.2.addr / 128)
        | .atom c' _ => c' == c && d.farLine (r.2.addr / 128)
        | _ => false).length
    + (k.atoms.map fun a => if a.2.sent then 0
        else (dedup ((a.2.subs.map fun s => s.addr / 128).filter fun l => d.farLine l)).length).sum

/-- Registers a miss may take (R261): 14 and 15 are for LC reads. -/
def Core.freeReg (k : Core) (lc : Bool) : Option Nat :=
  (List.range (if lc then 16 else 14)).find? fun n => (lookup? k.mregs n).isNone

/-- Generations through which the instruction in the address stage was translated, and its number there (R339). -/
def Dev.stageGens (d : Dev) (c : Nat) : List Nat :=
  match (d.core c).stage with | some st => dedup (st.segs.map fun x => x.gen) | none => []
def Dev.stageOp (d : Dev) (c : Nat) : Nat := ((d.core c).stage.bind fun st => st.op).getD 0

/-- Sends a request of a core, counting an LC read (R499 10). -/
def Dev.coreSend (d : Dev) (c slot : Nat) (r : Req) : Dev × Nat :=
  let id := d.identOf c slot
  let p := d.pitchOfCore c
  let d := if r.lc then d.count p 11 1 id else d
  d.send { r with pitch := p, ident := id, cid := (d.group? c slot).map fun g => g.cid
                  dev := if d.isLocal r.addr then none else some (devOf r.addr) }

/-- Bytes of a line that the write buffer holds, with the sectors that they poison (R266). -/
def Core.wbLine (k : Core) (line56 : Nat) : List (Nat × Byte) × List Nat :=
  let bs := (List.range 128).filterMap fun o => (k.wbByte line56 o).map fun b => (o, b.1, b.2)
  (bs.map fun b => (b.1, b.2.1), dedup ((bs.filter fun b => b.2.2).map fun b => b.1 / 64))

/-- Takes a free register for a fill: the bytes that the write buffer holds stand in the line when it is installed. -/
def Dev.takeFill (d : Dev) (c slot n line : Nat) (lc : Bool) (waiters : List Nat) : Dev :=
  let line56 := d.ownId * 2 ^ 37 + line
  let (d, tag) := d.coreSend c slot { kind := .read, addr := line56 * 128, org := .fill c n, lc := lc,
                                        gens := d.stageGens c }
  let own := (d.core c).wbLine line56
  d.modCore c fun k => { k with mregs := tset k.mregs n {
    line := line, tag := tag, lc := lc, waiters := waiters, hint := waiters.isEmpty, overlay := own.1, overlayMask := own.2 } }

/-- A fill without a waiting load: a prefetch (R271, R75). -/
def Dev.prefetchL1 (d : Dev) (c slot line : Nat) : Dev :=
  let k := d.core c
  if (k.l1.any fun l => l.line == line) || (k.mregs.any fun r => r.2.line == line) then d
  else match k.freeReg false with
    | some n => d.takeFill c slot n line false []
    | none => d

/-- R75: before any plan grants the core, every miss also fetches the next line. -/
def Dev.nextLine (d : Dev) (c slot line : Nat) : Dev :=
  if (d.pitchOfCore c).isNone then d.prefetchL1 c slot (line + 1) else d

/-! ## Loads -/

def LoadOp.add (op : LoadOp) (xs : List (Nat × Nat × Byte × Bool)) : LoadOp :=
  { op with got := op.got ++ xs.map fun x => (x.1, x.2.1, x.2.2.1)
            pois := op.pois ++ (xs.filter fun x => x.2.2.2).map fun x => x.1 }

def LoadOp.complete (op : LoadOp) : Bool := op.got.length == op.lanes.length * op.width

/-- The value a lane has received, extended to the destination (R167). -/
def LoadOp.value (op : LoadOp) (l : Nat) : W64 :=
  let bs := (List.range op.width).map fun o =>
    match op.got.find? fun x => x.1 == l && x.2.1 == o with | some x => x.2.2 | none => 0
  let v := leNat bs
  if op.signed then BitVec.ofInt 64 (sInt (8 * op.width) v) else BitVec.ofNat 64 v

/-- The registers written with a value: one, or a pair (R121). -/
def destVals (scalar : Bool) (dest lane : Nat) (wide : Bool) (v : W64) (pois : Bool) : List RegVal :=
  let r := regRef scalar dest
  let ln := if scalar then 32 else lane
  { reg := r, lane := ln, val := v.truncate 32, pois := pois } ::
    (if wide then [{ reg := regRef scalar (dest + 1), lane := ln, val := (v >>> 32).truncate 32, pois := pois }] else [])

def destRefs (scalar : Bool) (dest : Nat) (wide : Bool) : List RegRef :=
  regRef scalar dest :: (if wide then [regRef scalar (dest + 1)] else [])

/-- Removes accesses that have been performed, and barriers that waited for them. -/
def Group.perform (g : Group) (id : Nat) : Group :=
  { g with accs := g.accs.filter fun a => a.id != id
           barriers := g.barriers.filter fun b => b != .acquire id }

/-- A load whose every lane has its bytes: registers are written once its least latency is over, the access is
performed, an acquire invalidates the L1 (R270) and R144 counts it. -/
def Dev.finishLoad (d : Dev) (c id : Nat) : Dev :=
  let k := d.core c
  match lookup? k.loads id with
  | none => d
  | some op =>
    if !op.complete || (k.stage.any fun s => s.op == some id && !s.left.isEmpty) then d
    else
      let wide := op.width == 8
      let vals := op.lanes.flatMap fun l => destVals op.scalar op.dest l.1 wide (op.value l.1) (op.pois.contains l.1)
      let refs := destRefs op.scalar op.dest wide
      let line := ((op.lanes.head?.map fun l => l.2 / 128)).getD 0
      let one := op.lanes.all fun l => l.2 / 128 == line
      let due := op.at_ + op.minLat
      let d := d.modCore c fun k => { k with loads := tdel k.loads id }
      let d := d.modGroup c op.slot fun g =>
        let g := if due ≤ d.time then (g.wrAll vals).ready refs
          else { g with pend := g.pend ++ [{ vals := vals, dests := refs, due := due }] }
        let g := g.perform id
        if one && !op.lanes.isEmpty then g.qualify op.pc line (op.lanes.map fun l => (l.1, op.value l.1)) else g
      if op.acquire then d.modCore c Core.l1Clear else d

/-- Gives a load bytes of a line, by offset in the line, from a source. -/
def Dev.giveLoad (d : Dev) (c id : Nat) (xs : List (Nat × Nat × Byte × Bool)) : Dev :=
  d.modCore c fun k => { k with loads := tmodIf k.loads id fun op => op.add xs }

/-- Counts SRAM errors of a core (R461 kinds 0x04 and 0x05, R499 12 and 13). -/
def Dev.sramEvent (d : Dev) (c detail : Nat) (corrected : Bool) : Dev :=
  (d.event (if corrected then 4 else 5) c detail).countErr corrected (d.pitchOfCore c)

/-- What the L1's codes do to an access that would hit (R263): true when the hit stands. -/
def Dev.l1Check (d : Dev) (c line : Nat) (ecc : EccObs) : Dev × Bool :=
  let drop (d : Dev) : Dev := d.modCore c fun k => { k with l1 := k.l1.filter fun l => l.line != line }
  match ecc with
  | .clean => (d, true)
  | .corrected => ((d.modCore c fun k => { k with l1Ce := k.l1Ce.bump 0xFFFF 1 d.time }).sramEvent c 2 true, true)
  | .uncorrectable =>
    (((drop d).modCore c fun k => { k with l1Ue := k.l1Ue.bump 0xFF 1 d.time }).sramEvent c 2 false, false)
  | .tag | .tagCorrected =>
    (((drop d).modCore c fun k => { k with tagPar := k.tagPar.bump 0xFF 1 d.time }).sramEvent c 3 true, false)

/-- A plain load of one cached line (R260 to R262, R266, R302); false when it must wait in the address stage. -/
def Dev.loadCached (d : Dev) (c slot id line56 : Nat) (need : List (Nat × Nat × Nat)) (lc : Bool) (ecc : EccObs) :
    Dev × Bool :=
  let k := d.core c
  let line := line56 % 2 ^ 37
  let p := d.pitchOfCore c
  let ident := d.identOf c slot
  let fromWb := need.filterMap fun x => (k.wbByte line56 x.2.2).map fun b => (x.1, x.2.1, b.1, b.2)
  let rest := need.filter fun x => (k.wbByte line56 x.2.2).isNone
  if rest.isEmpty then ((d.giveLoad c id fromWb), true)
  else
    let held := k.l1.find? fun l => l.line == line
    let (d, ok) := if held.isSome then d.l1Check c line ecc else (d, false)
    match held, ok with
    | some l, true =>
      let d := d.modMem fun m => { m with stamp := m.stamp + 1 }
      let d := (d.count p 0x15 1 ident).modCore c fun k => { k with
        l1 := k.l1.map fun x => if x.line == line then { x with used := d.mem.stamp } else x }
      ((d.giveLoad c id (fromWb ++ rest.map fun x =>
        (x.1, x.2.1, tget 0 l.data x.2.2, if x.2.2 < 64 then l.pois0 else l.pois1))), true)
    | _, _ =>
      let far := (regionOf (line * 128)).isBiv && 32 ≤ d.farOut c
      match k.mregs.find? fun r => r.2.line == line with
      | some (n, r) =>
        if r.cancelled || 8 + b2n (!r.hint) ≤ r.waiters.length || far then (d, false)
        else
          let later := rest.filterMap fun x => (lookup? r.overlay x.2.2).map fun b =>
            (x.1, x.2.1, b, r.overlayMask.contains (x.2.2 / 64))
          let d := ((d.count p 0x16 1 ident).count p 0x17 1 ident).giveLoad c id (fromWb ++ later)
          let d := d.modCore c fun k => { k with mregs := tset k.mregs n { r with waiters := r.waiters ++ [id] } }
          (d.nextLine c slot line, true)
      | none =>
        match k.freeReg lc with
        | none => (d, false)
        | some n =>
          if far || d.readOut c line56 then (d, false)
          else
            let d := (d.count p 0x16 1 ident).giveLoad c id fromWb
            ((d.takeFill c slot n line lc [id]).nextLine c slot line, true)

/-- Requests to a scratchpad window for the 64 B units that bytes of a line touch (R533). -/
def spadUnits (c line56 : Nat) (need : List (Nat × Nat × Nat)) : List (Nat × Nat × List (Nat × Nat × Nat)) :=
  let a := localOf (line56 * 128)
  match regionOf a with
  | .spad tc =>
    ([0, 1].filter fun h => need.any fun x => x.2.2 / 64 == h).map fun h =>
      (tc, (a - spadAddr tc 0) + 64 * h, need.filter fun x => x.2.2 / 64 == h)
  | _ => [(c, 0, [])]

def Dev.spadPush (d : Dev) (tc : Nat) (r : SpadReq) : Dev := d.modCore tc fun k => { k with spadQ := k.spadQ ++ [r] }

/-- One line of a load (R260). A line that the L1 may not serve, of another device or of an acquire load, is read from
its home; bytes that the write buffer holds come from there, and a load that finds all of them there sends no read (R266,
R299). -/
def Dev.loadLine (d : Dev) (c slot id line56 : Nat) (i : TgInst) (need : List (Nat × Nat × Nat)) (ecc : EccObs) :
    Dev × Bool :=
  let lc := bit i.mod_ 6
  let acq := fld i.mod_ 4 2 == 1
  let r := regionOf (localOf (line56 * 128))
  if !d.isLocal (line56 * 128) || (r.cached && acq) then
    let fromWb := need.filterMap fun x => ((d.core c).wbByte line56 x.2.2).map fun b => (x.1, x.2.1, b.1, b.2)
    if fromWb.length = need.length then (d.giveLoad c id fromWb, true)
    else if d.readOut c line56 || (d.farLine line56 && 32 ≤ d.farOut c) then (d, false)
    else
      let (d, tag) := (d.giveLoad c id fromWb).coreSend c slot {
        kind := .read, addr := line56 * 128, org := .load c id, lc := lc, gens := d.stageGens c }
      (d.modCore c fun k => { k with loads := tmodIf k.loads id fun op => { op with await := op.await ++ [tag] } }, true)
  else if r.cached then d.loadCached c slot id line56 need lc ecc
  else
    (d.forEach (spadUnits c line56 need) fun d u =>
      d.spadPush u.1 { kind := .load c id, unit := u.2.1, own := u.1 == c, since := d.time }, true)

/-! ## Stores -/

/-- The bytes that lanes store into a line: the lanes that give a byte are listed in ascending order. Where several
lanes give one byte the manual names none of them, and a free value picks (log 17). -/
def Dev.storeBytes (d : Dev) (need : List (Nat × Nat × Nat)) (val : Nat → Nat → Byte) :
    Dev × List (Nat × Byte) × List Nat :=
  (dedup (need.map fun x => x.2.2)).foldl (fun acc o =>
    let cs := need.filter fun x => x.2.2 == o
    let (d, bs, ls) := acc
    match cs with
    | [x] => (d, bs ++ [(o, val x.1 x.2.1)], ls ++ [x.1])
    | _ =>
      let (v, d) := d.takeFree
      match cs[v.toNat % cs.length]? with
      | some x => (d, bs ++ [(o, val x.1 x.2.1)], ls ++ [x.1])
      | none => (d, bs, ls)) (d, [], [])

def Dev.addAcc (d : Dev) (c slot : Nat) (a : Acc) : Dev := d.modGroup c slot fun g => { g with accs := g.accs ++ [a] }

/-- One line of a store to stacked memory, the bivouac tier or another device (R264, R305); false when it must wait
for an entry. With all 16 in use, the need for one starts the drain of the oldest that has not started, once. -/
def Dev.storeBuffered (d : Dev) (c slot line56 : Nat) (bs : List (Nat × Byte)) (ps : List Nat)
    (release : Option (List Nat × List Nat)) (ecc : EccObs) : Dev × Bool :=
  let asked (d : Dev) (v : Bool) : Dev := d.modCore c fun k => { k with stage := k.stage.map fun s => { s with asked := v } }
  let k := d.core c
  let merge := if release.isSome then none
    else k.wb.find? fun w => w.line == line56 && !w.draining && w.release.isNone
  let cid := ((d.group? c slot).map fun g => g.cid).getD 0
  let finish (d : Dev) (e : Nat) : Dev :=
    let (d, a) := d.fresh
    let d := d.addAcc c slot { id := a, kind := 1, wb := some e, gens := d.stageGens c, op := d.stageOp c }
    let d := asked d false
    let d := if d.isLocal (line56 * 128) then d.modCore c fun k => k.l1Store (line56 % 2 ^ 37) bs ps else d
    if ((d.core c).wb.any fun w => w.id == e && w.release.isNone && coversSector w.bytes 0 && coversSector w.bytes 1) then
      d.drainEntry c e
    else d
  match merge with
  | some w =>
    (finish (d.modCore c fun k => { k with
      wb := k.wb.map fun x => if x.id == w.id then (x.put bs ps d.time).upset ecc else x }) w.id, true)
  | none =>
    if 16 ≤ k.wb.length then
      (if k.stage.any fun s => s.asked then d
        else match k.wb.find? fun w => !w.draining && w.release.isNone with
          | some w => asked (d.drainEntry c w.id) true
          | none => d, false)
    else
      let (d, e) := d.fresh
      let w : WbEntry := { id := e, line := line56, cid := cid, slot := slot
                           release := release.map fun r => (slot, r.1, r.2) }
      (finish (d.modCore c fun k => { k with wb := k.wb ++ [(w.put bs ps d.time).upset ecc] }) e, true)

/-- Earlier accesses of a group, and the entries of the write buffer at this cc (R304). -/
def Dev.releaseSet (d : Dev) (c slot : Nat) : List Nat × List Nat :=
  (((d.group? c slot).map fun g => g.accs.map fun a => a.id).getD [], (d.core c).wb.map fun w => w.id)

/-- A release store to a scratchpad window may go to the bank (R304, R533). -/
def Dev.releaseClear (d : Dev) (c : Nat) (g : Group) (release : Option (List Nat × List Nat)) : Bool :=
  match release with
  | none => true
  | some (accs, wbs) => !(g.accs.any fun a => accs.contains a.id) && !((d.core c).wb.any fun w => wbs.contains w.id)
      && (d.ctx g.cid).carriedWrites == 0

/-- One line of a store. A release store to a scratchpad window waits in the address stage for what R304 asks. -/
def Dev.storeLine (d : Dev) (c slot line56 : Nat) (g : Group) (i : TgInst) (need : List (Nat × Nat × Nat))
    (release : Option (List Nat × List Nat)) (ecc : EccObs) : Dev × Bool :=
  let wide := fld i.mod_ 0 3 == 3
  let val (l o : Nat) : Byte :=
    if wide then ((g.rd64 i.bs i.b l) >>> (8 * o)).truncate 8 else ((g.srcB i l) >>> (8 * o)).truncate 8
  let poisL (l : Nat) : Bool := if wide then g.rd64Pois i.bs i.b l else g.rdPois i.bs i.b l
  let r := regionOf (localOf (line56 * 128))
  if !d.isLocal (line56 * 128) || r.cached then
    let (d', bs, ls) := d.storeBytes need val
    let ps := dedup ((bs.zip ls).filterMap fun x => if poisL x.2 then some (x.1.1 / 64) else none)
    let (d', ok) := d'.storeBuffered c slot line56 bs ps release ecc
    (if ok then d' else { d' with free := d.free }, ok)
  else if !d.releaseClear c g release then (d, false)
  else
    (d.forEach (spadUnits c line56 need) fun d u =>
      let (d, bs, ls) := d.storeBytes u.2.2 val
      let pois := dedup ((bs.zip ls).filterMap fun x => if poisL x.2 then some (x.1.1 % 64 / 32) else none)
      let (d, a) := d.fresh
      (d.addAcc c slot { id := a, kind := 1, gens := d.stageGens c, op := d.stageOp c }).spadPush u.1
        { kind := .store c slot a (bs.map fun b => (b.1 % 64, b.2)) pois, unit := u.2.1, own := u.1 == c
          since := d.time }, true)

/-! ## Atomics -/

/-- Sub-operations of the lanes of an atomic, one for each distinct address, lanes ascending (R138). -/
def Group.atomSubs (g : Group) (i : TgInst) (ss : List LaneSeg) : List AtomSub :=
  let x (sel : Bool) (n l : Nat) : W64 := if i.atomWide then g.rd64 sel n l else (g.rd sel n l).zeroExtend 64
  (dedup (ss.map fun s => s.pa)).map fun a =>
    { addr := a
      lanes := ((List.range 32).filter fun l => ss.any fun s => s.lane == l && s.pa == a).map fun l =>
        (l, x i.bs i.b l, x i.cs i.c l) }

/-- Sends the canopy operations of an atomic, one for each line (R138), or its packets to other devices (R534). -/
def Dev.atomSend (d : Dev) (c id : Nat) : Dev :=
  match lookup? (d.core c).atoms id with
  | none => d
  | some a =>
    if a.sent then d else
    let d := d.modCore c fun k => { k with atoms := tmodIf k.atoms id fun a => { a with sent := true } }
    let gens := match d.group? c a.slot with
      | some g => (g.accs.filter fun x => x.id == id).flatMap fun x => x.gens
      | none => []
    let put (d : Dev) (r : Req) : Dev :=
      let (d, tag) := d.coreSend c a.slot { r with org := .atom c id, gens := gens }
      d.modCore c fun k => { k with atoms := tmodIf k.atoms id fun a => { a with await := a.await ++ [tag] } }
    d.forEach (dedup (a.subs.map fun s => s.addr / 128)) fun d line =>
      let subs := a.subs.filter fun s => s.addr / 128 == line
      if d.isLocal (line * 128) then
        put d { kind := .atomic a.op a.typ (subs.map fun s => { s with addr := localOf s.addr })
                addr := line * 128, org := .atom c id }
      else if a.typ == 0 then
        -- one packet from the lowest element to the highest; an element that no lane addresses adds 0
        let os := subs.map fun s => s.addr % 128 / 4
        let lo := os.foldl min 32
        let bs := (List.range (os.foldl max 0 + 1 - lo)).flatMap fun i =>
          let sum := ((subs.filter fun s => s.addr % 128 / 4 == lo + i).flatMap fun s => s.lanes).foldl
            (fun n l => n + l.2.1.toNat) 0 % 2 ^ 32
          (leBytes 4 sum).zipIdx.map fun b => (4 * (lo + i) + b.2, b.1)
        put d { kind := .addWrite 0 bs [], addr := line * 128, org := .atom c id }
      else
        d.forEach subs fun d s =>
          let sum := (s.lanes.foldl (fun n l => n + l.2.1.toNat) 0) % 2 ^ 63
          put d { kind := .pegSignal (BitVec.ofNat 64 sum), addr := s.addr, len := 8, org := .atom c id }

/-- An atomic may be sent: the accesses and entries that it waits for are gone (R260, R304). -/
def Dev.atomClear (d : Dev) (c : Nat) (a : AtomOp) : Bool :=
  let k := d.core c
  (match k.group? a.slot with
    | some g => !(g.accs.any fun x => a.waitAccs.contains x.id) && (a.mark < 2 || (d.ctx g.cid).carriedWrites == 0)
    | none => true) && !(k.wb.any fun w => a.waitWbs.contains w.id)

/-- An atomic in the address stage: false when R302 or R448 makes it wait. -/
def Dev.atomIssue (d : Dev) (c slot id : Nat) (g : Group) (i : TgInst) (ss : List LaneSeg) (pc : Nat) : Dev × Bool :=
  let subs := g.atomSubs i ss
  let lines := dedup (subs.map fun s => s.addr / 128)
  let far := (lines.filter fun l => d.farLine l).length
  if (lines.any fun l => d.readOut c l) || (far != 0 && 32 < d.farOut c + far) then (d, false)
  else
    let mark := fld i.mod_ 6 2
    let rel := mark ≥ 2
    let (accs, wbs) := if rel then d.releaseSet c slot else ([], [])
    let own := ((d.core c).wb.filter fun w => lines.contains w.line).map fun w => w.id
    let a : AtomOp :=
      { slot := slot, pc := pc, cid := g.cid, lanes := ss.map fun s => (s.lane, s.pa)
        op := fld i.mod_ 0 3, typ := fld i.mod_ 3 3, mark := mark, dest := i.d, scalar := i.ds
        succPred := if fld i.mod_ 0 3 == 7 then i.imm16 % 8 else 7
        remote := lines.any fun l => !d.isLocal (l * 128)
        subs := subs, waitAccs := accs, waitWbs := wbs ++ own }
    let d := d.modCore c fun k => { k with
      atoms := tset k.atoms id a
      l1 := k.l1.filter fun l => !lines.contains (d.ownId * 2 ^ 37 + l.line) }
    let d := d.modGroup c slot fun g => { g with
      accs := g.accs ++ [{ id := id, kind := 2, gens := dedup (ss.map fun x => x.gen), op := id }]
      barriers := if mark == 1 || mark == 3 then g.barriers ++ [.acquire id] else g.barriers }
    let d := if rel then d.drainAll c else d.forEach own fun d e => d.drainEntry c e
    -- a release atomic goes with RELEASE_SEND, another as soon as its lines have drained
    (if !rel && d.atomClear c a then d.atomSend c id else d, true)

/-- What each lane of an atomic receives, with its CAS success (R139 to R141). -/
def AtomOp.results (a : AtomOp) : List (Nat × Nat × Bool × Bool) :=
  a.subs.flatMap fun s =>
    let la := localOf s.addr
    let old := match a.olds.find? fun o => o.1 == la with | some o => o.2.toNat | none => 0
    (atomSub a.op a.typ old s.lanes).2.map fun r => (r.1, r.2.1, r.2.2, a.pois.contains la)

/-- A release point of the context waits for one of the accesses or for a write-buffer entry. -/
def Dev.releaseWaits (d : Dev) (c cid : Nat) (accs : List Nat) (e : Option Nat) : Bool :=
  let k := d.core c
  let meets (as ws : List Nat) : Bool := (as.any fun a => accs.contains a) || e.any fun x => ws.contains x
  (k.wb.any fun w => w.cid == cid && match w.release with
    | some (_, as, ws) => meets as ws
    | none => false)
  || (k.atoms.any fun a => a.2.cid == cid && !a.2.sent && 2 ≤ a.2.mark && meets a.2.waitAccs a.2.waitWbs)
  -- the end of a group is a release point too
  || k.slots.any fun g => g.2.cid == cid && ((g.2.stack.isEmpty && g.2.accs.any fun a => accs.contains a.id)
    || g.2.barriers.any fun b => match b with
      | .fence kind as ws => kind != 0 && meets as ws
      | _ => false)

/-- A write of the core ends with REMOTE_LOST: it is counted, and a release point that waits on it raises
FLT_REMOTE_LOST for its context; a release store or atomic among them is not sent (R318). -/
def Dev.noteLost (d : Dev) (c cid : Nat) (accs : List Nat) (e : Option Nat) : Dev :=
  let waits := d.releaseWaits c cid accs e
  let meets (as ws : List Nat) : Bool := (as.any fun a => accs.contains a) || e.any fun x => ws.contains x
  let d := d.modCore c fun k =>
    let wbs := (k.wb.filter fun w => w.cid == cid && w.release.any fun r => meets r.2.1 r.2.2).map fun w => w.id
    let ats := (k.atoms.filter fun a => a.2.cid == cid && !a.2.sent && 2 ≤ a.2.mark && meets a.2.waitAccs a.2.waitWbs).map
      fun a => a.1
    { k with
      lost := k.lost.bump 0xFF 1 d.time
      wb := k.wb.filter fun w => !wbs.contains w.id
      atoms := k.atoms.filter fun a => !ats.contains a.1
      slots := k.slots.map fun g => (g.1, { g.2 with
        accs := g.2.accs.filter fun a => !(ats.contains a.id || a.wb.any fun w => wbs.contains w) }) }
  if waits && (d.ctx cid).live then d.ctxFaultOn c cid 0x0A else d

/-- Accesses held in a write-buffer entry. -/
def Core.accsOf (k : Core) (e : Nat) : List Nat :=
  k.slots.flatMap fun g => (g.2.accs.filter fun a => a.wb == some e).map fun a => a.id

/-- ATOM_RETURN (R142): one operation's answer arrives; with the last, registers are written. -/
def Dev.atomReturn (d : Dev) (c id tag : Nat) : Dev :=
  let lost := (d.req? tag).any fun r => r.status == 3
  let cid := ((lookup? (d.core c).atoms id).map fun a => a.cid).getD 0
  let d := if lost then d.noteLost c cid [id] none else d
  let d := d.modCore c fun k => { k with
    atoms := tmodIf k.atoms id fun a => { a with await := a.await.filter fun t => t != tag } }
  let d := d.delReq tag
  match lookup? (d.core c).atoms id with
  | none => d
  | some a =>
    if !a.sent || !a.await.isEmpty then d
    else
      let wide := a.typ == 1 || a.typ == 3 || a.typ == 6
      let res := a.results
      let vals := if a.remote then
          a.lanes.flatMap fun l => destVals a.scalar a.dest l.1 wide 0 true
        else res.flatMap fun r =>
          destVals a.scalar a.dest r.1 wide (BitVec.ofNat 64 r.2.1) r.2.2.2 ++
            (if a.op == 7 && a.succPred != 7 then
              [{ reg := .p a.succPred, lane := r.1, val := if r.2.2.1 then 1 else 0, pois := r.2.2.2 }] else [])
      let refs := destRefs a.scalar a.dest wide ++ (if a.op == 7 && a.succPred != 7 then [.p a.succPred] else [])
      let line := ((a.lanes.head?.map fun l => l.2 / 128)).getD 0
      let one := a.lanes.all fun l => l.2 / 128 == line
      let d := d.modCore c fun k => { k with atoms := tdel k.atoms id }
      let d := d.modGroup c a.slot fun g =>
        let g := ((g.wrAll vals).ready refs).perform id
        if a.remote || a.changed then g.noteStore
        else if one then g.qualify a.pc line (res.map fun r => (r.1, BitVec.ofNat 64 r.2.1)) else g
      if a.mark == 1 || a.mark == 3 then d.modCore c Core.l1Clear else d

/-! ## The address stage (R130, R329 to R333) -/

/-- How a group's address is known: an entry of the cache or one found for this instruction, a page known bad, or neither
yet. -/
inductive Known where
  | hit (e : RangeEntry)
  | bad (code : Nat)
  | miss
deriving DecidableEq, Repr

def Dev.known (d : Dev) (st : Stage) (tile pitch cid va : Nat) : Known :=
  match d.cacheGet tile pitch cid va with
  | some e => .hit e
  | none => match st.ents.find? fun e => e.ent.covers va with
    | some e => .hit e.ent
    | none => match st.bad.find? fun b => b.1 == va / 0x10000 with
      | some b => .bad b.2
      | none => if (d.ctx cid).rtabCount = 0 then .bad 2 else .miss

/-- Does the target allow the access: the entry's right, and R253 for its region, on this device or another (R332). -/
def Dev.allowed (d : Dev) (i : TgInst) (e : RangeEntry) (va : Nat) : Bool :=
  let pa := d.direct (e.target va)
  let remoteAtom := i.op == 0x42 && !d.isLocal pa && !(fld i.mod_ 0 3 == 0 && fld i.mod_ 3 3 ≤ 1)
  i.right == 0 || (e.grants i.right && !remoteAtom &&
    groupAllows (regionOf (localOf pa)) i.right)

/-- Lanes of pieces that satisfy a predicate on the virtual address. -/
def badLanes (ps : List (Nat × Nat × Nat × Nat)) (f : Nat → Bool) : List (Nat × Nat) :=
  (ps.filter fun p => f p.2.2.2).map fun p => (p.1, p.2.2.2)

/-- Lanes named in CORE_FLT_LANES: those of the fault, every active lane for a scalar access. -/
def faultLanes (g : Group) (i : TgInst) (ls : List Nat) : List Nat := if i.ds then g.active else dedup ls

/-- Translation and checks of the instruction in the stage: a walk for the first unknown address; the fault that the
checks find; or the start of the operation. -/
def Dev.stageCheck (d : Dev) (c : Nat) (st : Stage) (g : Group) (i : TgInst) : Dev :=
  let tile := tileOf c
  let pitch := (d.pitchOfCore c).getD 64
  let slot := st.slot
  let mis := if i.op == 0x40 || i.op == 0x42 then
    (g.memLanes i).filter fun l => g.laneVa i l % i.accBytes != 0 else []
  let setSt (d : Dev) (s : Stage) : Dev := d.modCore c fun k => { k with stage := some s }
  if i.op == 0x44 && bit i.mod_ 0 then setSt d { st with op := some 0 }
  else if !mis.isEmpty then
    d.stageFault c slot 1 2 st.pc (faultLanes g i mis) ((mis.head?.map fun l => g.laneVa i l).getD 0)
  else
    let ps := g.pieces i
    match ps.find? fun p => d.known st tile pitch g.cid p.2.2.2 == .miss with
    | some p =>
      let (d, n) := d.startWalk c tile pitch g.cid p.2.2.2 (d.identOf c slot)
      -- entries found so far stay found, however many ranges the lanes lie in
      let hits := ps.filterMap fun p => match d.known st tile pitch g.cid p.2.2.2 with
        | .hit e => some ({ pitch := pitch, cid := g.cid, ent := e, used := 0 } : CacheEntry)
        | _ => none
      setSt d { st with walk := some n, ents := hits }
    | none =>
      let code (va : Nat) : Nat := match d.known st tile pitch g.cid va with
        | .bad k => k
        | .hit e => if d.allowed i e va then 0 else 3
        | .miss => 2
      let hint := i.op == 0x43 || i.op == 0x44
      let pick (k : Nat) : List (Nat × Nat) := badLanes ps fun va => code va == k
      let bad := if !(pick 4).isEmpty then (4, pick 4) else if !(pick 2).isEmpty then (2, pick 2) else (3, pick 3)
      if !hint && !bad.2.isEmpty then
        d.stageFault c slot bad.1 0 st.pc (faultLanes g i (bad.2.map fun x => x.1))
          ((bad.2.head?.map fun x => g.laneVa i x.1).getD 0)
      else
        let good := ps.filter fun p => code p.2.2.2 == 0
        let d := d.forEach good fun d p => d.cacheUse tile pitch g.cid p.2.2.2
        let ss := good.map fun p =>
          let x := match d.known st tile pitch g.cid p.2.2.2 with
            | .hit e => (d.direct (e.target p.2.2.2), e.gen)
            | _ => (0, 0)
          { lane := p.1, off := p.2.1, len := p.2.2.1, pa := x.1, gen := x.2 : LaneSeg }
        let (d, w) := d.watch pitch i.op ss
        match w with
        | some (n, ls) =>
          d.stageFault c slot 5 n st.pc (faultLanes g i ls) ((ls.head?.map fun l => g.laneVa i l).getD 0)
        | none =>
          let (d, id) := d.fresh
          let lines := dedup (ss.flatMap fun x => [x.pa / 128, (x.pa + x.len - 1) / 128])
          let rel := i.op == 0x41 && fld i.mod_ 4 2 == 2
          let d := setSt d { st with op := some id, segs := ss, ents := []
                                     rel := if rel then some (d.releaseSet c slot) else none
                                     left := if i.op == 0x42 && !lines.isEmpty then [0] else lines }
          if ss.isEmpty then d
          else
            let d := d.modGroup c slot fun g => g.busy i.dests
            match i.op with
            | 0x40 =>
              let acq := fld i.mod_ 4 2 == 1
              let spad := ss.all fun x => d.isLocal x.pa && (regionOf (localOf x.pa)).isSpad
              let op : LoadOp := { slot := slot, pc := st.pc, at_ := d.time, minLat := if spad then 10 else 8
                                   width := i.accBytes, signed := bit i.mod_ 3, acquire := acq, dest := i.d
                                   scalar := i.ds, lanes := ss.map fun x => (x.lane, x.pa) }
              (d.modCore c fun k => { k with loads := tset k.loads id op }).modGroup c slot fun g => { g with
                accs := g.accs ++ [{ id := id, kind := 0, gens := dedup (ss.map fun x => x.gen), op := id }]
                barriers := if acq then g.barriers ++ [.acquire id] else g.barriers }
            | 0x41 =>
              let d := d.modGroup c slot Group.noteStore
              if rel then d.drainAll c else d
            | _ => d

/-- One line of the instruction in the stage; false when it must wait. -/
def Dev.stageLine (d : Dev) (c slot id line : Nat) (i : TgInst) (pc : Nat) (ss : List LaneSeg)
    (rel : Option (List Nat × List Nat)) (ecc : EccObs) : Dev × Bool :=
  match d.group? c slot with
  | none => (d, true)
  | some g =>
    let need := segsInLine ss line
    match i.op with
    | 0x40 => d.loadLine c slot id line i need ecc
    | 0x41 => d.storeLine c slot line g i need rel ecc
    | 0x42 => d.atomIssue c slot id g i ss pc
    | 0x43 =>
      let local_ := d.isLocal (line * 128) && (regionOf (localOf (line * 128))).cached
      if !local_ then (d, true)
      else if bit i.mod_ 0 then ((d.coreSend c slot { kind := .read, addr := line * 128, org := .hint, gens := d.stageGens c }).1, true)
      else if d.readOut c line then (d, true)
      else
        let l := line % 2 ^ 37
        let miss := !((d.core c).l1.any fun x => x.line == l)
        let d := d.prefetchL1 c slot l
        (if miss then d.nextLine c slot l else d, true)
    | _ =>
      -- L1INV SCOPE 0 (R269)
      (if !d.isLocal (line * 128) then d else d.modCore c fun k => { k with
        l1 := k.l1.filter fun l => l.line != line % 2 ^ 37
        mregs := k.mregs.map fun r => if r.2.line == line % 2 ^ 37 then (r.1, { r.2 with cancelled := true }) else r },
        true)

/-- The lines still to be handled, in order, until one must wait. -/
def Dev.stageLines (d : Dev) (c slot id : Nat) (i : TgInst) (pc : Nat) (ss : List LaneSeg)
    (rel : Option (List Nat × List Nat)) (ecc : EccObs) : List Nat → Dev
  | [] =>
    let d := if i.op == 0x44 && bit i.mod_ 0 then d.modCore c Core.l1Clear else d
    let d := d.modCore c fun k => { k with stage := k.stage.map fun s => { s with left := [] } }
    (d.leaveStage c slot).finishLoad c id
  | l :: ls =>
    match d.stageLine c slot id l i pc ss rel ecc with
    | (d, true) => d.stageLines c slot id i pc ss rel ecc ls
    | (d, false) => d.modCore c fun k => { k with stage := k.stage.map fun s => { s with left := l :: ls } }

/-- Goes on with the instruction in the address stage as far as it can. -/
def Dev.stageGo (d : Dev) (c : Nat) (ecc : EccObs) : Dev :=
  match (d.core c).stage with
  | none => d
  | some st =>
    match d.group? c st.slot with
    | none => d.modCore c fun k => { k with stage := none }
    | some g =>
      if st.walk.isSome || !d.streamsRun g.cid then d else
      let i := parseTg st.word.toNat
      let d := if st.op.isNone then d.stageCheck c st g i else d
      match (d.core c).stage with
      | some { op := some id, left := left, segs := ss, rel := rel, .. } => d.stageLines c st.slot id i st.pc ss rel ecc left
      | _ => d

/-! ## Returns -/

/-- Bytes of an answered line for a load, by lane and offset. -/
def Dev.lineBytes (d : Dev) (c id : Nat) (line56 : Nat) (resp : List Byte) (ps : List Nat) :
    List (Nat × Nat × Byte × Bool) :=
  match lookup? (d.core c).loads id with
  | none => []
  | some op =>
    (op.lanes.flatMap fun l => ((List.range op.width).filter fun o => (l.2 + o) / 128 == line56).map fun o =>
      (l.1, o, (resp[(l.2 + o) % 128]?).getD 0, ps.contains ((l.2 + o) % 128 / 64))).filter fun x =>
        !(op.got.any fun y => y.1 == x.1 && y.2.1 == x.2.1)

/-- The least recently used line leaves for a fill (R259). -/
def Core.l1Install (k : Core) (l : L1Line) : Core :=
  let rest := k.l1.filter fun x => x.line != l.line
  let rest := if rest.length < 48 then rest
    else match minBy? (fun x => x.used) rest with
      | some v => rest.filter fun x => x.line != v.line
      | none => rest
  { k with l1 := rest ++ [l] }

/-- LOAD_DATA_RETURN (R262): a fill reaches every waiting load and is installed unless cancelled, with the core's own
later stores in place; a load that bypassed the L1 takes its bytes. -/
def Dev.loadReturn (d : Dev) (c tag : Nat) : Dev :=
  match d.req? tag with
  | none => d
  | some r =>
    if r.st != 2 then d else
    match r.org with
    | .fill c' n =>
      if c' != c then d else
      match lookup? (d.core c).mregs n with
      | none => d.delReq tag
      | some m =>
        if m.tag != tag then d.delReq tag else
        let line56 := r.addr / 128
        let d := d.forEach m.waiters fun d id => d.giveLoad c id (d.lineBytes c id line56 r.resp r.respPois)
        let d := d.modMem fun x => { x with stamp := x.stamp + 1 }
        let v := (LineView.mk r.resp (r.respPois.contains 0) (r.respPois.contains 1)).write m.overlay m.overlayMask
        let d := d.modCore c fun k =>
          let k := { k with mregs := tdel k.mregs n }
          if m.cancelled then k
          else k.l1Install { line := m.line, data := tabOfBytes v.data, pois0 := v.p0, pois1 := v.p1
                             used := d.mem.stamp }
        let d := d.delReq tag
        (d.forEach m.waiters fun d id => d.finishLoad c id).stageGo c .clean
    | .load c' id =>
      if c' != c then d else
      let d := d.giveLoad c id (d.lineBytes c id (r.addr / 128) r.resp r.respPois)
      let d := (d.modCore c fun k => { k with
        loads := tmodIf k.loads id fun op => { op with await := op.await.filter fun t => t != tag } }).delReq tag
      (d.finishLoad c id).stageGo c .clean
    | _ => d

/-! ## Fences (R304, R306) -/

/-- The conditions of a fence hold. -/
def Dev.fenceClear (d : Dev) (c : Nat) (g : Group) (kind : Nat) (accs wbs : List Nat) : Bool :=
  !(g.accs.any fun a => accs.contains a.id) && !((d.core c).wb.any fun w => wbs.contains w.id)
    && (kind == 0 || (d.ctx g.cid).carriedWrites == 0)

/-! ## The write buffer's own events -/

/-- The home has acknowledged an entry's write: it is freed, a younger entry of the line may go, and whatever waited
for it. -/
def Dev.wbAck (d : Dev) (c e : Nat) : Dev :=
  match (d.core c).wb.find? fun w => w.id == e with
  | none => d
  | some w =>
    let lost := (w.tag.bind fun t => d.req? t).any fun r => r.status == 3
    let d := if lost then d.noteLost c w.cid ((d.core c).accsOf e) (some e) else d
    let d := match w.tag with | some t => d.delReq t | none => d
    let d := d.modCore c fun k => { k with
      wb := k.wb.filter fun x => x.id != e
      slots := k.slots.map fun g => (g.1, { g.2 with accs := g.2.accs.filter fun a => a.wb != some e }) }
    let d := d.drainNext c w.line
    let ready := (d.core c).atoms.filter fun a => !a.2.sent && a.2.mark < 2 && d.atomClear c a.2
    (d.forEach ready fun d a => d.atomSend c a.1).stageGo c .clean

/-! ## Local flags (R171 to R174, R187) -/

/-- A flag as a FLGWAIT or WAITF sees it in this cc: a write of this cc is seen from the next on (R187). -/
def Dev.flagSeen (d : Dev) (c f : Nat) : W32 × Bool :=
  match lookup? (d.core c).flagPrev f with
  | some (t, v, p) => if t == d.time then (v, p) else d.flag c f
  | none => d.flag c f

/-! ## Scratchpad banks (R255 to R258) -/

/-- FLGSET waits for the group's earlier stores to the core's own scratchpad (R172). -/
def SpadReq.mayGo (r : SpadReq) (c : Nat) (before : List SpadReq) : Bool :=
  match r.kind with
  | .flgset slot _ _ _ _ _ => !(before.any fun x => match x.kind with
      | .store c' sl _ _ _ => c' == c && sl == slot
      | _ => false)
  | _ => true

/-- The request that the bank grants: the lowest class, and the oldest of it. -/
def Core.grant (k : Core) (c bank t : Nat) : Option SpadReq :=
  let q := k.spadQ.zipIdx.filter fun x => bankOfUnit x.1.unit == bank && x.1.mayGo c (k.spadQ.take x.2)
  minBy? (fun r => r.cls t) (q.map fun x => x.1)

/-- What is performed with a request: a DMA burst as a whole (R312). -/
def Core.burstOf (k : Core) (r : SpadReq) : List SpadReq :=
  match r.kind with
  | .write tag _ _ => k.spadQ.filter fun x => match x.kind with | .write t _ _ => t == tag | _ => false
  | _ => [r]

/-- The request's bank grants it in this cc (R257). -/
def Dev.bankGrants (d : Dev) (c : Nat) (r : SpadReq) : Bool :=
  let k := d.core c
  let b := bankOfUnit r.unit
  let cls := r.cls d.time
  k.grant c b d.time == some r && d.bankOk c b cls && !(k.bankWait.any fun w => w.asks b d.time
    && (agedClass w.since d.time < cls || (agedClass w.since d.time == cls && w.since < r.since)))

/-- One unit of a load is read at the bank. -/
def Dev.spadLoad (d : Dev) (tc src id unit : Nat) : Dev :=
  match lookup? (d.core src).loads id with
  | none => d
  | some op =>
    let base := spadAddr tc unit
    let xs := op.lanes.flatMap fun l => ((List.range op.width).filter fun o =>
        base ≤ localOf l.2 + o && localOf l.2 + o < base + 64).map fun o =>
      (l.1, o, byteAt d.mem.bytes (localOf l.2 + o), d.chunkPois (localOf l.2 + o))
    (d.giveLoad src id (xs.filter fun x => !(op.got.any fun y => y.1 == x.1 && y.2.1 == x.2.1))).finishLoad src id

/-- Writes bytes (offset in the unit) to a scratchpad, with the 32 B chunks that they poison. -/
def Dev.spadWrite (d : Dev) (tc unit : Nat) (bs : List (Nat × Byte)) (pois : List Nat) : Dev :=
  d.forEach [0, 1] fun d h =>
    let cb := (bs.filter fun b => b.1 / 32 == h).map fun b => (b.1 % 32, b.2)
    if cb.isEmpty then d else d.writeMem (spadAddr tc unit + 32 * h) cb (if pois.contains h then [0] else []) none none

/-- What an access sees of the SECDED codes of its unit (R256). -/
def Dev.spadEcc (d : Dev) (c unit : Nat) (ecc : EccObs) : Dev :=
  match ecc with
  | .corrected => (d.modCore c fun k => { k with spadCe := k.spadCe.bump 0xFFFF 1 d.time }).sramEvent c 1 true
  | .uncorrectable =>
    let (v, d) := d.takeFree
    ((d.setChunkPois (spadAddr c unit / 32 + v.toNat % 2) true).modCore c fun k =>
      { k with spadUe := k.spadUe.bump 0xFF 1 d.time }).sramEvent c 1 false
  | _ => d

end Sys2Proof.Machine
end

