-- ==== Sys2Proof/Machine/ThreadCmds.lean ====
section
/-!
DEFINITION. The commands of the thread groups' memory instructions and of what follows from them: each runs the shared
operations of ThreadMem and then settles what was sent to other devices.
-/

namespace Sys2Proof.Machine
open Sys2Proof

/-! ## What ends at once on its way to another device -/

/-- A request that is over goes to the unit that waits for it; a saved core's waits for CARRIED_REPLY. DMA descriptors
and repairs look at their requests themselves. -/
def Dev.completeReq (d : Dev) (tag : Nat) : Dev :=
  match d.req? tag with
  | none => d
  | some r =>
    if r.st != 2 then d
    else if r.orphan then d.dropOrphan tag
    else match r.org with
      | .fill c _ | .load c _ => if (d.core c).saved then d else d.loadReturn c tag
      | .drain c e => if (d.core c).saved then d else d.wbAck c e
      | .atom c id => if (d.core c).saved then d else d.atomReturn c id tag
      | .board | .hint => d.delReq tag
      | _ => d

/-- Completes requests that ended with REMOTE_LOST. -/
def Dev.finishLost (d : Dev) : Dev :=
  d.forEach ((d.mem.reqs.filter fun r => r.2.st == 2 && (r.2.status == 3 || r.2.orphan)).map fun r => r.1) Dev.completeReq

def Dev.settleN (d : Dev) : Nat → Dev
  | 0 => d
  | n + 1 => d.pump.finishLost.settleN n

/-- Hands requests for other devices to their ports, and completes those that ended at once. -/
def Dev.settle (d : Dev) : Dev := d.settleN 3

/-- A memory instruction that uses the address stage enters it. -/
def Dev.enterStage (d : Dev) (c slot op : Nat) (ecc : EccObs) : Dev :=
  (d.issueTg c slot op fun d g i =>
    (d.modCore c fun k => { k with stage := some { slot := slot, pc := g.pc, word := BitVec.ofNat 64 i.raw
                                                   until_ := d.time + max 1 (g.lineCount i) } }).stageGo c ecc).settle

def execLd (core slot : Nat) (ecc : EccObs) (s : State) := s.to (s.dev.enterStage core slot 0x40 ecc)

/-- ST: the slot comes with what a later drain of its bytes sees of their code in the write buffer (R267). -/
def execSt (core : Nat) (slot : Nat × EccObs) (s : State) := s.to (s.dev.enterStage core slot.1 0x41 slot.2)

def execAtom (core slot : Nat) (s : State) := s.to (s.dev.enterStage core slot 0x42 .clean)

def execPf (core slot : Nat) (s : State) := s.to (s.dev.enterStage core slot 0x43 .clean)

def execL1inv (core slot : Nat) (s : State) := s.to (s.dev.enterStage core slot 0x44 .clean)

def execLoadDataReturn (core tag : Nat) (s : State) :=
  s.to (if (s.dev.core core).saved then s.dev else (s.dev.loadReturn core tag).settle)

def execAtomReturn (core tag : Nat) (s : State) :=
  let d := s.dev
  s.to (
    if (d.core core).saved then d else
    match d.req? tag with
    | some r =>
      match r.org with
      | .atom c id =>
        if c != core || r.st != 2 then d
        else match lookup? (d.core core).atoms id with
          | some _ => ((d.atomReturn core id tag).stageGo core .clean).settle
          | none => d.delReq tag
      | _ => d
    | none => d)

/-- GROUP_LIVELOCK (R145, R152): raised as the access that brought the counter to 2^20 completes. -/
def execGroupLivelock (core slot : Nat) (s : State) :=
  let d := s.dev
  s.to (match d.group? core slot with
    | none => d
    | some g =>
      if !g.liveDue || g.halted then d
      else (d.modGroup core slot fun g => { g with liveDue := false }).groupFault core slot 6 0 g.livePc
        (laneMask (g.lastVals.map fun v => v.1)) 0)

def execFence (core slot : Nat) (s : State) :=
  s.to (s.dev.issueTg core slot 0x45 fun d g i =>
    let kind := i.mod_ % 4
    let accs := (g.accs.filter fun a => kind != 0 || a.kind != 1).map fun a => a.id
    let wbs := if kind = 0 then [] else (d.core core).wb.map fun w => w.id
    let d := if kind = 0 then d else d.drainAll core
    ((d.modGroup core slot fun g => { g with barriers := g.barriers ++ [.fence kind accs wbs] }).retire core slot i
      []).settle)

/-- FENCE_COMPLETE (R306): every fence of the group whose conditions hold. -/
def execFenceComplete (core slot : Nat) (s : State) :=
  let d := s.dev
  s.to (match d.group? core slot with
    | none => d
    | some g =>
      let done := g.barriers.filter fun b => match b with
        | .fence kind accs wbs => d.fenceClear core g kind accs wbs
        | _ => false
      let d := d.modGroup core slot fun g => { g with barriers := g.barriers.filter fun b => !done.contains b }
      if (done.any fun b => match b with | .fence kind _ _ => kind != 1 | _ => false) then d.modCore core Core.l1Clear else d)

/-- RELEASE_SEND (R304, R305): a release store or release atomic of the group whose conditions hold is sent. -/
def execReleaseSend (core slot : Nat) (s : State) :=
  let d := s.dev
  s.to (match d.group? core slot with
    | none => d
    | some g =>
      let k := d.core core
      let stores := k.wb.filter fun w => match w.release with
        | some (sl, accs, wbs) => sl == slot && w.tag.isNone && !(g.accs.any fun a => accs.contains a.id)
            && !(k.wb.any fun x => wbs.contains x.id) && (d.ctx g.cid).carriedWrites == 0
        | none => false
      let d := d.forEach stores fun d w =>
        (d.modCore core fun k => { k with
          wb := k.wb.map fun x => if x.id == w.id then { x with release := none } else x }).drainEntry core w.id
      let atoms := (d.core core).atoms.filter fun a => a.2.slot == slot && !a.2.sent && d.atomClear core a.2
      (d.forEach atoms fun d a => d.atomSend core a.1).settle)

/-- WB_ENTRY_TIMEOUT (R265, R267): 64 cc since the entry's last write. -/
def execWbEntryTimeout (core entry : Nat) (ecc : EccObs) (s : State) :=
  let d := s.dev
  s.to (match (d.core core).wb.find? fun w => w.id == entry with
    | none => d
    | some w =>
      if w.draining || w.release.isSome || d.time < w.lastWrite + 64 then d
      else
        let d := d.modCore core fun k =>
          { k with wb := k.wb.map fun x => if x.id == entry then x.upset ecc else x }
        (d.drainEntry core entry).settle)

/-- WB_DRAIN_ACK (R265, R301). -/
def execWbDrainAck (core entry : Nat) (s : State) :=
  let d := s.dev
  s.to (match (d.core core).wb.find? fun w => w.id == entry with
    | none => d
    | some w =>
      if (w.tag.bind fun t => d.req? t).any fun r => r.st == 2 then (d.wbAck core entry).settle else d)

/-- FLGSET (R171, R172) waits at its bank for the group's earlier stores to this scratchpad. -/
def execFlgset (core slot : Nat) (s : State) :=
  s.to (s.dev.issueTg core slot 0x48 fun d g i =>
    let (d, a) := d.fresh
    let f := i.imm16 % 64
    let q : SpadReq := { kind := .flgset slot a f (bit i.mod_ 0) (g.s i.b) (g.rdPois true i.b 0)
                         unit := flagOffset f / 64 * 64, own := true, since := d.time }
    ((d.addAcc core slot { id := a, kind := 1 }).spadPush core q).retire core slot i [])

/-- FLGWAIT (R173). -/
def execFlgwait (core slot : Nat) (s : State) :=
  s.to (s.dev.issueTg core slot 0x49 fun d g i =>
    d.modGroup core slot fun g' =>
      let g' : Group := { (g'.busy [.s i.d]) with barriers := g'.barriers ++ [.flgwait (i.imm16 % 64) (g.s i.b) i.d] }
      { (g'.goto (g'.pc + 8)) with fetchAt := d.time + 1 })

/-- FLGWAIT_SATISFIED (R173): the destination receives the flag's value, read at its bank (R257). -/
def execFlgwaitSatisfied (core : Nat) (at_ : Nat × EccObs) (s : State) :=
  let d := s.dev
  let slot := at_.1
  s.to (match d.group? core slot with
    | none => d
    | some g =>
      match g.barriers.find? (fun b => match b with | .flgwait _ _ _ => true | _ => false) with
      | some (.flgwait f th dest) =>
        let u := flagOffset f / 64 * 64
        if !d.bankOk core (bankOfUnit u) 6 then d
        else
        let d := (d.modCore core fun k => k.takeBank (bankOfUnit u) d.time).spadEcc core u at_.2
        let v := d.flagSeen core f
        if v.1.toNat < th.toNat then d
        else d.modGroup core slot fun g =>
          { ((g.wr { reg := .s dest, lane := 32, val := v.1, pois := v.2 }).ready [.s dest]) with
            barriers := g.barriers.filter fun b => b != .flgwait f th dest }
      | _ => d)

/-- FLGRD (R171) reads its flag at the bank. -/
def execFlgrd (core slot : Nat) (s : State) :=
  s.to (s.dev.issueTg core slot 0x4A fun d _ i =>
    let (d, id) := d.fresh
    let f := i.imm16 % 64
    let pa := d.ownId * 2 ^ 44 + spadAddr core (flagOffset f)
    let op : LoadOp := { slot := slot, pc := ((d.group? core slot).map fun g => g.pc).getD 0, at_ := d.time
                         minLat := 6, width := 4, signed := false, acquire := false, dest := i.d, scalar := true
                         lanes := [(0, pa)] }
    let d := d.modCore core fun k => { k with loads := tset k.loads id op }
    let d := d.spadPush core { kind := .load core id, unit := flagOffset f / 64 * 64, own := true, since := d.time }
    d.modGroup core slot fun g =>
      let g : Group := { (g.busy [.s i.d]) with accs := g.accs ++ [{ id := id, kind := 0 }] }
      { (g.goto (g.pc + 8)) with fetchAt := d.time + 1 })

/-- SCRATCHPAD_BANK_ACCESS (R257, R533): the bank's one grant of the cc; a burst goes when each of its banks grants it. -/
def execScratchpadBankAccess (core bank : Nat) (ecc : EccObs) (s : State) :=
  let d := s.dev
  let k := d.core core
  s.to (
    match k.grant core bank d.time with
    | none => d
    | some r =>
      let rs := k.burstOf r
      if !(rs.all fun x => d.bankGrants core x) then d
      else
        let d := d.endTest core
        let d := d.forEach rs fun d x => d.modCore core fun k =>
          { k.takeBank (bankOfUnit x.unit) d.time with spadQ := k.spadQ.erase x }
        let isRead := match r.kind with | .load _ _ => true | .flgset _ _ _ add _ _ => add | _ => false
        let d := if isRead then d.spadEcc core r.unit ecc else d
        let d := if r.own && r.since < d.time then
            d.count (d.pitchOfCore core) 0x1C (d.time - r.since) none else d
        match r.kind with
        | .load src id => d.spadLoad core src id r.unit
        | .store src slot acc bs pois =>
          ((d.spadWrite core r.unit bs pois).modGroup src slot fun g => g.perform acc).stageGo src .clean
        | .flgset slot acc f add v pois =>
          let old := d.flag core f
          let new := if add then old.1 + v else v
          let o := flagOffset f
          let bs := (withOffsets (leBytes 4 new.toNat)).map fun b => (o % 64 + b.1, b.2)
          let d := d.spadWrite core (o / 64 * 64) bs (if pois || (add && old.2) then [o % 64 / 32] else [])
          (d.modGroup core slot fun g => g.perform acc).stageGo core .clean
        | .write tag _ _ =>
          (d.forEach rs fun d x => match x.kind with
            | .write _ bs pois => d.spadWrite core x.unit bs pois
            | _ => d).answer tag [] [] [])



end Sys2Proof.Machine
end

