-- ==== Sys2Proof/Machine/Preempt.lean ====
section
/-!
DEFINITION. Pre-emption (R443 to R452): stopping and draining a pitch, writing and reading the records of its cores,
carried requests, and the move of a core's state to another core (R94, R112, R450).
-/

namespace Sys2Proof.Machine
open Sys2Proof

/-! ## Stopping a pitch (R444 steps 1 and 2) -/

/-- The DMA engines of a pitch: those of its quads and its hub engines (R389). -/
def Dev.enginesOf (d : Dev) (p : Nat) : List Nat := d.quadsOf p ++ (d.hubDmaOf p).map fun e => 64 + e

/-- A core's captures are skipped (R469). -/
def Core.skipCaptures (t : Nat) (k : Core) : Core :=
  { k with chkSkipped := k.chkSkipped.bump 0xFFFF k.captures.length t, captures := [] }

/-- Cores issue nothing more, write buffers are sent and engines stop after their chunk. -/
def Dev.stopPitch (d : Dev) (p : Nat) : Dev :=
  let d := d.forEach (d.coresOf p) fun d c =>
    ((d.endTest c).drainAll c).modCore c fun k => { (k.skipCaptures d.time) with saved := true, checking := false }
  d.forEach (d.enginesOf p) fun d e => d.modEngine e fun x => { x with paused := true }

/-- The pitch is stopped: saved, or being saved or restored. -/
def Dev.pitchStopped (d : Dev) (p : Nat) : Bool := (d.coresOf p).any fun c => (d.core c).saved

def Origin.readsFor (o : Origin) (c : Nat) : Bool :=
  match o with
  | .fill c' _ | .load c' _ | .atom c' _ => c' == c
  | _ => false

def SpadKind.ofCore (k : SpadKind) (home c : Nat) : Bool :=
  match k with
  | .load src _ | .store src _ _ _ _ => src == c
  | .flgset _ _ _ _ _ _ => home == c
  | .write _ _ _ => false

/-- R448: what must be performed within step 2 has been: loads, atomics and fills of stacked memory or a scratchpad. -/
def Dev.coreDrained (d : Dev) (c : Nat) : Bool :=
  !(d.mem.reqs.any fun r => r.2.org.readsFor c && r.2.dev.isNone && !(regionOf (localOf r.2.addr)).isBiv)
    && !(d.cores.any fun k => k.2.spadQ.any fun s => s.kind.ofCore k.1 c)
    -- a DMA chunk in progress reaches the scratchpad before it is saved (R444 step 1)
    && !((d.core c).spadQ.any fun s => match s.kind with | .write _ _ _ => true | _ => false)

def Dev.pitchDrained (d : Dev) (p : Nat) : Bool := (d.coresOf p).all d.coreDrained

/-! ## Carried requests (R448) -/

/-- A lane's prefix under R140: the operands of the lanes below it, combined; 0 for the lowest. -/
def atomPrefix (op typ : Nat) (below : List W64) : Nat :=
  match below with
  | [] => 0
  | x :: xs => xs.foldl (fun acc y => atomOp1 op typ acc y.toNat) x.toNat

/-- What a carried atomic's destination holds in a lane, none for f32 ADD. -/
def AtomOp.carriedVals (a : AtomOp) : List (Nat × W64) :=
  if a.op == 0 && a.typ == 4 then []
  else a.subs.flatMap fun s => s.lanes.zipIdx.map fun l =>
    (l.1.1, if a.op = 7 then (if l.2 = 0 then l.1.2.2 else l.1.2.1)
      else BitVec.ofNat 64 (atomPrefix a.op a.typ ((s.lanes.take l.2).map fun x => x.2.1)))

/-- Destination values of the carried requests of a core: the byte offset of a load's data in its line, or
`carriedVals`. -/
def Core.carryDests (k : Core) : Core :=
  let put (k : Core) (slot : Nat) (vs : List RegVal) : Core :=
    { k with slots := tmodIf k.slots slot fun g => g.wrAll vs }
  let k := k.loads.foldl (fun k l =>
    if l.2.await.isEmpty then k
    else put k l.2.slot (l.2.lanes.map fun x =>
      { reg := regRef l.2.scalar l.2.dest, lane := if l.2.scalar then 32 else x.1
        val := BitVec.ofNat 32 (x.2 % 128), pois := false })) k
  k.atoms.foldl (fun k a =>
    if a.2.await.isEmpty then k
    else put k a.2.slot (a.2.carriedVals.map fun x =>
      { reg := regRef a.2.scalar a.2.dest, lane := if a.2.scalar then 32 else x.1
        val := x.2.truncate 32, pois := false })) k

/-- The 8 B entry of a carried request at record offset 0x700. -/
def Core.carriedEntry (k : Core) (tag : Nat) : Nat :=
  match k.loads.find? fun l => l.2.await.contains tag with
  | some l =>
    let w := Nat.log2 (max 1 l.2.width)
    l.2.slot + 2 ^ 6 * l.2.dest + 2 ^ 12 * b2n l.2.scalar + 2 ^ 13 * w + 2 ^ 15 * b2n l.2.signed
      + 2 ^ 23 * maskOf (l.2.lanes.map fun x => x.1 % 32) + 2 ^ 55 * (tag % 512)
  | none =>
    match k.atoms.find? fun a => a.2.await.contains tag with
    | some a =>
      a.2.slot + 2 ^ 6 * a.2.dest + 2 ^ 12 * b2n a.2.scalar + 2 ^ 13 * (if atomBytes a.2.typ = 8 then 3 else 2)
        + 2 ^ 16 + 2 ^ 17 * a.2.op + 2 ^ 20 * a.2.succPred + 2 ^ 23 * maskOf (a.2.lanes.map fun x => x.1 % 32)
        + 2 ^ 55 * (tag % 512)
    | none => 2 ^ 55 * (tag % 512)

/-- Loads and atomics still outstanding are carried; entries whose write is not acknowledged are counted against
their context and leave the write buffer; results in flight are written; the L1 is emptied. -/
def Dev.carryCore (d : Dev) (c : Nat) : Dev :=
  let tags := (d.mem.reqs.filter fun r => r.2.org.readsFor c).map fun r => r.1
  let sent := (d.core c).wb.filter fun w => w.tag.isSome
  let d := d.forEach sent fun d w => d.modCtx w.cid fun x => { x with carriedWrites := x.carriedWrites + 1 }
  d.modCore c fun k =>
    let k : Core := { k.l1Clear with
      wb := k.wb.filter fun w => w.tag.isNone
      carried := tags ++ sent.filterMap fun w => w.tag
      slots := k.slots.map fun (g : Nat × Group) => (g.1, { (g.2.pend.foldl (fun g p => (g.wrAll p.vals).ready p.dests) g.2) with
        pend := [], accs := g.2.accs.filter fun a => !(sent.any fun w => a.wb == some w.id) }) }
    k.carryDests

/-! ## The record (R446) -/

def Dev.recByte (d : Dev) (p l off : Nat) : Byte := ((d.readMem (d.recordAddr p l off) 1)[0]?).getD 0
def Dev.recNat (d : Dev) (p l off n : Nat) : Nat := leNat ((List.range n).map fun i => d.recByte p l (off + i))

/-- Poison of the 64 B unit of the record that holds an offset (R447). -/
def Dev.recPois (d : Dev) (p l off : Nat) : Bool := d.readPois (d.recordAddr p l (off / 64 * 64)) 64

/-- Writes bytes of a record, poisoning the 64 B units that they touch if asked. -/
def Dev.recPut (d : Dev) (p l off : Nat) (bs : List Byte) (pois : Bool) : Dev :=
  let d := d.modMem fun m => { m with
    bytes := bs.zipIdx.foldl (fun t b => setByte t (d.recordAddr p l (off + b.2)) b.1) m.bytes }
  if pois then d.forEach bs.zipIdx fun d b => d.setSecPois (d.recordAddr p l (off + b.2) / 64) true else d

/-- A record's parts that hold nothing read 0 and unpoisoned; canopy copies of its lines are gone. -/
def Dev.recClear (d : Dev) (p l : Nat) : Dev :=
  d.forEach (List.range 1267) fun d i => d.zeroStacked (d.recordAddr p l (2048 * i)) 2048

/-- Bytes whose layout the manual does not give (log 19). -/
def Dev.recFree (d : Dev) (p l off n : Nat) : Dev :=
  d.forEach (List.range (n / 8)) fun d i =>
    let (v, d) := d.takeFree
    d.recPut p l (off + 8 * i) (leBytes 8 v.toNat) false

/-- Offset of register `t n`'s lane, of a scalar, and of a lane's predicates, in a slot's 8,352 B. -/
def recSlot (slot : Nat) : Nat := 0x17900 + 8352 * slot
def recT (slot n lane : Nat) : Nat := recSlot slot + 128 * n + 4 * lane
def recS (slot n : Nat) : Nat := recSlot slot + 8192 + 4 * n
def recP (slot lane : Nat) : Nat := recSlot slot + 8320 + lane

def Dev.saveGroup (d : Dev) (p l slot : Nat) (g : Group) : Dev :=
  let d := d.forEach g.treg fun d r => d.recPut p l (recT slot 0 0 + 4 * r.1) (leBytes 4 r.2.toNat) false
  let d := d.forEach g.tpois fun d r => if r.2 then d.recPut p l (recT slot 0 0 + 4 * r.1)
    (leBytes 4 (tget 0 g.treg r.1).toNat) true else d
  let d := d.forEach (List.range 32) fun d n =>
    d.recPut p l (recS slot n) (leBytes 4 (g.s n).toNat) (tget false g.spois n)
  let d := d.forEach (List.range 32) fun d lane =>
    d.recPut p l (recP slot lane) [BitVec.ofNat 8 (maskOf ((List.range 8).filter fun n => g.p n lane))]
      ((List.range 7).any fun n => g.pPois n lane)
  d.forEach g.stack.reverse.zipIdx fun d e =>
    d.recPut p l (0x1000 + 256 * slot + 8 * e.2)
      (leBytes 4 e.1.mask.toNat ++ leBytes 2 e.1.pc ++ leBytes 2 e.1.rpc) false

/-- The stationary buffer's stored row (R200, R446). -/
def Block.rowBytes (b : Block) (c : Nat) : List Byte :=
  if b.fmt = 15 then []
  else packRow b.fmt ((List.range (rowElems b.fmt)).map fun j => (tget 0 b.elems (128 * c + j)).toNat)

/-- The save or the restore has every bank of the scratchpad in its cc (class 1 of R257). -/
def Core.takeBanks (k : Core) (t : Nat) : Core := { k with bankAt := (List.range 16).map fun b => (b, t) }

/-- R444 step 3: the core's record is written. -/
def Dev.saveCore (d : Dev) (p l c : Nat) : Dev :=
  let k := d.core c
  let d := (d.modCore c fun k => k.takeBanks d.time).recClear p l
  let d := d.recFree p l 0 0x700
  let d := d.forEach (k.carried.take 32).zipIdx fun d t =>
    d.recPut p l (0x700 + 8 * t.2) (leBytes 8 (k.carriedEntry t.1)) false
  let d := d.forEach k.readyAc fun d r => d.recPut p l (0x800 + 8 * r.1) (leBytes 8 r.2) false
  let d := d.recFree p l 0x4000 6144
  let d := d.forEach (List.range 64) fun d r => d.recPut p l (0x5800 + 128 * r) (k.block.rowBytes r) false
  let d := d.forEach k.block.scales fun d s => d.recPut p l (0x7800 + s.1) [s.2] false
  let d := d.forEach k.tiles fun d t =>
    d.recPut p l (0x7900 + 256 * t.1) ((List.range 64).flatMap fun j => leBytes 4 (tget 0 t.2.vals j).toNat) t.2.pois
  let d := d.forEach k.slots fun d g => d.saveGroup p l g.1 g.2
  d.forEach (List.range 32768) fun d u =>
    let a := spadAddr c (64 * u)
    d.recPut p l (0x79700 + 64 * u) (d.rawBytes a 64) (d.anyPois a 64)

/-- Carries what is outstanding and writes every record of a pitch. -/
def Dev.writeRecords (d : Dev) (p : Nat) : Dev :=
  (d.modPlan fun x => { x with recGrans := tset x.recGrans p (d.gransOf p) }).forEach (d.coresOf p).zipIdx fun d c => (d.carryCore c.1).saveCore p c.2 c.1

def Dev.restoreGroup (d : Dev) (p l slot : Nat) (g : Group) : Group :=
  let g := (List.range 64).foldl (fun g n => (List.range 32).foldl (fun (g : Group) lane =>
    g.wr { reg := .t n, lane := lane, val := BitVec.ofNat 32 (d.recNat p l (recT slot n lane) 4)
           pois := d.recPois p l (recT slot n lane) }) g) g
  let g := (List.range 32).foldl (fun (g : Group) n =>
    g.wr { reg := .s n, lane := 32, val := BitVec.ofNat 32 (d.recNat p l (recS slot n) 4)
           pois := d.recPois p l (recS slot n) }) g
  let g := (List.range 32).foldl (fun g lane => (List.range 7).foldl (fun (g : Group) n =>
    g.wr { reg := .p n, lane := lane, val := if bit (d.recNat p l (recP slot lane) 1) n then 1 else 0
           pois := d.recPois p l (recP slot lane) }) g) g
  let stack := g.stack.reverse.zipIdx.map (fun e =>
    let o := 0x1000 + 256 * slot + 8 * e.2
    ({ mask := BitVec.ofNat 32 (d.recNat p l o 4), pc := d.recNat p l (o + 4) 2, rpc := d.recNat p l (o + 6) 2 } :
      StackEntry)) |>.reverse
  { g with stack := stack }

/-- R450: reads a record back and releases the SAVE freeze. -/
def Dev.restoreCore (d : Dev) (p l c : Nat) : Dev :=
  let d := d.endTest c
  let d0 := d
  let d := d.modCore c fun k =>
    let fmt := k.block.fmt
    let elems := if fmt = 15 then [] else (List.range 64).flatMap fun r =>
      (unpackRow fmt (rowElems fmt) ((List.range 128).map fun i => d0.recByte p l (0x5800 + 128 * r + i))).zipIdx.map
        fun e => (128 * r + e.2, e.1)
    let tiles := (List.range 256).map fun r =>
      let old := tget {} k.tiles r
      let vals := (List.range 64).foldl (fun t j =>
        tput 0 t j (BitVec.ofNat 32 (d0.recNat p l (0x7900 + 256 * r + 4 * j) 4))) []
      (r, { old with vals := vals, pois := (List.range 4).any fun u => d0.recPois p l (0x7900 + 256 * r + 64 * u) })
    { (k.takeBanks d0.time).l1Clear with
      saved := false
      readyAc := (List.range 256).foldl (fun t r => tput 0 t r (d0.recNat p l (0x800 + 8 * r) 8)) []
      block := { k.block with
        elems := elems.filter fun e => e.2 != 0
        scales := (List.range 256).foldl (fun t s => tput 0 t s (d0.recByte p l (0x7800 + s))) [] }
      tiles := tiles.filter fun t => decide (t.2 ≠ ({} : TileRow))
      slots := k.slots.map fun g => (g.1, d0.restoreGroup p l g.1 g.2) }
  d.forEach (List.range 32768) fun d u =>
    let a := spadAddr c (64 * u)
    let pois := d0.recPois p l (0x79700 + 64 * u)
    let d := d.modMem fun m => { m with
      bytes := setBytes m.bytes a ((List.range 64).map fun i => d0.recByte p l (0x79700 + 64 * u + i)) }
    (d.setChunkPois (a / 32) pois).setChunkPois (a / 32 + 1) pois

/-- R450: every record of a pitch is read back onto the cores that hold its logical numbers; its engines go on. -/
def Dev.restorePitch (d : Dev) (p : Nat) : Dev :=
  let d := d.forEach (d.coresOf p).zipIdx fun d c => d.restoreCore p c.2 c.1
  let d := d.modPlan fun x => { x with recGrans := tdel x.recGrans p }
  let held := d.board.descs.filterMap fun x => if x.2.pitch == p then some x.2.engine else none
  d.forEach (d.enginesOf p ++ held) fun d e => d.modEngine e fun x => { x with paused := false }

/-! ## A core's state moves to another core (R94, R112, R450) -/

/-- What belongs to the logical core and not to the physical one. -/
def Core.takeOver (mine theirs : Core) : Core :=
  { mine with
    slots := theirs.slots, waiting := theirs.waiting, ageNext := theirs.ageNext, stage := theirs.stage
    loads := theirs.loads, atoms := theirs.atoms, mregs := theirs.mregs, wb := theirs.wb, seq := theirs.seq
    block := theirs.block, tiles := theirs.tiles, readyAc := theirs.readyAc, prevCid := theirs.prevCid
    progQueue := theirs.progQueue, carried := theirs.carried, saved := theirs.saved
    locked := theirs.locked, touched := theirs.touched, touchNow := theirs.touchNow }

def Origin.renumber (f : Nat → Nat) (o : Origin) : Origin :=
  match o with
  | .fill c n => .fill (f c) n
  | .load c n => .load (f c) n
  | .drain c n => .drain (f c) n
  | .atom c n => .atom (f c) n
  | x => x

/-- Words of instruction memory; one that reads poisoned is copied as an unassigned encoding (R450). -/
def Dev.copyImem (d0 d : Dev) (src dst : Nat) : Dev :=
  d.forEach (List.range 8192) fun d i =>
    let a := imemAddr src (8 * i)
    let w := if d0.chunkPois a then leBytes 8 unassignedWord else d0.rawBytes a 8
    d.modMem fun m => { m with bytes := setBytes m.bytes (imemAddr dst (8 * i)) w }

/-- Where `moves` brings a core or an engine. -/
def moved (moves : List (Nat × Nat)) (c : Nat) : Nat := (moves.find? fun m => m.1 == c).elim c fun m => m.2

/-- Moves the state of cores from `d0` as `moves` lists them: old core, new core. -/
def Dev.moveCores (d0 d : Dev) (moves : List (Nat × Nat)) : Dev :=
  let f := moved moves
  let d := d.forEach moves fun d m => d0.copyImem (d.setCore m.2 ((d.core m.2).takeOver (d0.core m.1))) m.1 m.2
  let d := d.modMem fun m => { m with reqs := m.reqs.map fun r => (r.1, { r.2 with org := r.2.org.renumber f }) }
  d.modXl fun x => { x with walks := x.walks.map fun w => (w.1, { w.2 with core := f w.2.core }) }

/-- A code load goes on into the core that has taken the place of its own. -/
def Desc.forCores (moves : List (Nat × Nat)) (x : Desc) : Desc :=
  if x.kind != 2 then x
  else { x with
    banks := x.banks.map fun b => (moved moves b.1, b.2)
    dst := x.dst.map fun s => match regionOf (localOf s.pa) with
      | .imem c => { s with pa := s.pa + imemAddr (moved moves c) 0 - imemAddr c 0 }
      | _ => s }

/-- Descriptors go over to the engines that have the places of their own (R389, R449): `ems` lists old and new engines,
`cms` cores. DESIGN CHOICE (log 177): the epochs of R417 stay with the engine that sends. -/
def Dev.moveEngines (d0 d : Dev) (ems cms : List (Nat × Nat)) : Dev :=
  let d := d.forEach ems fun d m => d.modEngine m.1 fun e => { e with queue := [], cur := none }
  let d := d.forEach ems fun d m => d.modEngine m.2 fun e => { e with
    queue := (d0.engine m.1).queue, cur := (d0.engine m.1).cur }
  d.modBoard fun b => { b with descs := b.descs.map fun x => (x.1, { (x.2.forCores cms) with engine := moved ems x.2.engine }) }

/-- An engine works unless its pitch, or that of a descriptor that it holds, is stopped. -/
def Dev.pauseEngine (d : Dev) (e : Nat) : Dev :=
  let stopped := (d.pitchOfEngine e).any d.pitchStopped
    || d.board.descs.any fun x => x.2.engine == e && d.pitchStopped x.2.pitch
  d.modEngine e fun x => { x with paused := stopped }

/-! ## The commands -/

/-- A pitch that a running commit changes (R451). -/
def Dev.commitChanges (d : Dev) (p : Nat) : Bool := d.plan.commit.any fun c => c.changed.contains p

/-- Completes a SAVE or RESTORE at once with CODE 0x02: the pitch is already as asked (R452). -/
def Dev.preAlready (d : Dev) (save : Bool) (p : Nat) : Bool := d.pitchSaved p == save

/-- A SAVE or RESTORE starts (R444, R450). -/
def Dev.startPre (d : Dev) (save : Bool) (p : Nat) : Dev :=
  if d.preAlready save p then
    (d.modHost fun h => { h with preCode := 2, preBusy := none, preElapsed := 0 })
  else
    let d := d.modHost fun h => { h with preBusy := some (save, p, d.time) }
    if save then (d.stopPitch p).settle else d

/-- A write to CTX_PRE_CTL (R452): only by the PF, while the pitch is unlocked and nothing runs. A reserved OP is
shared by both commands' writes and is taken by PITCH_SAVE. -/
def Dev.preCtl (d : Dev) (fn : Fn) (v : W32) (op : Nat) : Dev :=
  let p := fld v.toNat 0 6
  let o := fld v.toNat 30 2
  let mine := o == op || (op == 1 && o != 2)
  if !d.reach fn || !isPf fn || !mine || d.host.preBusy.isSome || d.host.preWaiting.isSome || !d.unlocked p then d
  else if o != op || !d.pitchValid p then d.modHost fun h => { h with preCode := 1, preElapsed := 0 }
  else if d.commitChanges p then d.modHost fun h => { h with preWaiting := some (op == 1, p) }
  else d.startPre (op == 1) p

def execPitchSave (fn : Fn) (v : W32) (s : State) := s.to (s.dev.preCtl fn v 1)

def execPitchRestore (fn : Fn) (v : W32) (s : State) := s.to (s.dev.preCtl fn v 2)

/-- The bookkeeping of CTX_PRE_STAT and CTX_PRE_SAVED at the end of a SAVE or RESTORE. -/
def HostIf.endPre (h : HostIf) (save : Bool) (p t0 t : Nat) : HostIf :=
  { h with preBusy := none, preCode := 0, preElapsed := satAdd 0xFFFF 0 (usOf (t - t0))
           preSaved := if save then h.preSaved ||| ((1 : BitVec 64) <<< p) else h.preSaved &&& ~~~((1 : BitVec 64) <<< p) }

/-- SAVE_COMPLETE (R444): what had to drain has drained, and the records are written. -/
def execSaveComplete (s : State) :=
  let d := s.dev
  s.to (match d.host.preBusy with
    | some (true, p, t0) =>
      if d.pitchDrained p then (d.writeRecords p).modHost fun h => h.endPre true p t0 d.time else d
    | _ => d)

/-- RESTORE_COMPLETE (R450). -/
def execRestoreComplete (s : State) :=
  let d := s.dev
  s.to (match d.host.preBusy with
    | some (false, p, t0) => (d.restorePitch p).modHost fun h => h.endPre false p t0 d.time
    | _ => d)

/-- A counted write that ends with REMOTE_LOST faults a context that stands at a release point (R318, R448). -/
def Dev.carriedLost (d : Dev) (c cid : Nat) : Dev :=
  let waits := d.cores.any fun k => k.2.slots.any fun g => g.2.cid == cid &&
    (g.2.stack.isEmpty || (g.2.barriers.any fun b => match b with | .fence kind _ _ => kind != 0 | _ => false)
      || (k.2.wb.any fun w => w.slot == g.1 && w.release.isSome) || (k.2.atoms.any fun a => a.2.slot == g.1 && !a.2.sent))
  let d := d.modCore c fun k => { k with lost := k.lost.bump 0xFF 1 d.time }
  if waits && (d.ctx cid).live then d.ctxFaultOn c cid 0x0A else d

/-- The registers of a slot that an access filled are written into the record of a saved core (R448). -/
def Dev.recordSlot (d : Dev) (c slot : Nat) (refs : List RegRef) : Dev :=
  match d.pitchOfCore c, d.group? c slot with
  | some p, some g =>
    match d.logicalOf p c with
    | none => d
    | some l => d.forEach refs fun d r =>
      match r with
      | .t n => d.forEach (List.range 32) fun d lane =>
        d.recPut p l (recT slot n lane) (leBytes 4 (g.t n lane).toNat) (g.rdPois false n lane)
      | .s n => d.recPut p l (recS slot n) (leBytes 4 (g.s n).toNat) (g.rdPois true n 0)
      | .p _ => d.forEach (List.range 32) fun d lane =>
        d.recPut p l (recP slot lane) [BitVec.ofNat 8 (maskOf ((List.range 8).filter fun m => g.p m lane))]
          ((List.range 7).any fun m => g.pPois m lane)
  | _, _ => d

/-- Slot and destination registers that wait for a request of a core. -/
def Core.awaiting (k : Core) (tag : Nat) : List (Nat × List RegRef) :=
  let fillers := k.mregs.flatMap fun m => if m.2.tag == tag then m.2.waiters else []
  ((k.loads.filter fun l => l.2.await.contains tag || fillers.contains l.1).map fun l =>
      (l.2.slot, [regRef l.2.scalar l.2.dest, regRef l.2.scalar (l.2.dest + 1)]))
    ++ ((k.atoms.filter fun a => a.2.await.contains tag).map fun a =>
      (a.2.slot, [regRef a.2.scalar a.2.dest, regRef a.2.scalar (a.2.dest + 1), .p a.2.succPred]))

/-- CARRIED_REPLY (R448). -/
def execCarriedReply (core tag : Nat) (s : State) :=
  let d := s.dev
  s.to (match d.req? tag with
    | none => d
    | some r =>
      if r.st != 2 || !(d.core core).carried.contains tag then d
      else
        let slots := (d.core core).awaiting tag
        let saved := (d.core core).saved
        let d := d.modCore core fun k => { k with carried := k.carried.filter fun t => t != tag }
        match r.org with
        | .drain _ _ =>
          let cid := r.cid.getD 0
          let d := (d.delReq tag).modCtx cid fun x => { x with carriedWrites := x.carriedWrites - 1 }
          let d := if saved then d else d.drainNext core (r.addr / 128)
          (if r.status == 3 then d.carriedLost core cid else d).settle
        | .atom _ id =>
          let d := d.atomReturn core id tag
          (if saved then d.forEach slots fun d x => d.recordSlot core x.1 x.2 else d).settle
        | _ =>
          let d := d.loadReturn core tag
          let d := d.modCore core fun k => { k with slots := k.slots.map fun g =>
            if saved then (g.1, { (g.2.pend.foldl (fun g p => (g.wrAll p.vals).ready p.dests) g.2) with pend := [] })
            else g }
          (if saved then d.forEach slots fun d x => d.recordSlot core x.1 x.2 else d).settle)

end Sys2Proof.Machine
end

