-- ==== Sys2Proof/Machine/Verify.lean ====
section
/-!
DEFINITION. Key pairs, signatures and measurement slots (R68, R72, R482, R484), shared by start-up, site plans, pattern
packs and debug tokens.
-/

namespace Sys2Proof.Machine
open Sys2Proof

/-- A revoked key pair; numbers above 3 name none. -/
def Dev.pairBad (d : Dev) (pair : Nat) : Bool := pair > 3 || d.boot.revoked.getLsbD pair

/-- Entry of a manifest (R67): the RSA key (388 B) and the SLH-DSA key (48 B). -/
def rsaKeyOf (manifest : List Byte) (pair : Nat) : List Byte := (manifest.drop (512 * pair)).take 388
def slhKeyOf (manifest : List Byte) (pair : Nat) : List Byte := (manifest.drop (512 * pair + 388)).take 48

/-- Checks 5 and 6 of R68 under the running image's manifest: the first that fails, 5 or 6, or none. -/
def Dev.sigFails (d : Dev) (pair : Nat) (msg sigRsa sigSlh : List Byte) : Option Nat :=
  if !Config.rsaVerify (rsaKeyOf d.boot.image.manifest pair) msg sigRsa then some 5
  else if !Config.slhVerify (slhKeyOf d.boot.image.manifest pair) msg sigSlh then some 6
  else none

def Dev.meas (d : Dev) (i : Nat) : BitVec 384 := tget 0 d.boot.meas i

/-- M ← SHA-384(M ‖ d) (R72). -/
def Dev.extend (d : Dev) (i : Nat) (digest : BitVec 384) : Dev :=
  d.modBoot fun b => { b with
    meas := tset b.meas i (Config.sha384 (leBytes 48 (d.meas i).toNat ++ leBytes 48 digest.toNat)) }

/-- The eight slots in order, as an attestation reports them. -/
def Dev.measBytes (d : Dev) (i : Nat) : List Byte := leBytes 48 (d.meas i).toNat

end Sys2Proof.Machine
end

