-- ==== Sys2Proof/Machine/PlanCheck.lean ====
section
/-!
DEFINITION. The consistency checks of a site plan (R90 to R106, R113), the replacement of retired quads (R112) and the
pitches that a plan changes (R109).
-/

namespace Sys2Proof.Machine
open Sys2Proof

def planLen : Nat := 0x7DE0

def planBytes (pl : Tab Byte) : List Byte := (List.range planLen).map fun o => tget 0 pl o
def planSlice (pl : Tab Byte) (o n : Nat) : List Byte := (List.range n).map fun i => tget 0 pl (o + i)

/-- TYPE, header place and LEN of section s (R92). -/
def planSection (s : Nat) : Nat × Nat :=
  match s with
  | 0 => (0x0100, 4096) | 1 => (0x1110, 128) | 2 => (0x11A0, 256) | 3 => (0x12B0, 768)
  | 4 => (0x15C0, 8192) | 5 => (0x35D0, 784) | _ => (0x38F0, 1024)

/-! ## Phase A -/

/-- Bits of a byte that are reserved where the byte stands (R90 to R106); a VALID 0 PITCH record is all reserved but
its VALID bit. -/
def rsvdMask (pl : Tab Byte) (o : Nat) : Nat :=
  if o = 7 || (0x20 ≤ o && o < 0x100) then 0xFF
  else if (List.range 7).any fun s => (planSection s).1 + 8 ≤ o && o < (planSection s).1 + 16 then 0xFF
  else if 0x110 ≤ o && o < 0x1110 then
    let r := (o - 0x110) % 64
    if !planValid pl ((o - 0x110) / 64) then (if r = 0 then 0xFE else 0xFF)
    else if r = 0 then 0xFE else if r = 1 then 0 else if r = 2 then 0xFC else if r = 3 then 0xF0
    else if 8 ≤ r && r < 16 then 0 else 0xFF
  else if 0x15D0 ≤ o && o < 0x35D0 then (if o % 2 = 1 then 0x7E else 0)
  else if 0x35E0 + 780 ≤ o && o < 0x35E0 + 784 then 0xFF
  else if 0x3900 ≤ o && o < 0x3D00 then (if 4 ≤ o % 8 then 0xFF else 0)
  else 0

def rsvdBad (pl : Tab Byte) (o : Nat) : Bool := planByte pl o &&& rsvdMask pl o != 0

/-- Codes 0x01 to 0x0B: the lowest that fails, with INDEX. -/
def Dev.planPhaseA (d : Dev) (pl : Tab Byte) : Option (Nat × Nat) :=
  let pair := planByte pl 6
  let target := planNat pl 8 2
  let msg := planSlice pl 0 0x3D00
  let sig := d.sigFails pair msg (planSlice pl 0x3D00 384) (planSlice pl 0x3E80 16224)
  if planNat pl 0 4 != 0x53504C31 then some (0x01, 0)
  else if planNat pl 4 2 != 1 then some (0x02, 0)
  else if planNat pl 0x0A 2 != 7 || planNat pl 0x0C 4 != 0x3D00 then some (0x03, 0)
  else if target != 0xFFF && !(d.chain.idValid && target == d.chain.devId.toNat) then some (0x04, 0)
  else if d.pairBad pair then some (0x05, pair)
  else if sig == some 5 then some (0x06, 0)
  else if sig == some 6 then some (0x07, 0)
  else match (List.range 0x3D00).find? (rsvdBad pl) with
    | some o => some (0x08, o / 16)
    | none =>
      match (List.range 7).find? fun s => planNat pl (planSection s).1 4 != s + 1 with
      | some s => some (0x09, s)
      | none =>
        match (List.range 7).find? fun s => planNat pl ((planSection s).1 + 4) 4 == 0 with
        | some s => some (0x0A, s)
        | none =>
          ((List.range 7).find? fun s => planNat pl ((planSection s).1 + 4) 4 != (planSection s).2).map fun s => (0x0B, s)

/-! ## Retired quads (R112) -/

def Dev.quadRetired (d : Dev) (q : Nat) : Bool := (d.core (4 * q)).health == 2

def putNat (pl : Tab Byte) (o n v : Nat) : Tab Byte :=
  (leBytes n v).zipIdx.foldl (fun t b => tput 0 t (o + b.2) b.1) pl

/-- The spare that replaces a retired quad: the lowest on its tile that SPARE names and that is not RETIRED. -/
def Dev.spareFor (d : Dev) (pl : Tab Byte) (q : Nat) : Option Nat :=
  (bitsOf 64 (planSpare pl)).find? fun s => tileOfQuad s == tileOfQuad q && !d.quadRetired s

/-- Replaces quad `q` of pitch `p` by `s` in a plan's bytes. -/
def planReplace (pl : Tab Byte) (p q s : Nat) : Tab Byte :=
  putNat (putNat pl (0x110 + 64 * p + 8) 8 (planQuads pl p - 2 ^ q + 2 ^ s)) 0x18 8 (planSpare pl - 2 ^ s)

/-- The plan with every retired quad of a pitch replaced, the quads in logical order, and what was replaced (pitch,
old, new); or the quad for which there is no spare. -/
def Dev.replaceRetired (d : Dev) (pl : Tab Byte) (order : Tab (List Nat)) :
    List (Nat × Nat) → Sum (Tab Byte × Tab (List Nat) × List (Nat × Nat × Nat)) Nat
  | [] => .inl (pl, order, [])
  | (p, q) :: rest =>
    match d.spareFor pl q with
    | none => .inr q
    | some s =>
      let order := tset order p ((tget [] order p).map fun x => if x == q then s else x)
      match d.replaceRetired (planReplace pl p q s) order rest with
      | .inl (pl, order, rs) => .inl (pl, order, (p, q, s) :: rs)
      | .inr q => .inr q

/-- Retired quads that a plan names in a pitch, in ascending number. -/
def Dev.retiredIn (d : Dev) (pl : Tab Byte) : List (Nat × Nat) :=
  (List.range 64).flatMap fun q =>
    if d.quadRetired q then ((planPitches pl).filter fun p => bit (planQuads pl p) q).map fun p => (p, q) else []

/-- Logical order of a plan's quads: ascending (R94), or the running order where the same plan is re-committed. -/
def planOrder (pl : Tab Byte) : Tab (List Nat) := (planPitches pl).map fun p => (p, bitsOf 64 (planQuads pl p))

/-! ## Phase B: single checks -/

/-- R102: tiles of a pitch's footprint. -/
def Dev.footprint (d : Dev) (pl : Tab Byte) (p : Nat) : List Nat :=
  (List.range 4).filter fun t =>
    ((bitsOf 64 (planQuads pl p)).any fun q => tileOfQuad q == t)
      || ((List.range 32).any fun w => d.wayEnabled t w && planWay pl t w == p)
      || ((List.range 64).any fun g => planGran pl (64 * t + g) == p)

/-- Bridges between two tiles, and the tile in between (R102). -/
def pathBetween (a b : Nat) : List Nat × List Nat :=
  match (min a b, max a b) with
  | (0, 1) => ([0], [])
  | (2, 3) => ([1], [])
  | (0, 2) => ([2], [])
  | (1, 3) => ([3], [])
  | (0, 3) => ([0, 3], [1])
  | (1, 2) => ([0, 2], [0])
  | _ => ([], [])

/-- NoC tables in which a pitch must appear: 0 to 3 meshes, 4 + b bridges. -/
def Dev.tablesOf (d : Dev) (pl : Tab Byte) (p : Nat) : List Nat :=
  let f := d.footprint pl p
  let ps := f.flatMap fun a => f.map fun b => pathBetween a b
  dedup (f ++ (ps.flatMap fun x => x.2) ++ (f.map fun t => 8 + t) ++ ((ps.flatMap fun x => x.1).map fun b => 4 + b))

def slotAppears (pl : Tab Byte) (b p : Nat) : Bool := (List.range 64).any fun e => planSlot pl b e == p

/-- Every entry of the pitch is followed by another within 16 entries. -/
def slotGapsOk (pl : Tab Byte) (b p : Nat) : Bool :=
  (List.range 64).all fun e => planSlot pl b e != p || (List.range 16).any fun k => planSlot pl b ((e + k + 1) % 64) == p

def Dev.slotBad (d : Dev) (pl : Tab Byte) (b p : Nat) : Bool :=
  planValid pl p && ((d.tablesOf pl p).contains b && !slotAppears pl b p || !slotGapsOk pl b p)

/-- R113 code 0x16: the byte names what it must not. -/
def orphanBad (pl : Tab Byte) (o : Nat) : Bool :=
  let v := planByte pl o
  if (0x1120 ≤ o && o < 0x11A0) || (0x11B0 ≤ o && o < 0x12B0) || (0x12C0 ≤ o && o < 0x15C0) then
    v != 0xFF && (0x40 ≤ v || !planValid pl v)
  else if 0x35E0 ≤ o && o < 0x35E0 + 768 then v != 0 && !planValid pl ((o - 0x35E0) % 64)
  else if 0x3900 ≤ o && o < 0x3D00 then v != 0 && !planValid pl ((o - 0x3900) / 16)
  else false

def routeValid (e : Nat) : Bool := bit e 15
def routeLocal (e : Nat) : Bool := bit e 8

/-- R104 without the ports. -/
def Dev.routeBad (d : Dev) (pl : Tab Byte) (i : Nat) : Bool :=
  let e := planRoute pl i
  if d.offFabric then routeValid e
  else if i = 0xFFF then routeValid e || routeLocal e
  else if i = d.chain.devId.toNat then !(routeValid e && routeLocal e)
  else routeLocal e

def Dev.routePortBad (d : Dev) (pl : Tab Byte) (i : Nat) : Bool :=
  let e := planRoute pl i
  let prim := fld e 0 4
  let alt := fld e 4 4
  routeValid e && !routeLocal e && (prim > 11 || !d.portUp prim || alt != 0xF && (alt > 11 || !d.portUp alt))

def shareSum (pl : Tab Byte) (n : Nat) : Nat := ((List.range 65).map fun p => planShare pl n p).sum

def bivOverlap (pl : Tab Byte) (n p q : Nat) : Bool :=
  let a := planBiv pl p n
  let b := planBiv pl q n
  p != q && a.2 != 0 && b.2 != 0 && a.1 < b.1 + b.2 && b.1 < a.1 + a.2

def Dev.waysIn (d : Dev) (pl : Tab Byte) (t p : Nat) : Nat :=
  ((List.range 32).filter fun w => d.wayEnabled t w && planWay pl t w == p).length

def gransIn (pl : Tab Byte) (p : Nat) : List Nat := (List.range 256).filter fun g => planGran pl g == p

/-- Bytes of one core's record (R446). -/
def recordSize : Nat := 0x279800

/-- Codes 0x10 and 0x11, on the plan as written. -/
def planPhaseB1 (pl : Tab Byte) : Option (Nat × Nat) :=
  let ps := planPitches pl
  match ps.find? fun p => planQuads pl p == 0 with
  | some p => some (0x10, p)
  | none =>
    ((List.range 64).find? fun q => 1 < (ps.filter fun p => bit (planQuads pl p) q).length + b2n (bit (planSpare pl) q)).map
      fun q => (0x11, q)

/-- The checks from 0x13 on, in order of code, each with its INDEX if it fails. -/
def Dev.planChecks (d : Dev) (pl : Tab Byte) : List (Option (Nat × Nat)) :=
  let ps := planPitches pl
  let bad (code : Nat) (l : List Nat) (f : Nat → Bool) : Option (Nat × Nat) := (l.find? f).map fun i => (code, i)
  let W (p : Nat) : Nat := ((List.range 4).map fun t => d.waysIn pl t p).sum
  let ports := List.range 2
  [ bad 0x13 (ps.filter d.pitchHasCtxs) fun p => planQuadCount pl p != planQuadCount d.pl p,
    bad 0x14 allPitches fun p => d.pitchHasCtxs p && !planValid pl p,
    bad 0x15 ps fun p => planVf pl p > 64 || planVf pl p != 0 && ps.any fun q => q < p && planVf pl q == planVf pl p,
    (((List.range 0x3D00).find? (orphanBad pl)).map fun o => (0x16, o / 16)),
    bad 0x20 ps fun p => 2 * planQuadCount pl p < W p || W p + d.boot.disabledWays.length < 2 * planQuadCount pl p,
    bad 0x21 ps fun p => (List.range 4).any fun t => d.waysIn pl t p == 0 && (gransIn pl p).any fun g => g / 64 == t,
    bad 0x24 (List.range 256) fun g => planGran pl g != 0xFF && !d.granInService g,
    bad 0x25 ps fun p => (gransIn pl p).length * 0x4000000 < 4 * planQuadCount pl p * recordSize,
    bad 0x26 (List.range 256) fun g => (d.granOwner g).any fun p => d.pitchHasCtxs p && planGran pl g != p,
    bad 0x28 (List.range 768) fun i => d.slotBad pl (i / 64) (i % 64),
    bad 0x2A (List.range 4) fun e => 1 < (ps.filter fun p => bit (planHubDma pl p) e).length,
    bad 0x2B ps fun p => planHubDma pl p == 0 && ports.any fun n => (planBiv pl p n).2 != 0,
    bad 0x30 (List.range 4096) fun i => d.routeBad pl i,
    bad 0x31 (List.range 4096) fun i => d.routePortBad pl i,
    bad 0x33 (List.range 12) fun n => 64 < shareSum pl n,
    bad 0x34 (List.range 12) fun n => !d.portUp n && (List.range 64).any fun p => planShare pl n p != 0,
    bad 0x38 ps fun p => ports.any fun n => (planBiv pl p n).2 != 0 && (d.biv n).st == 0,
    bad 0x39 ps fun p => ports.any fun n => (planBiv pl p n).2 != 0 && (d.biv n).gib < (planBiv pl p n).1 + (planBiv pl p n).2,
    bad 0x3A ps fun p => ports.any fun n => ps.any fun q => bivOverlap pl n p q ]

/-- What phase B forms of a plan, or its refusal. -/
structure Formed where
  bytes : Tab Byte
  order : Tab (List Nat)
  replaced : List (Nat × Nat × Nat)
deriving DecidableEq, Repr

/-- Phase B (R112, R113). -/
def Dev.planPhaseB (d : Dev) (pl : Tab Byte) (order : Tab (List Nat)) : Sum Formed (Nat × Nat) :=
  match planPhaseB1 pl with
  | some e => .inr e
  | none =>
    match d.replaceRetired pl order (d.retiredIn pl) with
    | .inr q => .inr (0x12, q)
    | .inl (pl, order, rs) =>
      match (d.planChecks pl).find? fun c => c.isSome with
      | some (some e) => .inr e
      | _ => .inl { bytes := pl, order := order, replaced := rs }

/-! ## Changed pitches (R109) -/

/-- A byte names or belongs to pitch `p` in one of the two plans and not in the other, CHECK apart. -/
def pitchChanged (old new : Tab Byte) (oldRuns : Bool) (p : Nat) : Bool :=
  let was := oldRuns && planValid old p
  let isNow := planValid new p
  if !was && !isNow then false
  else if was != isNow then true
  else
    ((List.range 64).any fun o => o != 2 && planByte old (0x110 + 64 * p + o) != planByte new (0x110 + 64 * p + o))
      || ((List.range 1184).any fun i =>
          let o := 0x1120 + i
          ((o < 0x11A0) || (0x11B0 ≤ o && o < 0x12B0) || (0x12C0 ≤ o && o < 0x15C0))
            && ((planByte old o == p) != (planByte new o == p)))
      || ((List.range 12).any fun n => planShare old n p != planShare new n p)
      || ((List.range 16).any fun o => planByte old (0x3900 + 16 * p + o) != planByte new (0x3900 + 16 * p + o))

end Sys2Proof.Machine
end

