-- ==== Sys2Proof/Machine/Plan.lean ====
section
/-!
DEFINITION. The commit of a site plan (R107 to R112, R244, R278, R434, R493, R495) and the states of cores that make
the steward re-commit one (R473, R474).
-/

namespace Sys2Proof.Machine
open Sys2Proof

/-! ## The start of a commit -/

def Dev.setCommit (d : Dev) (c : Commit) : Dev := d.modPlan fun x => { x with commit := some c }

/-- A commit starts: with phase A, or with phase B for the steward's (R108). -/
def Dev.startCommit (d : Dev) (bySteward : Bool) (pl : Tab Byte) (order : Tab (List Nat)) : Dev :=
  d.setCommit { startAt := d.time, phase := if bySteward then 2 else 1, bySteward := bySteward, bytes := pl, order := order }

/-- The steward re-commits the running plan (R112), or does so when the running commit ends if the plan then running
still names the quad; of a driver's commit started in the same cc it takes the place (R107). DESIGN CHOICE (log 145): a
quad that the running plan names in SPARE only starts no re-commit. -/
def Dev.stewardRecommit (d : Dev) (q : Nat) : Dev :=
  let go : Dev := d.startCommit true d.pl (d.validPitches.map fun p => (p, d.quadsOf p))
  if !(d.planRunning && (d.pitchOfQuad q).isSome) then d
  else match d.plan.commit with
    | none => go
    | some c =>
      if !c.bySteward && c.startAt == d.time then go
      else d.modPlan fun x => { x with recommitDue := x.recommitDue ++ [q] }

/-! ## Phases A to C -/

def Dev.refuseCommit (d : Dev) (c : Commit) (e : Nat × Nat) : Dev := d.setCommit { c with reason := e.1, index := e.2 }

def Dev.phaseA (d : Dev) (c : Commit) : Dev :=
  match d.planPhaseA c.bytes with
  | some e => d.refuseCommit c e
  | none => d.setCommit { c with phase := 2 }

/-- Phase C stops the changed pitches that have contexts: none that a SAVE holds saved or is saving, and one that is being
restored once it runs again (R451). -/
def Dev.stillToStop (d : Dev) (c : Commit) : List Nat :=
  c.changed.filter fun p => d.pitchHasCtxs p && !d.pitchSaved p && !c.saved.contains p
    && !d.host.preBusy.any fun b => b.2.1 == p

def Dev.stopChanged (d : Dev) (c : Commit) : Dev :=
  let ps := d.stillToStop c
  (d.forEach ps fun d p => d.stopPitch p).setCommit { c with saved := c.saved ++ ps }

/-- Phase B refuses the plan or forms it; then phase C begins, which stops the changed pitches and every dice test (R477). -/
def Dev.phaseB (d : Dev) (c : Commit) : Dev :=
  match d.planPhaseB c.bytes c.order with
  | .inr e =>
    let d' := d.refuseCommit c e
    if c.bySteward && e.1 == 0x12 then d'.event 0x13 ((d.pitchOfQuad e.2).getD 0) 0xFF else d'
  | .inl f =>
    let changed := allPitches.filter fun p => pitchChanged d.pl f.bytes d.planRunning p
    let d := d.endTests.stopChanged { c with
      phase := 3, changed := changed, saved := [], bytes := f.bytes, order := f.order, replaced := f.replaced }
    let d := if c.bySteward then d.forEach f.replaced fun d r => d.event 0x13 r.1 r.2.1 else d
    d.settle

/-- What phase C waits for: the pitches that it stopped have drained, and no SAVE or RESTORE of a pitch that the commit
changes is running. -/
def Dev.commitReady (d : Dev) (c : Commit) : Bool :=
  c.saved.all d.pitchDrained && !(d.host.preBusy.any fun b => c.changed.contains b.2.1)

/-! ## Phases D to F -/

/-- R278: the lines in the ways of changed pitches leave the canopy. -/
def Dev.flushWays (d : Dev) (changed : List Nat) : Dev :=
  d.forEach (tkeys d.mem.canopy) fun d k =>
    match d.wayOwner (keyTile k) (keyWay k) with
    | some p => if changed.contains p then d.canEvict k else d
    | none => d

/-- R111, R463: granules given to a pitch while the record names a different one are zeroised, and the replica
directory forgets their pages. -/
def Dev.zeroGranules (d : Dev) (pl : Tab Byte) : Dev :=
  d.forEach (List.range 256) fun d g =>
    let p := planGran pl g
    let owner := tget 0 d.plan.lastOwner g
    if p < 64 && owner != 0 && owner != p + 1 then
      let d := (d.zeroStacked (g * 0x4000000) 0x4000000).modMem fun m => { m with
        repl := m.repl.filter fun e => e.1 / 1024 != g }
      d.modPlan fun x => { x with lastOwner := tdel x.lastOwner g }
    else d

/-- R493: a relock of pitches clears IMRAD_COMPAT in their contexts. -/
def Dev.relock (d : Dev) (ps : List Nat) : Dev :=
  let d := d.modSec fun x => { x with unlocked := x.unlocked &&& ~~~(BitVec.ofNat 64 (maskOf ps)) }
  let f (c : Nat × Ctx) : Nat × Ctx := if ps.contains c.2.pitch then (c.1, { c.2 with compat := false }) else c
  d.modHost fun h => { h with ctxs := h.ctxs.map f }

/-- Phase E: the plan is live, its unchanged pitches with the order of quads that they run with; M6 is extended; changed
pitches are locked and their range-cache entries removed; the lantern counters of a pitch that becomes valid start at 0 (R499). -/
def Dev.planLive (d : Dev) (c : Commit) : Dev :=
  let old := d.validPitches
  let d := d.modPlan fun x => { x with
    running := some c.bytes
    order := (planPitches c.bytes).map fun p => (p, if c.changed.contains p then tget [] c.order p else d.quadsOf p)
    moved := c.replaced.foldl (fun m r => (m.map fun y => if y.2 == r.2.1 then (y.1, r.2.2) else y)
      ++ [(r.2.1, r.2.2)]) x.moved
    lastOwner := (List.range 256).foldl (fun t g => if planGran c.bytes g < 64 then tset t g (planGran c.bytes g + 1) else t)
      x.lastOwner }
  let d := d.extend 6 (Config.sha384 (planBytes c.bytes))
  let d := d.relock c.changed
  let fresh := (planPitches c.bytes).filter fun p => !old.contains p
  let d := d.forEach fresh fun d p => d.modPitchCnt p fun x => { x with lant := [] }
  d.dropCached fun e => c.changed.contains e.pitch

/-- R495: a core of a quad that changes its pitch is cleared. -/
def Dev.clearCore (d : Dev) (c : Nat) : Dev := (d.setCore c (Core.cleared c (d.core c))).clearCoreMem c

/-- R244, R468: a core of a changed pitch takes its plan seed and its first selection state. -/
def Dev.planSeed (d : Dev) (l c : Nat) : Dev :=
  let s := seedFor (BitVec.ofNat 64 (planId d.pl)) l
  let s := if s = 0 then 1 else s
  (d.seedDue c 0 s).modCore c fun k => { k with lfsr := BitVec.ofNat 16 (1 + c) }

def coresOfQuad (q : Nat) : List Nat := [4 * q, 4 * q + 1, 4 * q + 2, 4 * q + 3]

/-- Recorded physical addresses of commands, descriptors and unperformed requests follow a replaced core (R335). -/
def Dev.redirectHeld (d : Dev) : Dev :=
  let seg (s : Seg) : Seg := { s with pa := d.direct s.pa }
  let peg (x : Option (Nat × Nat)) : Option (Nat × Nat) := x.map fun y => (d.direct y.1, y.2)
  let d := d.modBoard fun b => { b with
    nodes := b.nodes.map fun n => (n.1, { n.2 with src := n.2.src.map seg, dst := n.2.dst.map seg, sig := peg n.2.sig })
    graphs := b.graphs.map fun g => (g.1, { g.2 with donePeg := peg g.2.donePeg })
    descs := b.descs.map fun x => (x.1, { x.2 with src := x.2.src.map seg, dst := x.2.dst.map seg, sig := peg x.2.sig }) }
  d.modMem fun m => { m with reqs := m.reqs.map fun r =>
    if r.2.dev.isNone && r.2.st == 0 then (r.1, { r.2 with addr := redirect d.plan.moved r.2.addr }) else r }

/-- R355: a resident context of a changed pitch keeps its slot, which goes with the quad of its logical number. -/
def Dev.renumberSlots (d : Dev) (p : Nat) (olds : List Nat) : Dev :=
  let move (q : Nat) : Nat := ((olds.zip (d.quadsOf p)).find? fun m => m.1 == q).elim q fun m => m.2
  d.modHost fun h => { h with ctxs := h.ctxs.map fun c =>
    if c.2.pitch == p then (c.1, { c.2 with slot := c.2.slot.map move }) else c }

/-- Phase E of an accepted commit, with what it does on the cores; `d0` is the device before it. -/
def Dev.phaseE (d0 : Dev) (c : Commit) : Dev :=
  let d := d0.planLive c
  let cleared := (List.range 64).filter fun q => d0.pitchOfQuad q != d.pitchOfQuad q
  let moves := c.changed.flatMap fun p => ((d0.coresOf p).zip (d.coresOf p)).filter fun m => m.1 != m.2
  let d := d.forEach (cleared.flatMap coresOfQuad) fun d k => d.clearCore k
  let ems : List (Nat × Nat) := c.changed.flatMap fun p => ((d0.quadsOf p).zip (d.quadsOf p)
    ++ ((d0.hubDmaOf p).zip (d.hubDmaOf p)).map fun (m : Nat × Nat) => (64 + m.1, 64 + m.2)).filter fun (m : Nat × Nat) => m.1 != m.2
  let d := (d0.moveEngines (d0.moveCores d moves) ems moves).redirectHeld
  let d := d.forEach (c.changed.flatMap fun p => d0.enginesOf p ++ d.enginesOf p) fun d e => d.pauseEngine e
  d.forEach c.changed fun d p => d.renumberSlots p (d0.quadsOf p)

/-- Phase F begins: the cores of the changed pitches are seeded (R244). -/
def Dev.phaseF (d : Dev) (c : Commit) : Dev :=
  (d.forEach c.changed fun d p => d.forEach (d.coresOf p).zipIdx fun d k => d.planSeed k.2 k.1).setCommit { c with phase := 6 }

/-- A commit reaches its next phase, if it may. Phase C ends with the records of the pitches that it saved. -/
def Dev.commitStep (d : Dev) : Dev :=
  match d.plan.commit with
  | none => d
  | some c =>
    if c.reason != 0 then d
    else match c.phase with
      | 1 => d.phaseA c
      | 2 => d.phaseB c
      | 3 =>
        if !(d.stillToStop c).isEmpty then (d.stopChanged c).settle
        else if !d.commitReady c then d
        else ((d.forEach c.saved fun d p => d.writeRecords p).flushWays c.changed).setCommit { c with phase := 4 }
      | 4 => (d.zeroGranules c.bytes).setCommit { c with phase := 5 }
      | 5 => (d.phaseE c).phaseF c
      | _ => d

/-- Several phases. -/
def Dev.commitRun (d : Dev) : Nat → Dev
  | 0 => d
  | n + 1 => d.commitStep.commitRun n

/-- The commit ends: phase F restores what phase C saved, the accepted plan goes on running and the LNK_UNREACH bits are
clear (R434); a refused one leaves everything as it stands (R110). -/
def Dev.endCommit (d : Dev) (c : Commit) : Dev :=
  let ok := c.reason == 0
  let d := if ok then d.forEach c.saved fun d p => d.restorePitch p else d
  let d := if ok then d.modFab fun f => { f with
    unreach := f.unreach.map fun u => (u.1, u.2.clear d.time) } else d
  (d.modPlan fun x => { x with
    commit := none, reason := c.reason, index := c.index, bySteward := c.bySteward
    commitT := if ok then (d.time - c.startAt) % 2 ^ 32 else x.commitT }).msix 0 0

/-! ## Core states (R473, R474) -/

/-- Full tests fall due every 10 min in WATCH and for a RETIRED core left in its pitch, every 24 h in ROUTINE. -/
def testPeriod (health : Nat) : Nat := if health = 0 then ccUs 86400000000 else ccUs 600000000

/-- Every change of state is event kind 0x0C. -/
def Dev.setHealth (d : Dev) (c st : Nat) : Dev :=
  (d.modCore c fun k => { k with health := st, watchMism := 0, clean := 0
                                 testDue := k.testDue || st == 1, testDueAt := if st = 1 then d.time else k.testDueAt }).event
    0x0C c st

/-- A quad becomes RETIRED with all its cores, and the steward writes the trim record (R474). -/
def Dev.retireQuad (d : Dev) (q : Nat) : Dev :=
  if d.quadRetired q then d
  else
    let d := d.forEach (coresOfQuad q) fun d c => if (d.core c).health = 2 then d else d.setHealth c 2
    let d := d.modBoot fun b => { b with
      trimRetired := if b.trimRetired.contains q then b.trimRetired else b.trimRetired ++ [q] }
    d.stewardRecommit q

/-- A failed dice segment or an FLT_RESIDUE on a core. -/
def Dev.coreFailed (d : Dev) (c : Nat) : Dev :=
  match (d.core c).health with
  | 0 => d.setHealth c 1
  | 1 => d.retireQuad (quadOf c)
  | _ => d

/-- A recompute mismatch of the pair of core `c`, for this core (log 20: the mismatch that brings a core into WATCH is
not counted among those since it entered). -/
def Dev.coreMismatch (d : Dev) (c : Nat) : Dev :=
  let k := d.core c
  match k.health with
  | 0 => d.setHealth c 1
  | 1 =>
    let d := d.modCore c fun k => { k with watchMism := satAdd 0xFF k.watchMism 1, clean := 0 }
    if k.watchMism + 1 ≥ 2 then d.retireQuad (quadOf c) else d
  | _ => d

/-- The partner of a core (R468). -/
def partnerOf (c : Nat) : Nat := c ^^^ 1

/-- The selection fraction in force for a core, coded as CHECK (R112, R468). -/
def Dev.selFrac (d : Dev) (c : Nat) : Nat :=
  match d.pitchOfCore c with
  | none => 0
  | some p => if (d.core c).health != 0 || (d.core (partnerOf c)).health != 0 then 3 else planCheck d.pl p

end Sys2Proof.Machine
end

