-- ==== Sys2Proof/Machine/Array.lean ====
section
/-!
DEFINITION. The array sequencer and the matrix array of a core: issue (R175 to R183, R536), descriptors (R205 to
R210), stationary loads, passes, accumulator reads and conversion (R184 to R193, R211 to R221), array programs (R188,
R216, R245), the residue check's report (R251), the capture of passes (R468, R469) and the progress of ac (R180, R181,
R217, R218; log 11).
-/

namespace Sys2Proof.Machine
open Sys2Proof

/-! ## The scratchpad as the array sees it in an ac (R179, R186) -/

/-- A write of the ac domain at a scratchpad offset, wrapping at 2 MiB; what it replaces is kept for reads of the same
ac. -/
def Dev.seqWrite (d : Dev) (c off : Nat) (bs : List Byte) (pois : Bool) : Dev :=
  let q := (d.core c).seq
  let old := bs.zipIdx.map fun b =>
    let o := (off + b.2) % spadSize
    (o, byteAt d.mem.bytes (spadAddr c o), d.chunkPois (spadAddr c o))
  let u := if q.undoAc = q.ac then q.undo else []
  let d := (d.noteFlags c off bs.length).modSeq c fun q => { q with undoAc := q.ac, undo := u ++ old }
  let room := spadSize - off % spadSize
  (d.writeChunked (spadAddr c (off % spadSize)) (bs.take room) pois).writeChunked (spadAddr c 0) (bs.drop room) pois

/-! ## Issue (R181, R182, R197) -/

/-- What a WAITF sees: its flag and the flag's poison (R187, R221). -/
def Dev.waitfSees (d : Dev) (c w : Nat) : W32 × Bool := d.flagSeen c (fld w 8 6)

def Dev.waitfReady (d : Dev) (c w : Nat) : Bool :=
  (d.waitfSees c w).2 || fld w 32 32 ≤ (d.waitfSees c w).1.toNat

/-- Issue of the sequencer's next instruction, when its word is the command's opcode or names no instruction of the
stream. It is held while its unit is busy, its bank is locked or its flag is below its threshold. -/
def Dev.issueSeq (d : Dev) (c op : Nat) (body : Dev → Nat → Dev) : Dev :=
  if !d.seqMay c then
    let k := d.core c
    if 1 ≤ k.seq.st && k.seq.st ≤ 4 && k.bankLocked k.seq.pc then d.modSeq c fun q => { q with st := 4 } else d
  else
    let q := (d.core c).seq
    let w := d.fetchWord c q.pc
    if (seqOp? w).getD op != op then d
    else
      let ok := seqWordOk q.pc w
      if ok && !q.unitFree w then d.modSeq c fun q => { q with st := 2 }
      else if ok && op == 0x41 && !d.waitfReady c w then d.modSeq c fun q => { q with st := 3 }
      else
        let d := d.modCore c fun k => k.touch q.pc
        if !ok then d.seqFault c 1 1
        else
          let d := body d w
          -- the next word is fetched in this ac (R158)
          if (d.core c).seq.pc == q.pc then d else d.modSeq c fun q => { q with issuedAt := some d.time }

/-- An instruction of the sequencer alone: one ac of issue, an effect on its own state. -/
def Dev.seqPlain (d : Dev) (c op : Nat) (f : Seq → Nat → Seq) : Dev :=
  d.issueSeq c op fun d w => d.modSeq c fun q => (f q w).advance 1

def execSeqNop (core : Nat) (s : State) := s.to (s.dev.seqPlain core 0x00 fun q _ => q)

def execWait (core : Nat) (s : State) :=
  s.to (s.dev.issueSeq core 0x01 fun d w => d.modSeq core fun q => { q.advance (fld w 8 24) with waiting := true })

/-- WAIT_EXPIRY: the N ac are over, and issue is free again. -/
def execWaitExpiry (core : Nat) (s : State) :=
  s.to (s.dev.modSeq core fun q => if q.waiting && q.issueAt ≤ q.ac then { q with waiting := false } else q)

def execSetb (core : Nat) (s : State) :=
  s.to (s.dev.seqPlain core 0x08 fun q w => { q with base := tput 0 q.base (fld w 8 3) (fld w 32 21) })

def execAddb (core : Nat) (s : State) :=
  s.to (s.dev.seqPlain core 0x09 fun q w =>
    let b := fld w 8 3
    { q with base := tput 0 q.base b ((tget 0 q.base b + fld w 32 32) % spadSize) })

/-- LOOP (R176): the named level is opened or closed first, so a level that it replaces does not end with it. DESIGN
CHOICE (log 147): a LOOP with COUNT 0 at the end address of another open level leaves that level as it is, since R176 fixes
the next PC. -/
def execLoop (core : Nat) (s : State) :=
  s.to (s.dev.issueSeq core 0x0C fun d w => d.modSeq core fun q =>
    let l := fld w 8 2
    let n := fld w 16 16
    let e := fld w 32 16
    if n = 0 then { (q.advance 1) with loops := tdel q.loops l, pc := e + 8 }
    else { q with loops := tset q.loops l { start := q.pc + 8, end_ := e, count := n } }.advance 1)

/-! ## Descriptors (R205 to R210) -/

def dZero (b : List Byte) (o n : Nat) : Bool := ((b.drop o).take n).all fun x => x == 0
def addrOk (w : Nat) : Bool := w >>> 24 == 0
def strideOk (w : Nat) : Bool := w >>> 21 == 0

/-- Address and stride fields of a row that must lie at multiples of 32. -/
def Seq.rowsOk (q : Seq) (aw sw : Nat) : Bool :=
  addrOk aw && strideOk sw && q.addrField aw % 32 == 0 && sw % 32 == 0

/-- Scale fields: reserved for formats without scales. -/
def sclOk (f aw sw : Nat) : Bool := if hasScales f then addrOk aw && strideOk sw else aw == 0 && sw == 0

/-- A stationary descriptor obeys R210. -/
def Seq.statOk (q : Seq) (b : List Byte) (trans : Bool) : Bool :=
  let f := dByte b 0x10
  isOperandFmt f && !(trans && f == 8) && q.rowsOk (dWord b 0) (dWord b 4) && sclOk f (dWord b 8) (dWord b 12)
    && dZero b 0x11 15

/-- A pass descriptor obeys R210; `wfmt` is the stationary format, 15 for none, `row0` the first row's offset. -/
def passOk (b : List Byte) (wfmt row0 : Nat) : Bool :=
  let f := dByte b 0
  isOperandFmt f && classOk f wfmt && dZero b 1 3 && strideOk (dWord b 4) && dWord b 4 % 32 == 0 && row0 % 32 == 0
    && sclOk f (dWord b 8) (dWord b 12) && dZero b 0x10 16

/-- A drain descriptor obeys R210. -/
def Seq.drainOk (q : Seq) (b : List Byte) : Bool :=
  let f := dByte b 0x18
  let ctl := dByte b 0x19
  isFmt f && ctl / 4 == 0 && dByte b 0x1A ≤ 64 && dZero b 0x1B 5 && q.rowsOk (dWord b 0) (dWord b 4)
    && sclOk f (dWord b 8) (dWord b 12)
    && (if bit ctl 1 then q.rowsOk (dWord b 0x10) (dWord b 0x14) else dWord b 0x10 == 0 && dWord b 0x14 == 0)

/-- What the codes of the units that a read touches show (R256), and what is left for other reads. -/
def Dev.meet (d : Dev) (c : Nat) (us : List Nat) (seen : EccSeen) : Dev × EccSeen :=
  (d.forEach (seen.filter fun x => us.contains x.1) fun d x => d.spadEcc c x.1 x.2,
    seen.filter fun x => !us.contains x.1)

/-- The descriptor is read once its banks grant it; its faults come in the order of R536, then the instruction, which is
given the descriptor and what its own reads will meet. -/
def Dev.withDesc (d : Dev) (c reg doff : Nat) (seen : EccSeen) (ok : Seq → List Byte → Bool)
    (body : Dev → List Byte → EccSeen → Dev) : Dev :=
  let q := (d.core c).seq
  let us := unitsOf (q.descOff reg doff) 32
  match d.takeUnits c 4 0 us with
  | (d, false) => d
  | (d, true) =>
    let (d, rest) := d.meet c us seen
    let (b, pois) := d.seqRead c (q.descOff reg doff) 32
    if pois then d.seqFault c 4 0
    else if !ok q b then d.seqFault c 1 1
    else body d b rest

/-! ## Stationary loads (R202, R203, R211) -/

/-- The feeder reads the next stored row of the load, with its scales. -/
def Dev.readStored (d : Dev) (c : Nat) : Dev :=
  match (d.core c).seq.load with
  | none => d
  | some l =>
    let (d, seen) := d.meet c l.rowUnits l.seen
    let f := l.blk.fmt
    let n := rowElems f
    let j := l.done
    let (b, p) := d.seqRead c ((l.src + j * l.stride) % spadSize) (packedBytes f n)
    let (sc, p') := d.seqRead c ((l.scl + j * l.sclStride) % spadSize) (sclBytes f n)
    let blk := { l.blk with
      pois := l.blk.pois || p || p'
      elems := (unpackRow f n b).zipIdx.foldl (fun t e => tput 0 t (128 * j + e.2) e.1) l.blk.elems
      scales := sc.zipIdx.foldl (fun t e => tput 0 t (4 * j + e.2) e.1) l.blk.scales }
    d.modSeq c fun q => { q with load := some { l with done := j + 1, blk := blk, seen := seen } }

/-- LDW and LDWT: the load holds the feeder for 64 ac; its rows are read ac by ac (`acReads`). -/
def Dev.startLoad (d : Dev) (c op : Nat) (trans : Bool) (seen : EccSeen) : Dev :=
  d.issueSeq c op fun d w =>
    d.withDesc c (fld w 8 3) (fld w 32 16) seen (fun q b => q.statOk b trans) fun d b rest =>
      d.modSeq c fun q => { (q.advance 1) with
        feederFree := q.ac + 64
        load := some { n := q.ac, src := q.addrField (dWord b 0), stride := dWord b 4, scl := q.addrField (dWord b 8)
                       sclStride := dWord b 12, seen := rest, blk := { fmt := dByte b 0x10, trans := trans } } }

def execLdw (core : Nat × EccSeen) (s : State) := s.to (s.dev.startLoad core.1 0x10 false core.2)

def execLdwt (core : Nat × EccSeen) (s : State) := s.to (s.dev.startLoad core.1 0x11 true core.2)

/-- The loaded block becomes the stationary buffer's content. -/
def Dev.takeBlock (d : Dev) (c : Nat) : Dev :=
  match (d.core c).seq.load with
  | none => d
  | some l => (d.modCore c fun k => { k with block := l.blk }).modSeq c fun q => { q with load := none }

/-- STATIONARY_LOAD_DONE (R211). -/
def execStationaryLoadDone (core : Nat) (s : State) :=
  s.to (if s.dev.arrayRuns core && (s.dev.core core).seq.loadDue then s.dev.takeBlock core else s.dev)

/-! ## Tiles (R184, R185, R191) -/

def Core.tileRow (k : Core) (t r : Nat) : TileRow := tget {} k.tiles (64 * t + r)

/-- A row takes new values in the running ac; what it was before that ac is kept for an accumulator read. -/
def TileRow.put (x : TileRow) (ac : Nat) (vals : Tab W32) (pois : Bool) : TileRow :=
  if x.at_ = ac then { x with vals := vals, pois := pois }
  else { vals := vals, pois := pois, prev := x.vals, prevPois := x.pois, at_ := ac }

/-- Rows `from_` to 63 of a tile are cleared in the running ac. -/
def Core.clearRows (k : Core) (t from_ : Nat) : Core :=
  { k with tiles := (List.range 64).foldl (fun ts r =>
      if from_ ≤ r then tset ts (64 * t + r) ((tget {} ts (64 * t + r)).put k.seq.ac [] false) else ts) k.tiles }

/-- A row's ready ac is raised (R191). -/
def Core.raiseReady (k : Core) (t r ac : Nat) : Core :=
  { k with readyAc := tmod 0 k.readyAc (64 * t + r) fun v => max v ac }

def Core.raiseRows (k : Core) (t from_ ac : Nat) : Core :=
  (List.range 64).foldl (fun (k : Core) r => if from_ ≤ r then k.raiseReady t r ac else k) k

/-- A row as an accumulator read of the running ac sees it (R185). -/
def TileRow.seenAt (x : TileRow) (ac : Nat) : Tab W32 × Bool := if x.at_ = ac then (x.prev, x.prevPois) else (x.vals, x.pois)

/-! ## Passes (R184, R213) -/

/-- One step of the selection generator (R468). -/
def lfsrStep (s : W16) : W16 :=
  let b := ((s >>> 15) ^^^ (s >>> 13) ^^^ (s >>> 12) ^^^ (s >>> 10)) &&& 1
  (s <<< 1) ||| b

/-- The pass is selected: the low log₂ D bits are 0 (R468). -/
def lfsrSelects (frac : Nat) (s : W16) : Bool :=
  match frac with
  | 1 => s.toNat % 256 == 0
  | 2 => s.toNat % 64 == 0
  | 3 => s.toNat % 16 == 0
  | _ => false

/-- A selection is skipped (R469). -/
def Core.skipCheck (t : Nat) (k : Core) : Core := { k with chkSkipped := k.chkSkipped.bump 0xFFFF 1 t }

/-- R468, R469: the generator steps; a selected pass is captured, or skipped for a full buffer or a poisoned block. -/
def Dev.selectPass (d : Dev) (c : Nat) (p : PassFl) : Dev × PassFl :=
  let k := d.core c
  let s := lfsrStep k.lfsr
  let d := d.modCore c fun k => { k with lfsr := s }
  if !lfsrSelects (d.selFrac c) s then (d, p)
  else
    let q := k.seq
    let d := d.count (d.pitchOfCore c) 0x1E 1 (some { cid := q.cid, layer := q.layer, oper := q.oper })
    let d := d.modCore c fun k => { k with chkSelected := k.chkSelected.bump 0xFFFF 1 d.time }
    if 16 ≤ k.captures.length || p.blk.pois then (d.modCore c fun k => k.skipCheck d.time, p)
    else
      let x : Capture := { num := k.captureNext, cid := q.cid, k := p.k, m := p.m, sfmt := p.sfmt, blk := p.blk }
      (d.modCore c fun k => { k with captures := k.captures ++ [x], captureNext := k.captureNext + 1 },
       { p with capture := some k.captureNext })

/-- PASS (R183, R208, R210, R212, R213). One with M = 0 takes no issue slot, so the word after it is fetched in the same
ac (R158). DESIGN CHOICE (log 148): within one ac its clear and a drain's write to the tile act in the order of the
commands; R184 gives the order for ACLR only. -/
def Dev.issuePass (d : Dev) (c : Nat) (seen : EccSeen) : Dev :=
  d.issueSeq c 0x20 fun d w =>
    let tile := fld w 8 2
    let clear := bit w 10
    let m := fld w 12 7
    let k := d.core c
    let wfmt := match k.seq.load with | some l => l.blk.fmt | none => k.block.fmt
    let row0 := (tget 0 k.seq.base (fld w 19 3) + 32 * fld w 48 16) % spadSize
    d.withDesc c (fld w 22 3) (fld w 32 16) seen (fun _ b => passOk b wfmt row0) fun d b _ =>
      let n := k.seq.ac
      if m = 0 then
        let d := d.modSeq c fun q => { (q.advance 0) with
          issueAt := q.issueAt, lastWrite := if clear then max q.lastWrite n else q.lastWrite }
        let d := d.modCore c fun k => if k.bankLocked k.seq.pc then k else k.touch k.seq.pc
        if clear then d.modCore c fun k => (k.clearRows tile 0).raiseRows tile 0 (n + 1) else d
      else
        let p : PassFl := { n := n, pc := k.seq.pc, k := classK (dByte b 0), m := m, tile := tile, clear := clear, row0 := row0
                            rstride := dWord b 4, scl := k.seq.addrField (dWord b 8), sclStride := dWord b 12
                            sfmt := dByte b 0, blk := k.block }
        let (d, p) := d.selectPass c p
        let d := d.modSeq c fun q => { (q.advance 1) with
          passes := q.passes ++ [p], feederFree := n + p.k * m, lastWrite := max q.lastWrite (p.writeAc (m - 1)) }
        d.modCore c fun k =>
          let k := (List.range m).foldl (fun (k : Core) r => k.raiseReady tile r (p.writeAc r + 1)) k
          if clear then k.raiseRows tile m (p.writeAc (m - 1) + 1) else k

def execPass (core : Nat × EccSeen) (s : State) := s.to (s.dev.issuePass core.1 core.2)

/-- Replaces a pass in flight. -/
def Seq.setPass (q : Seq) (n : Nat) (f : PassFl → PassFl) : Seq :=
  { q with passes := q.passes.map fun p => if p.n == n then f p else p }

def Core.modCapture (k : Core) (num : Option Nat) (f : Capture → Capture) : Core :=
  match num with
  | none => k
  | some n => { k with captures := k.captures.map fun x => if x.num == n then f x else x }

/-- A capture that cannot be compared is skipped (R469). -/
def Core.dropCapture (t : Nat) (k : Core) (p : PassFl) : Core :=
  match p.capture with
  | none => k
  | some n =>
    let k : Core := { k with captures := k.captures.filter fun x => x.num != n }
    (k.skipCheck t)

/-- PASS_ROW_ENTER (R213): the row that is due enters once the banks grant all of it. -/
def execPassRowEnter (core : Nat) (seen : EccSeen) (s : State) :=
  let d := s.dev
  let q := (d.core core).seq
  s.to (
    if !d.arrayRuns core then d else
    match q.enterDue with
    | none => d
    | some p =>
      match d.takeUnits core 4 1 q.enterUnits with
      | (d, false) => d
      | (d, true) =>
        let i := p.rows.length
        let n := rowElems p.sfmt
        let d := (d.meet core q.enterUnits seen).1
        let (b, po) := d.seqRead core (p.rowOff i) (packedBytes p.sfmt n)
        let (sc, po') := d.seqRead core (p.sclOff i) (sclBytes p.sfmt n)
        let row : StreamRow := { elems := unpackRow p.sfmt n b, scales := sc, pois := po || po' }
        let d := d.modCore core fun k =>
          if row.pois then k.dropCapture d.time p else k.modCapture p.capture fun x => { x with rows := x.rows ++ [row] }
        d.modSeq core fun q => q.setPass p.n fun p => { p with
          rows := p.rows ++ [row], capture := if row.pois then none else p.capture })

/-- The block sums of a result row, by column, as the array delivers them, and whether the check of each fails. -/
def rowSums (p : PassFl) (row : StreamRow) (us : List Upset) : List (List (BlockSum × Bool)) :=
  (List.range 64).map fun c => (List.range (blockCount p.sfmt)).map fun b => checkedSum p.sfmt p.blk row us c b

/-- The blocks whose check fails, by column and block, the lowest first (R251). -/
def failing (sums : List (List (BlockSum × Bool))) : List (Nat × Nat) :=
  sums.zipIdx.flatMap fun x => (x.1.zipIdx.filter fun y => y.1.2).map fun y => (x.2, y.2)

/-- The tile row after a result row (R184, R232): `pick` names the order of the blocks of each element. -/
def resultRow (clear : Bool) (old : Tab W32) (sums : List (List BlockSum)) (pick : Nat → Nat) : Tab W32 :=
  sums.zipIdx.foldl (fun t x =>
    tput 0 t x.2 (accumulate (if clear then 0 else tget 0 old x.2) x.1 (pick x.2))) []

/-- The next result row of a pass is written into its tile, with the block sums given. -/
def Dev.writeRow (d : Dev) (c : Nat) (p : PassFl) (i : Nat) (row : StreamRow) (sums : List (List BlockSum)) (bad : Bool) :
    Dev :=
  let pois := row.pois || p.blk.pois || bad
  let idx := d.free
  let d := { d with free := d.free + 1 }
  d.modCore c fun k =>
    let x := k.tileRow p.tile i
    let vals := resultRow p.clear x.vals sums (fun col => Config.blockOrder idx i col)
    let y := x.put k.seq.ac vals (if p.clear then pois else pois || x.pois)
    let k : Core := { k with tiles := tset k.tiles (64 * p.tile + i) y }
    if p.clear && i + 1 == p.m then k.clearRows p.tile p.m else k

/-- An ACLR of the tile can issue in this ac, behind passes with M = 0 at most: it acts before a row is written (R184). -/
def Dev.aclrFirst (d : Dev) (c t : Nat) : Bool :=
  (d.mayIssue c).any fun x => fld x.2 0 8 == 0x30 && fld x.2 8 2 == t

/-- PASS_ROW_WRITE (R184, R220, R251). -/
def execPassRowWrite (core : Nat) (upsets : List Upset) (s : State) :=
  let d := s.dev
  let q := (d.core core).seq
  s.to (
    if !d.arrayRuns core then d else
    match q.writeDue with
    | none => d
    | some p =>
      if d.aclrFirst core p.tile then d else
      match p.rows[p.written]? with
      | none => d
      | some row =>
        let i := p.written
        let checked := rowSums p row upsets
        let fails := failing checked
        let sums := checked.map fun l => l.map fun x => x.1
        let d := d.writeRow core p i row sums (!fails.isEmpty)
        let d := d.modSeq core fun q => q.setPass p.n fun p => { p with written := i + 1 }
        let d := d.modCore core fun k => k.modCapture p.capture fun x =>
          { x with sums := x.sums ++ sums.flatMap fun l => l.map BlockSum.pair, complete := i + 1 == p.m }
        match fails with
        | [] => d
        | f :: _ =>
          let d := d.modCore core fun k =>
            let k := { k with resCnt := k.resCnt.bump 0xFF fails.length d.time }
            if k.resValid.bit then k
            else { k with resValid := k.resValid.set d.time, resTile := p.tile, resRow := i, resCol := f.1
                          resBlock := f.2, resPath := !intPath p.sfmt p.blk }
          ((d.event 0x07 core (p.tile + 4 * i)).seqFaultAt core 8 0 p.pc).coreFailed core)

/-- ACLR (R184): within one ac it acts before the drain's write, which waits for it. -/
def execAclr (core : Nat) (s : State) :=
  s.to (s.dev.issueSeq core 0x30 fun d w =>
    let t := fld w 8 2
    let q := (d.core core).seq
    let d := d.modCore core fun k => (k.clearRows t 0).raiseRows t 0 (q.ac + 1)
    d.modSeq core fun q => { (q.advance 1) with lastWrite := max q.lastWrite q.ac })

/-! ## Accumulator reads and conversion (R185, R190 to R193, R214, R215) -/

/-- The lowest row of a tile that is not ready at an ac, with the shortfall (R191, R193). -/
def Core.earlyRow (k : Core) (t ac : Nat) : Option (Nat × Nat) :=
  ((List.range 64).find? fun r => ac < tget 0 k.readyAc (64 * t + r)).map fun r =>
    (r, tget 0 k.readyAc (64 * t + r) - ac)

/-- ADRN (R183, R185, R209, R214). -/
def execAdrn (at_ : Nat × EccSeen) (s : State) :=
  let core := at_.1
  s.to (s.dev.issueSeq core 0x31 fun d w =>
    let t := fld w 8 2
    d.withDesc core (fld w 22 3) (fld w 32 16) at_.2 (fun q b => q.drainOk b) fun d b rest =>
      let k := d.core core
      let n := k.seq.ac
      match (if k.seq.audit then k.earlyRow t n else none) with
      | some (r, short) =>
        (d.modCore core fun k =>
          if k.auditValid.bit then k
          else { k with auditValid := k.auditValid.set d.time, auditTile := t, auditRow := r, auditShort := min short 0xFFFF }).seqFault
          core 7 0
      | none =>
        let rows := dByte b 0x1A
        let ctl := dByte b 0x19
        let seen := (List.range 64).map fun r => (k.tileRow t r).seenAt n
        let x : DrainFl := {
          n := n, rows := rows, dst := k.seq.addrField (dWord b 0), dstride := dWord b 4
          dscl := k.seq.addrField (dWord b 8), dsclStride := dWord b 12
          add := if bit ctl 1 then some (k.seq.addrField (dWord b 0x10), dWord b 0x14) else none
          ofmt := dByte b 0x18, stoch := bit ctl 0, seen := rest
          tile := seen.zipIdx.flatMap fun r => r.1.1.map fun e => (64 * r.2 + e.1, e.2)
          tpois := (seen.zipIdx.filter fun r => r.1.2).map fun r => r.2 }
        d.modSeq core fun q => { (q.advance 1) with
          convFree := n + 64, drains := q.drains ++ [x]
          lastWrite := if rows = 0 then q.lastWrite else max q.lastWrite (n + 3 + rows) })

/-- The converter reads the addend row that is due (R214 step 1). -/
def Dev.readAddend (d : Dev) (c : Nat) : Dev :=
  match (d.core c).seq.addendDue with
  | none => d
  | some x =>
    match x.add with
    | none => d
    | some (a, st) =>
      let (d, seen) := d.meet c (d.core c).seq.addendUnits x.seen
      let (b, p) := d.seqRead c ((a + x.addRead * st) % spadSize) 256
      let row := (List.range 64).map fun j => BitVec.ofNat 32 (leNat ((b.drop (4 * j)).take 4))
      d.modSeq c fun q => { q with drains := q.drains.map fun (y : DrainFl) =>
        if y.n == x.n then { y with addRead := y.addRead + 1, addq := y.addq ++ [(row, p)], seen := seen } else y }

/-- CONVERTED_ROW_WRITE (R214, R215, R220, R235 to R241). -/
def execConvertedRowWrite (core : Nat) (s : State) :=
  let d := s.dev
  let q := (d.core core).seq
  s.to (
    if !d.arrayRuns core then d else
    match q.convDue with
    | none => d
    | some x =>
      if x.add.isSome && x.addq.isEmpty then d else
      match d.takeUnits core 3 4 q.convertUnits with
      | (d, false) => d
      | (d, true) =>
        let r := x.written
        let add := x.addq.head?
        let vs := (List.range 64).map fun j =>
          exactSum (tget 0 x.tile (64 * r + j)) (add.map fun a => (a.1[j]?).getD 0)
        let (es, sc) := convertRow x.ofmt vs fun j => if x.stoch then some (d.draw core j) else none
        let pois := x.tpois.contains r || add.any fun a => a.2
        let d := (d.seqWrite core (x.rowOff r) (packRow x.ofmt es) pois).seqWrite core (x.sclOff r) sc pois
        d.modSeq core fun q => { q with drains := q.drains.map fun (y : DrainFl) =>
          if y.n == x.n then { y with written := r + 1, addq := y.addq.drop 1 } else y })

/-! ## Flags (R175, R187, R221) -/

/-- SETF: writes the flag, or adds to it, in an ac in which its bank grants the write (log 149). -/
def execSetf (core : Nat) (s : State) :=
  s.to (s.dev.issueSeq core 0x40 fun d w =>
    let f := fld w 8 6
    match d.takeUnits core 4 0 [flagOffset f / 64 * 64] with
    | (d, false) => d
    | (d, true) =>
    let old := d.flag core f
    let v := BitVec.ofNat 32 (fld w 32 32)
    let new := if bit w 14 then old.1 + v else v
    (d.seqWrite core (flagOffset f) (leBytes 4 new.toNat) (bit w 14 && old.2)).modSeq core fun q =>
      { (q.advance 1) with lastWrite := max q.lastWrite q.ac })

/-- WAITF whose flag is poisoned, or at its threshold. -/
def Dev.waitfBody (d : Dev) (c w : Nat) : Dev :=
  if (d.waitfSees c w).2 then d.seqFault c 4 0 else d.modSeq c fun q => q.advance 1

/-- What the code of a WAITF's flag shows when the flag is evaluated (R256). -/
def Dev.waitfEcc (d : Dev) (c : Nat) (ecc : EccObs) : Dev :=
  let w := d.fetchWord c (d.core c).seq.pc
  if d.seqMay c && seqOp? w == some 0x41 then d.spadEcc c (flagOffset (fld w 8 6) / 64 * 64) ecc else d

def execWaitf (core : Nat × EccObs) (s : State) :=
  s.to ((s.dev.waitfEcc core.1 core.2).issueSeq core.1 0x41 fun d w => d.waitfBody core.1 w)

/-- WAITF_SATISFIED: a WAITF that is held goes on or faults. -/
def execWaitfSatisfied (core : Nat × EccObs) (s : State) :=
  if (s.dev.core core.1).seq.st == 3 then execWaitf core s else s.to s.dev

/-- SEQ_UNIT_FREE (R182): the instruction that is held on its unit issues. -/
def execSeqUnitFree (core : Nat × EccSeen) (s : State) :=
  let d := s.dev
  let q := (d.core core.1).seq
  if q.st != 2 then s.to d
  else match fld (d.fetchWord core.1 q.pc) 0 8 with
    | 0x10 => execLdw core s
    | 0x11 => execLdwt core s
    | 0x20 => execPass core s
    | 0x31 => execAdrn core s
    | _ => s.to d

/-! ## Programs (R188, R216, R245) -/

/-- END: the program completes at the ac after the later of this ac and its last write. -/
def execEnd (core : Nat) (s : State) :=
  s.to (s.dev.issueSeq core 0x7F fun d _ => d.modSeq core fun q =>
    { (q.advance 1) with pc := q.pc, endAt := some (max q.ac q.lastWrite + 1) })

/-- Stored rows of a load that the program's end cuts short are read at once (log 21). -/
def Dev.finishStored (d : Dev) (c : Nat) : Nat → Dev
  | 0 => d.takeBlock c
  | n + 1 => if ((d.core c).seq.load.any fun l => l.done < 64) then (d.readStored c).finishStored c n else d.takeBlock c

/-- PROGRAM_COMPLETE (R188, R194). -/
def execProgramComplete (core : Nat) (s : State) :=
  let d := s.dev
  let q := (d.core core).seq
  s.to (
    if !d.arrayRuns core || !(q.endAt.any fun e => e ≤ q.ac) || q.writeDue.isSome || q.convDue.isSome then d
    else
      let d := d.finishStored core 64
      let d := d.modSeq core fun q => { q with st := 0, endAt := none, passes := [], drains := [], loops := [] }
      let d := d.modNode q.node fun n => { n with progsLeft := n.progsLeft - 1 }
      d.haltCore core)

/-- The partner has captures that this core has not compared (R470). -/
def Dev.checksPending (d : Dev) (c : Nat) : Bool :=
  (d.core c).checking || (d.core (partnerOf c)).captures.any fun x => x.complete

/-- A tile row at the start of a program: no ac of it has written the row yet. -/
def TileRow.settled (x : TileRow) : TileRow := { x with prev := x.vals, prevPois := x.pois, at_ := 0 }

/-- ARRAY_PROGRAM_START (R216, R245, R383, R470). -/
def execArrayProgramStart (core : Nat) (s : State) :=
  let d := s.dev
  let k := d.core core
  s.to (match k.progQueue with
    | [] => d
    | n :: rest =>
      match d.node? n with
      | none => d
      | some nd =>
        if k.seq.st != 0 || k.saved || k.testing || !(d.ctx nd.cid).live || d.checksPending core then d
        else
          let x := d.ctx nd.cid
          let fresh := k.prevCid != some nd.cid
          let start := if fresh then d.time + 16 else d.time
          let seed := BitVec.ofNat 64 (nd.field 0x38 8)
          let l := (d.logicalOf nd.pitch core).getD 0
          d.modCore core fun k => { k with
            progQueue := rest, prevCid := some nd.cid, readyAc := []
            block := if fresh then {} else k.block
            tiles := if fresh then [] else k.tiles.map fun t => (t.1, t.2.settled)
            seq := { st := 1, pc := nd.field 0x2C 2, node := n, cid := nd.cid, layer := nd.layer, oper := nd.oper
                     compat := x.compat, audit := x.audit, base := k.seq.base, from_ := start
                     seed := if seed = 0 then none else some (seedFor seed l) } })

/-! ## The progress of ac (R180, R181, R217, R218) -/

/-- The next instruction could issue in this ac. -/
def Dev.seqDue (d : Dev) (c : Nat) : Bool :=
  let q := (d.core c).seq
  let w := d.fetchWord c q.pc
  d.seqMay c && (!seqWordOk q.pc w || q.unitFree w && (fld w 0 8 != 0x41 || d.waitfReady c w))

/-- The cause of a freeze in the ending cc, 0 for none (R217; log 11). -/
def Dev.freezeCause (d : Dev) (c : Nat) : Nat :=
  let k := d.core c
  let q := k.seq
  if q.st == 5 || (q.stepping == 2 && q.issueAt ≤ q.ac) then 5
  else if k.saved || k.testing then 4
  else if !d.dutyRuns c then 3
  else if q.convDue.isSome || q.addendDue.isSome || q.writeDue.isSome then 2
  else if q.enterDue.isSome || q.storedDue || q.loadDue || d.seqDue c then 1
  else 0

/-- The converter and the feeder read the addend row and the stored row of the ac, once the banks grant all of it. -/
def Dev.acReads (d : Dev) (c : Nat) : Dev :=
  if !d.arrayRuns c then d
  else
    let d := if (d.core c).seq.addendDue.isNone then d
      else match d.takeUnits c 3 3 (d.core c).seq.addendUnits with
        | (d, ok) => if ok then d.readAddend c else d
    if !(d.core c).seq.storedDue then d
    else match d.takeUnits c 4 2 (d.core c).seq.storedUnits with
      | (d, ok) => if ok then d.readStored c else d

/-- The cc of ac 0 seeds the core's random source, if the kernel carries a seed (R245). -/
def Dev.kernelSeed (d : Dev) (c : Nat) : Dev :=
  match (d.core c).seq.seed with
  | none => d
  | some v => (d.seedDue c 1 v).modSeq c fun q => { q with seed := none }

/-- One cc of a running array program. Its ac are counted from the one in which its first instruction issues (R180). -/
def Dev.tickArray (d : Dev) (c : Nat) : Dev :=
  let q := (d.core c).seq
  if q.st == 0 || d.time < q.from_ then d
  else
    let d := d.acReads c
    let q := (d.core c).seq
    let cause := d.freezeCause c
    let id : Option Ident := some { cid := q.cid, layer := q.layer, oper := q.oper }
    let p := d.pitchOfCore c
    let d := d.modCore c fun k => { k with frzLast := cause }
    if cause != 0 then
      let d := d.modCore c fun k => { k with frz := tmod 0 k.frz cause fun n => satAdd (2 ^ 56 - 1) n 1 }
      (d.count p 3 1 id).count p (match cause with | 1 => 0x11 | 2 => 0x12 | 3 => 4 | 4 => 0x13 | _ => 0x14) 1 id
    else if !q.begun then d
    else if q.endAt.any fun e => e ≤ q.ac then d
    else
      let d := ((d.kernelSeed c).count p 2 1 id).modCtx q.cid fun x => { x with arrayAc := x.arrayAc + 1 }
      d.modSeq c fun q => { q with
        ac := q.ac + 1, passes := q.passes.filter fun p => p.written < p.m
        drains := q.drains.filter fun x => x.written < x.rows }

/-- What the two streams of a core fetch in a cc that ends (R156 to R158, R195): banks not locked of the words that come
next. A group's fetch gives way to the sequencer's from the same bank (log 151). -/
def Dev.tickFetch (d : Dev) (c : Nat) : Dev :=
  d.modCore c fun k =>
    let q := k.seq
    let taken (pc : Nat) : Bool := q.issuedAt == some d.time && bankOf q.pc == bankOf pc
    let slots := k.slots.map fun g =>
      if g.2.fetchAt == d.time + 1 && taken g.2.pc then (g.1, { g.2 with fetchAt := d.time + 2 }) else g
    let seqs := if 1 ≤ q.st && q.st ≤ 4 && q.endAt.isNone && !k.saved then [q.pc] else []
    let groups := (slots.filter fun g => !g.2.halted && !g.2.stack.isEmpty && g.2.fetchAt ≤ d.time + 1).map fun g => g.2.pc
    let k := ((seqs ++ groups).filter fun pc => !k.bankLocked pc).foldl Core.touch { k with slots := slots }
    { k with touched := k.touchNow }

def Dev.tickFetches (d : Dev) : Dev := d.forEach (tkeys d.cores) fun d c => d.tickFetch c

/-- Every running array program, in a cc that ends. -/
def Dev.tickArrays (d : Dev) : Dev := d.forEach (tkeys d.cores) fun d c => d.tickArray c

end Sys2Proof.Machine
end

