-- ==== Sys2Proof/Machine/Chain.lean ====
section
/-!
DEFINITION. The chain pins: token enumeration (R48, R79 to R82), frames and forwarding (R44 to R51), heartbeats and
loss of the upstream neighbour (R52 to R55), boot reports and entry into service (R83, R489).
-/

namespace Sys2Proof.Machine
open Sys2Proof

/-- The head of the chain: STRAP_HEAD sampled as 1. -/
def Dev.isHead (d : Dev) : Bool := d.power.straps.getLsbD 4

/-- cc that a frame of this payload takes: 3 + 32 + 8·bytes + 16 + 1 µs (R45). -/
def frameCc (f : ChainFrame) : Nat := ccUs (52 + 8 * f.payload.length)

/-- A frame goes out on CHN_OUT from now on. -/
def Dev.chnOut (d : Dev) (f : ChainFrame) (own : Bool) (delay : Nat) : Dev :=
  (d.emit (.chain f)).modChain fun c => { c with
    busyUntil := d.time + delay + frameCc f, ownBusy := own, bufBusy := false }

/-- The end of a frame forwarded cut-through: its stop bit leaves 2 µs after it arrived (R49). -/
def Dev.chnThrough (d : Dev) (f : ChainFrame) : Dev :=
  (d.emit (.chain f)).modChain fun c => { c with busyUntil := d.time + ccUs 2, ownBusy := false, bufBusy := false }

/-- The frame's time on CHN_OUT has not ended. -/
def Dev.chnBusy (d : Dev) : Bool := decide (d.time < d.chain.busyUntil)

/-- A frame is being received on CHN_IN; none lasts longer than the 532 µs of 60 B of payload (R45). -/
def Dev.chnReceiving (d : Dev) : Bool := d.chain.frameStart && decide (d.time < d.chain.frameAt + ccUs 532)

/-- CHN_OUT carries a frame of this module or of the buffer, or one waits in the buffer: what arrives waits too, so
that frames leave in the order of their arrival (R51). -/
def Dev.chnHolds (d : Dev) : Bool := (d.chain.ownBusy || d.chain.bufBusy) && d.chnBusy || !d.chain.buffered.isEmpty

/-- A frame is forwarded cut-through while it arrives (R49): CHN_OUT follows CHN_IN. -/
def Dev.chnFollows (d : Dev) : Bool := 2 ≤ d.chain.phase && d.chnReceiving && !d.chain.rxHold

def ownFrame (d : Dev) (typ : BitVec 4) (dest : BitVec 12) (payload : List Byte) : ChainFrame :=
  sealFrame { typ := typ, dest := dest, src := d.chain.devId, payload := payload, crc := 0, stop := true }

/-- First 8 B of the SHA-384 of the RSA identity public key (R489). -/
def idFingerprint : List Byte := (leBytes 48 (Config.sha384 Config.rsaIdentityPub).toNat).take 8

/-- ID_FINGERPRINT, then BOOT_REPORT or RECOVERY_NOTICE, of a non-head module (R83, R489). -/
def Dev.queueReport (d : Dev) (kind : Nat) : Dev :=
  if d.isHead then d else
  let word := kind + 2 ^ 8 * (if d.boot.recovery then 0xF else d.boot.stage % 16) + 2 ^ 12 * (d.boot.result % 16)
    + 2 ^ 16 * (d.boot.image.digest.toNat % 2 ^ 16)
  d.modChain fun c => { c with own := c.own ++
    [ownFrame d 2 0 (leBytes 4 0x10 ++ idFingerprint), ownFrame d 2 0 (leBytes 4 word)] }

/-- A module enters phase 2; one in recovery sends its notice. -/
def Dev.enterPhase2 (d : Dev) : Dev :=
  let d := d.modChain fun c => { c with phase := 2, tokenDue := none, tokenEnters2 := false }
  let d := if d.boot.stage = 6 then d.modBoot fun b => { b with stage := 7, stageEnd := tset b.stageEnd 7 d.rootCc } else d
  if d.boot.recovery then d.queueReport 0x03 else d

/-- A module enters phase 3: the guy line. -/
def Dev.enterPhase3 (d : Dev) : Dev :=
  d.modChain fun c => { c with phase := 3, heardAt := d.time, heartbeatAt := d.time + ccUs 100, frameStart := false }

/-- Stage 7 has been reached: stages 1 to 6 are complete and enumeration has not run, or recovery waits with its
window ready (R79). -/
def Dev.atStage7 (d : Dev) : Bool := d.boot.stage = 6 && !d.boot.skipEnum

/-- Entry into phase 1 (R79): the head at stage 7, any other module when CHN_IN is high as well. CHN_OUT goes high,
except while R53 holds it low. -/
def Dev.tryPhase1 (d : Dev) : Dev :=
  if d.chain.phase = 0 && (d.isHead && d.atStage7
      || !d.isHead && (d.atStage7 || d.boot.recovery) && d.chain.chnInHigh) then
    d.modChain fun c => { c with phase := 1, phase1At := d.time, chnOutHigh := !d.chnSilent }
  else d

/-- CHN_IN_HIGH. -/
def Dev.chnInHigh (d : Dev) : Dev :=
  (d.modChain fun c => { c with chnInHigh := true, chnInHighAt := d.time }).tryPhase1

/-- HEAD_TOKEN_START (R80): CHN_IN has been high for 100 µs. -/
def Dev.headTokenStart (d : Dev) : Dev :=
  if d.isHead && d.chain.phase = 1 && d.chain.chnInHigh && !d.chain.headTokenSent && !d.chnSilent
      && max d.chain.chnInHighAt d.chain.phase1At + ccUs 100 ≤ d.time then
    let d := d.modChain fun c => { c with devId := 0, idValid := true, headTokenSent := true, headTokenAt := d.time }
    d.chnOut (ownFrame d 1 1 []) true 0
  else d

/-- Frames that a module may act on in its phase (R47). -/
def frameValidIn (typ : BitVec 4) (phase : Nat) : Bool :=
  typ == 1 && phase == 1 || typ == 2 && phase == 2 || (typ == 3 || typ == 4) && phase == 3

/-- A stop bit arrives on CHN_IN. -/
def Dev.chnHeard (d : Dev) : Dev := d.modChain fun c => { c with heardAt := d.time, frameStart := false }

/-- Cut-through forwarding with 2 µs of delay; or the two-frame buffer, where the frame began to arrive while CHN_OUT
carried a frame of this module or others waited before it (R49, R51). A frame with a wrong CRC leaves with its stop bit
low (R50). -/
def Dev.chnForward (d : Dev) (f : ChainFrame) : Dev :=
  let f := if frameOk f then f else { f with stop := false }
  let hold := d.chain.rxHold || d.chnHolds
  let d := d.modChain fun c => { c with rxHold := false }
  if d.chnSilent then d
  else if hold then
    d.modChain fun c =>
      if c.buffered.length < 2 then { c with buffered := c.buffered ++ [f] }
      else { c with drop := c.drop.bump 0xFF 1 d.time }
  else d.chnThrough f

/-- The ID that the module's frames carry names it alone: its ID is valid, or it is the head, whose ID is 0 although its
enumeration failed (R80, R82). -/
def Dev.chnKnown (d : Dev) : Bool := d.chain.idValid || d.isHead

/-- A frame of this module's own, which it removes (R50). -/
def Dev.chnOwn (d : Dev) (f : ChainFrame) : Bool := d.chnKnown && f.src == d.chain.devId

/-- A frame addressed to this module, or to every module (R49). -/
def Dev.chnMine (d : Dev) (f : ChainFrame) : Bool := f.dest == 0xFFF || d.chnKnown && f.dest == d.chain.devId

/-- A reserved TYPE (R45). -/
def typReserved (typ : BitVec 4) : Bool := typ == 0 || 5 ≤ typ.toNat

/-- A frame that is counted and not acted on because CRC or stop bit is wrong (R46, GLITCH). -/
def Dev.chnDiscard (d : Dev) : Dev := d.modChain fun c => { c with glitch := c.glitch.bump 0xFF 1 d.time }

/-- A frame that the module may not act on: removed if it is its own (R50), and counted and sent on if not: a foreign
one unchanged (R47), one with a wrong CRC or stop bit outside phase 1 with its stop bit low (R46, R50). -/
def Dev.chnPass (d : Dev) (f : ChainFrame) : Dev :=
  if !frameOk f then
    let d := d.chnDiscard
    if d.chain.phase = 1 || d.chnOwn f then d else d.chnForward f
  else if d.chnOwn f then d
  else (d.modChain fun c => { c with foreign := c.foreign.bump 0xFF 1 d.time }).chnForward f

/-- SERVICE_SEND: the head sends SERVICE once it holds a report of each of the other modules and its stage 10 has
ended (R83); a ring of one enters phase 3 when its own frame returns. A head whose enumeration failed before the lap does
not know N and waits for no report (DESIGN CHOICE, log 138). -/
def Dev.serviceIfReady (d : Dev) : Dev :=
  if d.isHead && d.chain.phase = 2 && d.fullService && !d.chain.serviceSent
      && ((List.range d.chain.ringSize).all fun i => i == 0 || (lookup? d.chain.reports i).isSome) then
    d.modChain fun c => { c with serviceSent := true, own := c.own ++ [ownFrame d 2 0xFFF (leBytes 4 0x02)] }
  else d

/-- What a SIDE frame in phase 2 does at its receiver (R83, R489). -/
def Dev.sideAct (d : Dev) (f : ChainFrame) : Dev :=
  let w0 := leNat (f.payload.take 4)
  let kind := w0 % 256
  if d.isHead then
    if kind = 0x10 then
      let fp := BitVec.ofNat 64 (leNat ((f.payload.drop 4).take 8))
      d.modChain fun c => { c with fingerprints := tset c.fingerprints f.src.toNat fp }
    else if kind = 0x01 || kind = 0x03 then
      (d.modChain fun c => { c with reports := tset c.reports f.src.toNat (BitVec.ofNat 32 w0) }).serviceIfReady
    else d
  else if kind = 0x02 then
    if d.fullService || d.boot.recovery then d.enterPhase3 else d.modChain fun c => { c with serviceSeen := true }
  else d

/-- A SIDE, FAULT or DOWN frame of type `typ` has been received, or one of a reserved type (R46 to R50). -/
def Dev.chainFrameRx (d : Dev) (typ : BitVec 4) (f : ChainFrame) : Dev :=
  if d.chain.phase = 0 || (f.typ != typ && !typReserved f.typ) then d
  else
    let d := d.chnHeard
    if !frameOk f || !frameValidIn f.typ d.chain.phase then d.chnPass f
    else if d.chnOwn f then
      -- R50: the module's own frame is removed; the head's SERVICE has gone round (R83)
      if typ == 2 && leNat (f.payload.take 4) % 256 == 2 && d.isHead && d.chain.serviceSent then d.enterPhase3 else d
    else
      let d := d.chnForward f
      let d := if d.chnMine f then d.modChain fun c => { c with kept := f :: c.kept } else d
      if typ == 2 && d.chnMine f then d.sideAct f else d

/-- TOKEN_FRAME_RX (R80, R81). -/
def Dev.tokenRx (d : Dev) (f : ChainFrame) : Dev :=
  if d.chain.phase = 0 || (f.typ != 1 && !typReserved f.typ) then d
  else
    let d := d.chnHeard
    if !frameOk f || !frameValidIn f.typ d.chain.phase then d.chnPass f
    else if d.isHead then
      if !d.chain.headTokenSent then d
      else if d.chain.closingSent then (if f.dest == 0xFFF then d.enterPhase2 else d)
      else if d.chain.tokenDue.isSome then d
      else
        d.modChain fun c => { c with
          ringSize := f.src.toNat + 1, upId := f.src
          tokenDue := some (ownFrame d 1 0xFFF [], d.time + ccUs 8) }
    else if d.chain.idValid then
      d.modChain fun c => { c with tokenDue := some (f, d.time + ccUs 8), tokenEnters2 := true }
    else if d.chain.chainErr then d
    else if f.dest = 0 then d.modChain fun c => { c with chainErr := true }
    else
      let d := d.modChain fun c => { c with devId := f.dest, idValid := true, upId := f.src }
      d.modChain fun c => { c with tokenDue := some (ownFrame d 1 (f.dest + 1) [], d.time + ccUs 8) }

/-- TOKEN_SEND (R48): 8 µs after the stop bit of the received frame. -/
def Dev.tokenSend (d : Dev) : Dev :=
  match d.chain.tokenDue with
  | some (f, t) =>
    if d.chain.phase = 1 && t ≤ d.time && !d.chnSilent then
      (d.modChain fun c => { c with tokenDue := none, closingSent := c.closingSent || d.isHead }).chnOut f true 0
    else d
  | none => d

/-- The stop bit of a resent TOKEN frame has left: phase 2 begins (R81). -/
def Dev.tickChain (d : Dev) : Dev :=
  if d.chain.phase = 1 && d.chain.tokenEnters2 && d.chain.tokenDue.isNone && d.chain.busyUntil ≤ d.time then d.enterPhase2
  else d

/-- ENUM_TIMEOUT (R82). -/
def Dev.enumTimeout (d : Dev) : Dev :=
  let c := d.chain
  let noRing := d.isHead && !c.chnInHigh && c.phase1At + ccUs 800000 ≤ d.time
  let noLap := d.isHead && c.headTokenSent && c.ringSize == 0 && c.headTokenAt + ccUs 300000 ≤ d.time
  let late := c.phase1At + ccUs 1300000 ≤ d.time
  if c.phase = 1 && (noRing || noLap || late) then
    ((d.modChain fun c => { c with chainErr := true, idValid := false }).modBoot fun b =>
      { b with result := 0xA }).enterPhase2
  else d

/-- CHN_FRAME_SEND (R51): the line has been idle for 2 µs. -/
def Dev.chnFrameSend (d : Dev) : Dev :=
  match d.chain.own with
  | [] => d
  | f :: rest =>
    if 2 ≤ d.chain.phase && !d.chnSilent && d.chain.buffered.isEmpty && !d.chnFollows
        && (d.chain.busyUntil == 0 || d.chain.busyUntil + ccUs 2 ≤ d.time) then
      (d.modChain fun c => { c with own := rest }).chnOut f true 0
    else d

/-- CHN_BUFFERED_FORWARD (R51). -/
def Dev.chnBufferedForward (d : Dev) : Dev :=
  match d.chain.buffered with
  | [] => d
  | f :: rest =>
    if d.chnSilent || d.chnBusy then d
    else ((d.modChain fun c => { c with buffered := rest }).chnOut f false 0).modChain fun c => { c with bufBusy := true }

/-- CHN_HEARTBEAT_SEND (R52): the 100 µs timer expires; one that fell due during a frame waits until 2 µs after it. -/
def Dev.chnHeartbeatSend (d : Dev) : Dev :=
  if d.chain.phase = 3 && !d.chnSilent && d.chain.heartbeatAt ≤ d.time then
    if d.chnFollows then d
    else if d.chnBusy || (d.chain.heartbeatAt < d.chain.busyUntil && d.time < d.chain.busyUntil + ccUs 2) then
      d.modChain fun c => { c with heartbeatAt := c.busyUntil + ccUs 2 }
    else (d.emit .heartbeat).modChain fun c => { c with heartbeatAt := d.time + ccUs 100 }
  else d

/-- The upstream neighbour is declared lost once: UP_LOST and one DOWN frame (R54, R55). -/
def Dev.declareLost (d : Dev) : Dev :=
  if d.chain.phase = 3 && !d.chain.upLost then
    d.modChain fun c => { c with
      upLost := true, goodSince := none
      own := c.own ++ [ownFrame d 4 0xFFF (leBytes 4 c.upId.toNat)] }
  else d

/-- LEVEL_FAULT (R44, R54). -/
def Dev.levelFault (d : Dev) : Dev :=
  if d.chain.phase = 0 then d.modChain fun c => { c with chnInHigh := false }
  else (d.modChain fun c => { c with chnInHigh := false, goodSince := none, frameStart := false }).declareLost

/-- CHN_PULSE_RX (R44): a low pulse on an idle line, by its width. -/
def Dev.chnPulse (d : Dev) (ns : Nat) : Dev :=
  if d.chain.phase = 0 then d
  else if 500 ≤ ns && ns ≤ 1400 then
    d.modChain fun c => { c with
      heardAt := d.time
      frameStart := false
      goodLast := d.time
      goodSince := if c.upLost then (match c.goodSince with
        | some t => if c.goodLast + ccUs 300 < d.time then some d.time else some t
        | none => some d.time) else none }
  else if 1600 ≤ ns && ns ≤ 2400 then
    d.modChain fun c => { c with frameStart := true, frameAt := d.time, rxHold := d.chnHolds }
  else if ns < 20000 then d.modChain fun c => { c with glitch := c.glitch.bump 0xFF 1 d.time }
  else d.levelFault

/-- UPSTREAM_LOST (R54): 300 µs with neither heartbeat nor stop bit, a frame's own time not counted. -/
def Dev.upstreamLost (d : Dev) : Dev :=
  let frame := if d.chain.frameStart then ccUs 532 else 0
  if !d.chnReceiving && d.chain.heardAt + ccUs 300 + frame ≤ d.time then d.declareLost else d

/-- UP_LOST_CLEAR (R55): 1 ms of correct heartbeats, from the first after the loss to the last, which may not be older
than the 300 µs that would be a loss (DEDUCED, log 139). -/
def Dev.upLostClear (d : Dev) : Dev :=
  match d.chain.upLost, d.chain.goodSince with
  | true, some t =>
    if t + ccUs 1000 ≤ d.chain.goodLast && d.time ≤ d.chain.goodLast + ccUs 300 then d.modChain fun c => { c with upLost := false, goodSince := none } else d
  | _, _ => d

/-- SERVICE_TIMEOUT (R83): 1,000 ms after the head's stage 10; missing reports are recorded (event kind 0x16). -/
def Dev.serviceTimeout (d : Dev) : Dev :=
  if d.isHead && d.chain.phase = 2 && d.fullService && !d.chain.serviceSent
      && tget 0 d.boot.stageEnd 10 + 50000000 ≤ d.rootCc then
    let missing := (List.range d.chain.ringSize).filter fun i => i != 0 && (lookup? d.chain.reports i).isNone
    let d := d.forEach missing fun d i => d.event 0x16 i 0
    d.modChain fun c => { c with serviceSent := true, own := c.own ++ [ownFrame d 2 0xFFF (leBytes 4 0x02)] }
  else d

/-! ## The commands -/

def execChnInHigh (s : State) : Host.Outcome State Fault Refusal := s.to s.dev.chnInHigh
def execHeadTokenStart (s : State) : Host.Outcome State Fault Refusal := s.to s.dev.headTokenStart
def execChnPulseRx (ns : Nat) (s : State) : Host.Outcome State Fault Refusal := s.to (s.dev.chnPulse ns)
def execLevelFault (s : State) : Host.Outcome State Fault Refusal := s.to s.dev.levelFault
def execTokenFrameRx (f : ChainFrame) (s : State) : Host.Outcome State Fault Refusal := s.to (s.dev.tokenRx f)
def execTokenSend (s : State) : Host.Outcome State Fault Refusal := s.to s.dev.tokenSend
def execEnumTimeout (s : State) : Host.Outcome State Fault Refusal := s.to s.dev.enumTimeout
def execSideFrameRx (f : ChainFrame) (s : State) : Host.Outcome State Fault Refusal := s.to (s.dev.chainFrameRx 2 f)
def execFaultFrameRx (f : ChainFrame) (s : State) : Host.Outcome State Fault Refusal := s.to (s.dev.chainFrameRx 3 f)
def execDownFrameRx (f : ChainFrame) (s : State) : Host.Outcome State Fault Refusal := s.to (s.dev.chainFrameRx 4 f)
def execChnFrameSend (s : State) : Host.Outcome State Fault Refusal := s.to s.dev.chnFrameSend
def execChnBufferedForward (s : State) : Host.Outcome State Fault Refusal := s.to s.dev.chnBufferedForward
def execChnHeartbeatSend (s : State) : Host.Outcome State Fault Refusal := s.to s.dev.chnHeartbeatSend
def execUpstreamLost (s : State) : Host.Outcome State Fault Refusal := s.to s.dev.upstreamLost
def execUpLostClear (s : State) : Host.Outcome State Fault Refusal := s.to s.dev.upLostClear
def execServiceTimeout (s : State) : Host.Outcome State Fault Refusal := s.to s.dev.serviceTimeout

/-- STEWARD_STOP (R53): CHN_OUT is low from now on. -/
def execStewardStop (s : State) : Host.Outcome State Fault Refusal :=
  s.to (s.dev.modChain fun c => { c with stewardStopped := true, chnOutHigh := false })

end Sys2Proof.Machine
end

