-- ==== Sys2Proof/Machine/Fabric.lean ====
section
/-!
DEFINITION. The Tchiari Link fabric: flits and the retry protocol (R406 to R409, R423, R425), packets in bytes (R414,
R415), receivers (R416 to R420), transit (R411 to R413), shares (R421, R422), retrains (R426 to R429), and
unreachable devices (R430 to R435).
-/

namespace Sys2Proof.Machine
open Sys2Proof

/-! ## Packets as bytes (R414) -/

def hasPayload (cls : Nat) : Bool := (2 ≤ cls && cls ≤ 6) || cls == 10
def hasExt (cls : Nat) (attach : Bool) : Bool := attach || cls == 7

def packetBytes (p : Packet) : List Byte :=
  let c := p.cls.toNat
  leBytes 1 (c + 16 * b2n p.lc + 32 * b2n p.attach + 64 * b2n p.vc1) ++ [p.poison]
    ++ leBytes 2 (p.dst.toNat + 4096 * p.dim.toNat) ++ leBytes 2 p.src.toNat
    ++ leBytes 2 (p.len % 1024 + 1024 * p.addType.toNat) ++ leBytes 6 (p.addr % 2 ^ 44)
    ++ leBytes 1 p.hops ++ leBytes 1 (p.sender % 128) ++ leBytes 2 p.tag.toNat ++ [p.state, 0]
    ++ leBytes 4 (p.finCnt % 2 ^ 24)
    ++ (if hasExt c p.attach then leBytes 8 (p.pegAddr % 2 ^ 44) ++ leBytes 8 p.pegAmt.toNat else [])
    ++ (if hasPayload c then p.payload else [])

/-- Credits of 64 B that a packet takes (R409). -/
def packetCredits (p : Packet) : Nat := ((packetBytes p).length + 63) / 64

/-- The channel of a packet: requests VC0 or VC1, all else VC2. -/
def packetVc (p : Packet) : Nat := if isRequest p then b2n p.vc1 else 2

/-- Header fields of at least 24 bytes; `rsvd` says that a reserved field is nonzero. -/
def parseHeader (b : List Byte) : Packet :=
  let w (o n : Nat) : Nat := leNat ((b.drop o).take n)
  let cls := fld (w 0 1) 0 4
  let req := cls == 1 || (3 ≤ cls && cls ≤ 7)
  { cls := BitVec.ofNat 4 cls, lc := bit (w 0 1) 4, attach := bit (w 0 1) 5, vc1 := bit (w 0 1) 6
    poison := BitVec.ofNat 8 (w 1 1), dst := BitVec.ofNat 12 (w 2 2), dim := BitVec.ofNat 2 (fld (w 2 2) 12 2)
    src := BitVec.ofNat 12 (w 4 2), len := fld (w 6 2) 0 10, addType := BitVec.ofNat 3 (fld (w 6 2) 10 3)
    addr := fld (w 8 6) 0 44, hops := w 14 1, sender := fld (w 15 1) 0 7, tag := BitVec.ofNat 16 (w 16 2)
    state := BitVec.ofNat 8 (w 18 1), finCnt := fld (w 20 4) 0 24, pegAddr := 0, pegAmt := 0
    rsvd := bit (w 0 1) 7 || fld (w 2 2) 14 2 != 0 || fld (w 4 2) 12 4 != 0 || fld (w 6 2) 13 3 != 0
      || fld (w 8 6) 44 4 != 0 || bit (w 15 1) 7 || w 19 1 != 0 || fld (w 20 4) 24 8 != 0
      || (req && fld (w 18 1) 2 6 != 0)
    payload := [] }

/-- Takes whole packets off a stream of bytes; a zero where a CLASS byte should stand begins a flit's unused bytes. -/
def parsePackets : Nat → List Byte → List Packet × List Byte
  | 0, b => ([], b)
  | n + 1, b =>
    match b with
    | [] => ([], [])
    | b0 :: _ =>
      if b0 = 0 then ([], [])
      else if b.length < 24 then ([], b)
      else
        let h := parseHeader b
        let c := h.cls.toNat
        let e := if hasExt c h.attach then 16 else 0
        let k := if hasPayload c then h.len else 0
        if b.length < 24 + e + k then ([], b)
        else
          let x := (b.drop 24).take e
          let p := { h with
            pegAddr := leNat (x.take 8) % 2 ^ 44, pegAmt := BitVec.ofNat 64 (leNat (x.drop 8))
            rsvd := h.rsvd || leNat (x.take 8) ≥ 2 ^ 44
            payload := (b.drop (24 + e)).take k }
          let r := parsePackets n (b.drop (24 + e + k))
          (p :: r.1, r.2)

/-! ## Management packets -/

/-- Subtypes of MGMT in ADDR[7:0]. Where the manual names a device or a port without saying where it stands, the model
puts it in ADDR[19:8] (log 18). -/
def mgmtPacket (own dst sub arg : Nat) (payload : List Byte) : Packet :=
  { blankPacket with cls := 10, dst := BitVec.ofNat 12 dst, src := BitVec.ofNat 12 own, len := payload.length
                     addr := sub + 256 * arg, payload := payload }

/-- A management packet by R411; it is dropped where no port leads on. -/
def Dev.sendMgmt (d : Dev) (p : Packet) : Dev :=
  match d.route p.dst.toNat with
  | .port n => d.enqueue n 65 p
  | _ => d

/-- A reply (R416, R430): its own device marks the receiver when no port leads there. -/
def Dev.sendReply (d : Dev) (p : Packet) : Dev :=
  match d.route p.dst.toNat with
  | .port n => d.enqueue n 64 p
  | .self => d
  | _ => d.markUnreach p.dst.toNat

def Dev.replyTo (d : Dev) (p : Packet) (cls status : Nat) (payload : List Byte) (pois : Byte) : Packet :=
  { blankPacket with
    cls := BitVec.ofNat 4 cls, dst := p.src, src := BitVec.ofNat 12 d.ownId, len := payload.length
    addr := if cls == 2 then p.addr else 0, tag := p.tag, state := BitVec.ofNat 8 status, payload := payload
    poison := pois }

def Dev.ack (d : Dev) (p : Packet) (status : Nat) : Dev := d.sendReply (d.replyTo p 8 status [] 0)

/-- UNREACH (R430, R433): sent to the packet's source, or acted on when that is this device. -/
def Dev.answerUnreach (d : Dev) (p : Packet) (loss : Bool) : Dev :=
  let c := p.cls.toNat
  if c == 9 || c == 10 then d
  else if p.src.toNat == d.ownId then d.markUnreach p.dst.toNat
  else
    let d := d.modFab fun f => { f with unreachSent := f.unreachSent.bump 0xFFFF 1 d.time }
    let u := { blankPacket with cls := 9, dst := p.src, src := BitVec.ofNat 12 d.ownId, tag := p.tag
                                addr := p.dst.toNat + 4096 * b2n loss }
    match d.route p.src.toNat with
    | .port n => d.enqueue n 65 u
    | _ => d

/-! ## Flits (R407) -/

def flitHeader (f : Flit) : List Byte :=
  leBytes 2 (f.seq.toNat + 4096 * f.kind.toNat) ++ leBytes 2 (f.ack.toNat + 4096 * b2n f.nak)
    ++ leBytes 2 (f.creditVc.toNat + 4 * (f.credit % 1024)) ++ leBytes 1 (b2n f.enc + 2 * b2n f.keyIdx) ++ [0]

/-- Bytes 0 to 251 of a flit: 244 B of BODY, or 228 B of ciphertext and the tag. -/
def flitBytes (f : Flit) : List Byte :=
  flitHeader f ++ (if f.enc then (f.body ++ zeros 228).take 228 ++ (f.tag ++ zeros 16).take 16
    else (f.body ++ zeros 244).take 244)

def Port.keyCtlBit (q : Port) (k : Nat) : Bool := q.keyCtl.getLsbD k
def Port.key (q : Port) (k : Nat) : KeySlot := tget {} q.keys k

/-- The GCM nonce (R423): the lower ID, whether the sender holds the higher one, and the slot's flit count. -/
def gcmNonce (sender other : Nat) (count : W64) : BitVec 96 :=
  count ++ BitVec.ofNat 32 (min sender other + 4096 * b2n (other < sender))

/-- Covered flits leave the retry buffer, and their packets are delivered (R408). -/
def dropThrough {α : Type} (seqOf : α → BitVec 12) (ack : BitVec 12) (l : List α) : List α :=
  match l.findIdx? fun x => seqOf x == ack with
  | some i => l.drop (i + 1)
  | none => l

/-- Sequence numbers that an ACK covers: those of the retry buffer up to it. -/
def coveredBy (ack : BitVec 12) (retry : List Flit) : List (BitVec 12) :=
  match retry.findIdx? fun f => f.seq == ack with
  | some i => (retry.take (i + 1)).map fun f => f.seq
  | none => []

/-- ACK, NAK and CREDIT of a flit. -/
def Port.takeAck (q : Port) (f : Flit) (t : Nat) : Port :=
  let cov := coveredBy f.ack q.retry
  let retry := dropThrough (fun x : Flit => x.seq) f.ack q.retry
  { q with
    retry := retry
    inFlight := q.inFlight.filter fun x => !cov.contains x.1
    doubt := q.doubt.filter fun x => !cov.contains x.1
    replay := if f.nak then q.replay.bump 0xFFFF 1 t else q.replay
    resend := if f.nak then retry else q.resend.filter fun x => !cov.contains x.seq
    credit := tset q.credit f.creditVc.toNat (tget 512 q.credit f.creditVc.toNat + f.credit) }

/-! ## Retrains (R426 to R429) -/

/-- Packets waiting at a port are handled again under R411: the port is no longer UP. -/
def Dev.reroute (d : Dev) (n : Nat) (owner : Nat) (p : Packet) : Dev :=
  if isRequest p && p.src.toNat == d.ownId then
    match d.route p.dst.toNat with
    | .port m =>
      if owner < 64 && planShare d.pl m owner == 0 then
        (d.modMem fun r => { r with reqs := r.reqs.map fun x =>
          if x.1 % 65536 == p.tag.toNat && x.2.dev == some p.dst.toNat then (x.1, x.2.lost) else x }).modFab fun f =>
            { f with noShare := f.noShare.bump 0xFFFF 1 d.time }
      else d.enqueue m owner p
    | .self => d
    | _ => d.markUnreach p.dst.toNat
  else match d.route p.dst.toNat with
    | .port m => d.enqueue m owner p
    | .self => d
    | _ => if owner == 64 && p.src.toNat != d.ownId then (d.noWait [p]).answerUnreach p false
      else if owner == 65 then d.enqueue n 65 p else d.markUnreach p.dst.toNat

def Dev.rerouteAll (d : Dev) (n : Nat) : Dev :=
  let q := (d.port n).txq
  let d := d.modPort n fun p => { p with txq := [], txPart := [] }
  d.forEach (q.flatMap fun o => o.2.map fun p => (o.1, p)) fun d x => d.reroute n x.1 x.2

/-- RETRAIN starts (R427 step 1): waiting packets move, unacknowledged ones are in doubt, the partner is told by a
KIND 2 flit and asked by SEQ_QUERY (R429). -/
def Dev.startRetrain (d : Dev) (n : Nat) : Dev :=
  let q := d.port n
  let d := d.modPort n fun q => { q with st := 2, retrains := q.retrains.bump 0xFF 1 d.time, resend := []
                                         doubt := q.doubt ++ q.inFlight, inFlight := [] }
  let flit : Flit := { ok := true, corrected := 0, seq := 0, kind := 2, ack := q.rxSeq, nak := false, creditVc := 0
                       credit := 0, enc := false, keyIdx := false, body := zeros 244, tag := [], crc := 0 }
  let d := d.emit (.flit n { flit with crc := crc32 (flitBytes flit) })
  let d := d.rerouteAll n
  if (d.port n).doubt.isEmpty || !q.partnerValid then d
  else
    let (v, d) := d.takeFree
    d.sendMgmt (mgmtPacket d.ownId q.partner.toNat 4 (v.toNat % 12) [])

/-- A packet in doubt that was not delivered is sent again (R429). -/
def Dev.resendDoubt (d : Dev) (n : Nat) (last : BitVec 12) (any_ : Bool) : Dev :=
  let q := d.port n
  let seqs := q.retry.map fun f => f.seq
  let cov := if any_ then (match seqs.findIdx? fun s => s == last with
    | some i => seqs.take (i + 1)
    | none => []) else []
  let lost := q.doubt.filter fun x => !cov.contains x.1
  let d := d.modPort n fun q => { q with doubt := [], retry := [], resend := [] }
  d.forEach lost fun d x =>
    d.reroute n (if isRequest x.2 && x.2.src.toNat == d.ownId then
      (((d.mem.reqs.find? fun r => r.1 % 65536 == x.2.tag.toNat && r.2.dev == some x.2.dst.toNat).bind fun r =>
        r.2.pitch)).getD 64 else 64) x.2

/-- Lanes that carry data after spare selection (R84): no failed lane, or one of lanes 0 to 7 with lane 8 good. -/
def lanesOk (fail : BitVec 9) : Bool := popcount 9 fail.toNat ≤ 1

/-- The lane that lane 8 replaces: the only one of lanes 0 to 7 that fails, if lane 8 passes (R84). -/
def spareLaneFor (fail : BitVec 9) : Option Nat :=
  if lanesOk fail then (List.range 8).find? fun l => fail.getLsbD l else none

/-- A port that training leaves with too few lanes: each direction's spare stands as it was chosen (R84, R428). -/
def Port.untrained (q : Port) (r : TrainResult) (t : Nat) : Port :=
  { q with
    st := 4, trainSt := 2, noPartner := false, rxFail := r.rxFail, rxSpare := spareLaneFor r.rxFail
    txSpare := spareLaneFor r.txFail, deadAt := t }

/-- A port that training leaves UP (R84, R427): maps, partner, sequence numbers restart, credits are whole. -/
def Port.trained (q : Port) (r : TrainResult) (t : Nat) : Port :=
  { q with
    st := 1, trainSt := 1, noPartner := false
    partner := r.partner.getD q.partner, partnerValid := true
    rxFail := r.rxFail, rxSpare := spareLaneFor r.rxFail, txSpare := spareLaneFor r.txFail
    txSeq := 0, rxSeq := 0, rxAny := false, nakDue := false, retry := [], resend := [], rxPart := []
    credit := [], giveBack := [], laneAlarm := 0, lastFlitAt := t }

/-! ## Unreachable devices: what a marking ends (R317, R318) -/

def Dev.deviceUnreachable (d : Dev) (dev : Nat) : Dev := ((d.markUnreach dev).finishLost).settle

/-! ## Receivers (R416 to R420) -/

/-- The fabric may reach the interval: reads and writes also scratchpad windows (R416). -/
def fabricReach (atomic : Bool) (a n : Nat) : Bool :=
  let ok (x : Nat) : Bool := match regionOf x with
    | .stacked _ | .biv _ => true
    | .spad _ => !atomic
    | _ => false
  ok a && ok (a + (n - 1))

/-- R416: the request is refused. -/
def refused (p : Packet) : Bool :=
  let c := p.cls.toNat
  let add := c == 5 || c == 6
  let lenOk := match c with
    | 1 | 3 | 5 => 1 ≤ p.len && p.len ≤ 512
    | 4 | 6 => p.len ≤ 512
    | _ => true
  let n := addElemBytes p.addType.toNat
  !isRequest p || p.rsvd || !lenOk || (c != 7 && 512 < p.addr % 512 + p.len)
    || (c != 7 && !fabricReach add p.addr p.len)
    || (add && (4 ≤ p.addType.toNat || p.addr % n != 0 || p.len % n != 0))
    || ((c == 7 || p.attach) && (p.pegAddr % 8 != 0 || !fabricReach true p.pegAddr 8))

/-- Poisoned sectors of a packet, counted from the sector of its address. -/
def packetPois (p : Packet) : List Nat :=
  (List.range 8).filterMap fun i =>
    if p.poison.getLsbD i && fld p.addr 6 3 ≤ i then some (i - fld p.addr 6 3) else none

/-- What the codes show on a read of a scratchpad or of memory that does not allocate (R256, R279). -/
def Dev.sourceSeen (d : Dev) (a n : Nat) (seen : EccSeen) : Dev :=
  match regionOf a with
  | .spad c => d.forEach (seen.filter fun x => (unitsOf (a - spadAddr c 0) n).contains x.1) fun d x => d.spadEcc c x.1 x.2
  | _ => d.readEcc a n seen

/-- Applies a write or add-write at its home (R299, R420). -/
def Dev.applyPacket (d : Dev) (p : Packet) : Dev :=
  let bs := withOffsets p.payload
  let d := d.endTestAt p.addr p.len
  if p.len = 0 then d
  else if p.cls.toNat == 5 || p.cls.toNat == 6 then
    d.performNow { kind := .addWrite p.addType.toNat bs (packetPois p), addr := p.addr, len := p.len, org := .board
                   pitch := d.ownerOfAddr p.addr }
  else d.writeMem p.addr bs (packetPois p) (d.ownerOfAddr p.addr) none

def Dev.applySignal (d : Dev) (a : Nat) (amt : W64) : Dev :=
  d.performNow { kind := .pegSignal amt, addr := a, len := 8, org := .board, pitch := d.ownerOfAddr a }

/-- Quads whose tracker entries and hold places serve a payer (R419). -/
def Dev.payerQuads (d : Dev) (payer : Option Nat) : Nat :=
  match payer with
  | some p => d.quadCount p
  | none => 64 - (d.validPitches.map fun p => d.quadCount p).sum

def Dev.track? (d : Dev) (p : Packet) : Option Track :=
  d.fab.tracks.find? fun t => t.src == p.src.toNat && t.sender == p.sender && t.epoch == p.state.getLsbD 0

def Dev.setTrack (d : Dev) (t : Track) : Dev :=
  d.modFab fun f => { f with tracks := (f.tracks.filter fun x =>
    !(x.src == t.src && x.sender == t.sender && x.epoch == t.epoch)) ++ [t] }

/-- FINAL_RELEASE (R419): the held final, its signal, its ACK; the entry is freed. -/
def Dev.releaseFinal (d : Dev) (t : Track) : Dev :=
  match t.held with
  | none => d
  | some (n, p) =>
    if t.count != n then d
    else
      let d := d.modFab fun f => { f with tracks := f.tracks.filter fun x =>
        !(x.src == t.src && x.sender == t.sender && x.epoch == t.epoch) }
      if t.refused then ((d.abandonPeg p).modFab fun f =>
        { f with refused := f.refused.bump 0xFFFF 1 d.time }).ack p 1
      else
        let d := d.applyPacket p
        let d := if p.attach then d.applySignal p.pegAddr p.pegAmt else d
        d.ack p 0

/-- The tracker entry of a packet: found, or taken from its payer's share; none when that share is full. -/
def Dev.takeTrack (d : Dev) (p : Packet) : Option Track :=
  match d.track? p with
  | some t => some t
  | none =>
    let payer := d.ownerOfAddr p.addr
    if (d.fab.tracks.filter fun t => t.payer == payer).length < 64 * d.payerQuads payer then
      some { src := p.src.toNat, sender := p.sender, epoch := p.state.getLsbD 0, payer := payer, held := none }
    else none

def Dev.refuse (d : Dev) (p : Packet) : Dev :=
  (d.modFab fun f => { f with refused := f.refused.bump 0xFFFF 1 d.time }).ack p 1

def Dev.retryLater (d : Dev) (p : Packet) : Dev :=
  (d.modFab fun f => { f with retrySent := f.retrySent.bump 0xFFFF 1 d.time }).ack p 2

/-- WRITE and ADD at the receiver. -/
def Dev.receiveWrite (d : Dev) (p : Packet) : Dev :=
  if refused p then d.refuse p
  else if !p.state.getLsbD 1 then (d.applyPacket p).ack p 0
  else match d.takeTrack p with
    | none => d.retryLater p
    | some t =>
      let d := (d.applyPacket p).ack p 0
      let t := { t with count := t.count + 1 }
      (d.setTrack t).releaseFinal t

/-- WRITE_FINAL and ADD_FINAL at the receiver. -/
def Dev.receiveFinal (d : Dev) (p : Packet) : Dev :=
  match d.takeTrack p with
  | none => d.retryLater p
  | some t =>
    let heldNow := (d.fab.tracks.filter fun x => x.payer == t.payer && x.held.isSome).length
    if 16 * d.payerQuads t.payer ≤ heldNow then d.retryLater p
    else
      let t := { t with held := some (p.finCnt, p), heldAt := d.time, holdAt := d.time, echoAt := d.time, refused := refused p }
      (d.setTrack t).releaseFinal t

/-- The received packets at the heads of a port's channels, in the order of arrival: no channel waits for another
(R409). -/
def Port.heads (q : Port) : List Packet :=
  q.rxq.zipIdx.filterMap fun x =>
    if (q.rxq.take x.2).any fun y => packetVc y == packetVc x.1 then none else some x.1

/-- The first head that is for this device and of one of the classes. -/
def Dev.headFor (d : Dev) (n : Nat) (cls : List Nat) : Option Packet :=
  (d.port n).heads.find? fun p => p.dst.toNat == d.ownId && cls.contains p.cls.toNat && !d.offFabric

/-- Consumes a head: its credits go back (R409). -/
def Dev.popRx (d : Dev) (n : Nat) (p : Packet) : Dev :=
  d.modPort n fun q =>
    { q with rxq := q.rxq.erase p, giveBack := tmod 0 q.giveBack (packetVc p) fun v => v + packetCredits p }

/-- Units of scratchpads that a packet's request needs: its own bytes, and those of a held final that it completes. -/
def Dev.packetUnits (d : Dev) (p : Packet) : List (Nat × Nat) :=
  if !isRequest p || p.cls.toNat == 7 || refused p then []
  else
    let own := spadUnitsOf p.addr p.len
    match (d.track? p).bind fun t => t.held.map fun h => (t.count, h) with
    | some (c, n, q) => if c + 1 = n then own ++ (spadUnitsOf q.addr q.len).filter fun u => !own.contains u else own
    | none => own

/-- Handles the head of a port's received packets, then completes what ended. A request to a scratchpad waits for its
banks (R257). -/
def Dev.onRx (d : Dev) (n : Nat) (cls : List Nat) (f : Dev → Packet → Dev) : Dev :=
  match d.headFor n cls with
  | none => d
  | some p =>
    match d.claim (1000 + n) (d.packetUnits p) with
    | (d, false) => d
    | (d, true) => (f (d.popRx n p) p).finishLost.settle

/-- A read of a page that has to be repaired first stays at the head. -/
def Dev.readWaits (d : Dev) (port : Nat) : List Nat :=
  match d.headFor port [1] with
  | some p => if refused p then [] else d.repairsFor p.addr p.len
  | none => []

def execReadRx (at_ : Nat × EccSeen) (s : State) :=
  let port := at_.1
  s.to (if !(s.dev.readWaits port).isEmpty then (s.dev.beginRepairs (s.dev.readWaits port)).settle else
   s.dev.onRx port [1] fun d p =>
    if refused p then
      (d.modFab fun f => { f with refused := f.refused.bump 0xFFFF 1 d.time }).sendReply
        (d.replyTo p 2 1 (zeros (min p.len 512)) 0xFF)
    else
      let d := ((d.endTestAt p.addr p.len).sourceSeen p.addr p.len at_.2).passRead p.addr p.len (d.ownerOfAddr p.addr) none
      let pois := poisonByte p.addr p.len fun s => d.readPois (64 * s) 64
      d.sendReply (d.replyTo p 2 0 (d.readMem p.addr p.len) pois))

/-- Outstanding requests that a reply answers. -/
def Dev.answered (d : Dev) (p : Packet) : Option Nat :=
  (d.mem.reqs.find? fun r => r.1 % 65536 == p.tag.toNat && r.2.dev == some p.src.toNat && r.2.queued && r.2.st != 2).map
    fun r => r.1

def execReadRespRx (port : Nat) (s : State) :=
  s.to (s.dev.onRx port [2] fun d p =>
    match d.answered p with
    | none => d
    | some tag =>
      (d.modReq tag fun r => { r with
        st := 2, resp := (p.payload ++ zeros r.len).take r.len
        respPois := if p.state.toNat == 1 then List.range 8 else packetPois { p with addr := localOf r.addr } }).completeReq tag)

def execWriteRx (port : Nat) (s : State) :=
  s.to (s.dev.onRx port [3, 0, 11, 12, 13, 14, 15] fun d p =>
    if p.cls.toNat == 3 then d.receiveWrite p else d.refuse p)

def execWriteFinalRx (port : Nat) (s : State) := s.to (s.dev.onRx port [4] Dev.receiveFinal)

def execAddRx (port : Nat) (s : State) := s.to (s.dev.onRx port [5] Dev.receiveWrite)

def execAddFinalRx (port : Nat) (s : State) := s.to (s.dev.onRx port [6] Dev.receiveFinal)

def execSignalRx (port : Nat) (s : State) :=
  s.to (s.dev.onRx port [7] fun d p =>
    if refused p then d.refuse p else (d.applySignal p.pegAddr p.pegAmt).ack p 0)

/-- ACK_RX (R299, R416, R419): OK and REFUSED end a request once every packet of it is answered; RETRY asks for a
resend 1 µs later. -/
def execAckRx (port : Nat) (s : State) :=
  s.to (s.dev.onRx port [8] fun d p =>
    match d.answered p with
    | none => d
    | some tag =>
      let st := p.state.toNat
      if st == 2 then d.modReq tag fun r => { r with retryAt := some (d.time + ccUs 1) }
      else
        let d := d.modReq tag fun r => { r with
          acks := r.acks - 1, status := if st == 1 then 3 else r.status, st := if r.acks ≤ 1 then 2 else r.st }
        d.completeReq tag)

/-- RETRY_RESEND (R419). -/
def execRetryResend (tag : Nat) (s : State) :=
  let d := s.dev
  s.to (match d.req? tag with
    | some r =>
      match r.retryAt with
      | some t => if t ≤ d.time && r.st != 2 then
          (d.setReq tag { r with retryAt := none, queued := false }).settle else d
      | none => d
    | none => d)

/-! ## Unreachability commands -/

/-- UNREACH_RX (R432, R433). -/
def execUnreachRx (port : Nat) (s : State) :=
  s.to (s.dev.onRx port [9] fun d p =>
    let d := if bit p.addr 12 then
        match d.mem.reqs.find? fun r => r.1 % 65536 == p.tag.toNat && r.2.dev == some (fld p.addr 0 12) && r.2.st != 2 with
        | some r => d.setReq r.1 r.2.lost
        | none => d
      else d
    d.deviceUnreachable (fld p.addr 0 12))

/-- A MGMT packet of a subtype at the head. -/
def Dev.onMgmt (d : Dev) (n sub : Nat) (f : Dev → Packet → Dev) : Dev :=
  match d.headFor n [10] with
  | some p => if fld p.addr 0 8 == sub then d.onRx n [10] f else d
  | none => d

/-- HOLD_RX (R432). -/
def execHoldRx (port : Nat) (s : State) :=
  s.to (s.dev.onMgmt port 1 fun d p =>
    d.modFab fun f => { f with holdAt := tset f.holdAt (fld p.addr 8 12) d.time })

def execEchoRx (port : Nat) (s : State) :=
  s.to (s.dev.onMgmt port 2 fun d p => d.sendMgmt (mgmtPacket d.ownId p.src.toNat 3 0 []))

/-- ECHO_REPLY_RX: its arrival has restarted the silence timer. -/
def execEchoReplyRx (port : Nat) (s : State) :=
  s.to (s.dev.onMgmt port 3 fun d p => d.modFab fun f => { f with heardAt := tset f.heardAt p.src.toNat d.time })

/-- SEQ_QUERY_RX (R429): the last SEQ accepted on the named port. -/
def execSeqQueryRx (port : Nat) (s : State) :=
  s.to (s.dev.onMgmt port 4 fun d p =>
    let q := d.port (fld p.addr 8 4)
    d.sendMgmt (mgmtPacket d.ownId p.src.toNat 5 (fld p.addr 8 4 + 16 * q.rxSeq.toNat) []))

/-- SEQ_REPLY_RX (R429): the first answer settles the packets in doubt of the port toward that partner. -/
def execSeqReplyRx (port : Nat) (s : State) :=
  s.to (s.dev.onMgmt port 5 fun d p =>
    match allPorts.find? fun n => !(d.port n).doubt.isEmpty && (d.port n).partner == p.src with
    | some n => d.resendDoubt n (BitVec.ofNat 12 (fld p.addr 12 12)) true
    | none => d)

/-- The slot matches: it is loaded, and the last KEY_CHECK received names the same key (R496, log 91). -/
def KeySlot.matches (k : KeySlot) : Bool := k.loaded && k.check == some (Config.aesZeroBlock k.key)

/-- KEY_CHECK_RX (R496). -/
def execKeyCheckRx (port : Nat) (s : State) :=
  s.to (s.dev.onMgmt port 0x10 fun d p =>
    let slot := leNat (p.payload.take 1) % 2
    let v : W32 := BitVec.ofNat 32 (leNat ((p.payload.drop 4).take 4))
    d.modPort port fun q => { q with keys := tmod {} q.keys slot fun k => { k with check := some v } })

/-- HOLD_SEND (R431): a transit request waiting at a port, or a held final, has been held another 100 µs. -/
def execHoldSend (tag : Nat) (s : State) :=
  let d := s.dev
  let hold (p : Packet) : Dev := d.sendMgmt (mgmtPacket d.ownId p.src.toNat 1 p.dst.toNat [])
  s.to (
    if d.offFabric then d else
    match d.fab.waiting.find? fun w => w.1.tag.toNat == tag && w.2 + ccUs 100 ≤ d.time with
    | some w => (hold w.1).modFab fun f => { f with
        waiting := f.waiting.map fun x => if x.1 == w.1 then (x.1, d.time) else x }
    | none =>
      match d.fab.tracks.find? fun t => (t.held.any fun h => h.2.tag.toNat == tag) && t.holdAt + ccUs 100 ≤ d.time with
      | some t => match t.held with
        | some (_, p) => (hold p).setTrack { t with holdAt := d.time }
        | none => d
      | none => d)

/-- ECHO_SEND (R431): a final from the device is held. -/
def execEchoSend (dev : Nat) (s : State) :=
  let d := s.dev
  s.to (
    let due (t : Track) : Bool := t.src == dev && t.held.isSome && t.echoAt + ccUs 100 ≤ d.time
    if d.fab.tracks.any due && !d.offFabric then
      (d.sendMgmt (mgmtPacket d.ownId dev 2 0 [])).modFab fun f => { f with
        tracks := f.tracks.map fun t => if due t then { t with echoAt := d.time } else t }
    else d)

/-- The limits of R432 for a device: 250 µs of silence, or 900 µs outstanding or held. -/
def Dev.unreachDue (d : Dev) (dev : Nat) : Bool :=
  let reqs := (d.mem.reqs.filter fun r => r.2.dev == some dev && r.2.st != 2 && r.2.queued).map fun r => r.2.sentAt
  let held := (d.fab.tracks.filter fun t => t.src == dev && t.held.isSome).map fun t => t.heldAt
  let last := max (tget 0 d.fab.heardAt dev) (tget 0 d.fab.holdAt dev)
  let oldest := (reqs ++ held).foldl min d.time
  !(reqs ++ held).isEmpty
    && (max last oldest + ccUs 250 ≤ d.time || oldest + ccUs 900 ≤ d.time)

def execUnreachTimeout (dev : Nat) (s : State) :=
  s.to (if s.dev.unreachDue dev then s.dev.deviceUnreachable dev else s.dev)

/-- Bits of LNK_UNREACHk written with 1 are cleared, but for those set in this cc. -/
def clearUnreach (t k : Nat) (v : W64) (u : Tab W1c) : Tab W1c :=
  u.map fun e => (e.1, if (e.1 / 64 == k) && (v.getLsbD (e.1 % 64)) then e.2.clear t else e.2)

/-- UNREACH_CLEAR (R434): only the PF clears bits of LNK_UNREACHk. -/
def execUnreachClear (fn : Fn) (k : Nat) (v : W64) (s : State) :=
  let d := s.dev
  s.to (
    if !d.reach fn || !isPf fn || 64 ≤ k then d
    else d.modFab fun f => { f with unreach := clearUnreach d.time k v f.unreach })

/-! ## Ports -/

/-- LANE_ALARM (R426). -/
def execLaneAlarm (port lane : Nat) (s : State) :=
  let d := s.dev
  s.to (
    if !d.portUp port || 9 ≤ lane then d
    else
      let d := d.modPort port fun q => { q with laneAlarm := q.laneAlarm ||| ((1 : BitVec 9) <<< lane) }
      (d.startRetrain port).finishLost.settle)

/-- FLIT_LOSS_TIMEOUT (R426): 10 µs without a valid flit. -/
def execFlitLossTimeout (port : Nat) (s : State) :=
  let d := s.dev
  s.to (if d.portUp port && (d.port port).lastFlitAt + ccUs 10 ≤ d.time then
      (d.startRetrain port).finishLost.settle else d)

/-- RETRAIN_END (R428, R429). -/
def execRetrainEnd (port : Nat) (r : TrainResult) (s : State) :=
  let d := s.dev
  s.to (
    if !d.portRetrain port then d
    else
      let q := d.port port
      let up := lanesOk r.rxFail && lanesOk r.txFail && r.partner.isSome
        && (q.noPartner || !q.partnerValid || r.partner == some q.partner)
      if up then
        let d := match spareLaneFor r.rxFail with
          | some l => if q.rxSpare == some l then d else d.event 0x0D port l
          | none => d
        let d := match r.lastSeq with
          | some x => d.resendDoubt port x true
          | none => if q.doubt.isEmpty then d else d.resendDoubt port 0 false
        ((d.modPort port fun q => q.trained r d.time).finishLost).settle
      else if q.noPartner && r.partner.isNone then
        d.modPort port fun q => { q with st := 0, deadAt := d.time }
      else
        -- the partner's last SEQ, where step 4 gave it, is the answer (R429)
        let d := match r.lastSeq with
          | some x => d.resendDoubt port x true
          | none => d
        let doubt := (d.port port).doubt
        let d := d.modPort port fun p => { p.untrained r d.time with
          deaths := q.deaths.bump 0xFF 1 d.time, doubt := [], retry := [], resend := []
          partner := if q.noPartner then r.partner.getD q.partner else q.partner
          partnerValid := q.partnerValid || r.partner.isSome }
        let d := d.event 0x0E port (d.port port).partner.toNat
        let d := d.forEach doubt fun d x =>
          if x.2.src.toNat == d.ownId then
            let d := d.modMem fun m => { m with reqs := m.reqs.map fun y =>
              if y.1 % 65536 == x.2.tag.toNat && y.2.dev == some x.2.dst.toNat && y.2.st != 2 then (y.1, y.2.lost) else y }
            if x.2.cls == 9 || x.2.cls == 10 then d else d.markUnreach x.2.dst.toNat
          else (d.noWait [x.2]).answerUnreach x.2 true
        (d.rerouteAll port).finishLost.settle)

/-- DEAD_PORT_RETRY (R428): once a second for a DEAD port and one without a partner. -/
def execDeadPortRetry (port : Nat) (s : State) :=
  let d := s.dev
  let q := d.port port
  s.to (
    if port < 12 && (q.st == 4 || (q.st == 0 && q.noPartner)) && q.deadAt + ccUs 1000000 ≤ d.time then
      d.modPort port fun q => { q with st := 2, retrains := q.retrains.bump 0xFF 1 d.time }
    else d)

/-- Accepted packets arrive: their source has been heard (R432), and a pitch's bytes are counted (R499 9). -/
def Dev.arrive (d : Dev) (n : Nat) (ps : List Packet) : Dev :=
  d.forEach ps fun d p =>
    let d := d.modFab fun f => { f with heardAt := tset f.heardAt p.src.toNat d.time }
    let d := if isRequest p && p.dst.toNat == d.ownId then
        d.count (d.ownerOfAddr p.addr) 10 (packetBytes p).length none else d
    d.modPort n fun q => { q with rxq := q.rxq ++ [p] }

/-- FLIT_RX (R408, R425). -/
def execFlitRx (port : Nat) (f : Flit) (s : State) :=
  let d := s.dev
  s.to (
    if !(d.portUp port || d.portRetrain port) then d
    else
      let d := d.modPort port fun q => { q with fecCorr := q.fecCorr.bump 0xFFFF f.corrected d.time }
      if !f.ok then
        d.modPort port fun q => { q with fecUncorr := q.fecUncorr.bump 0xFF 1 d.time, nakDue := true }
      else if f.crc != crc32 (flitBytes f) then d.modPort port fun q => { q with nakDue := true }
      else
        let d := d.modPort port fun q => { q.takeAck f d.time with lastFlitAt := d.time }
        if f.kind.toNat == 2 then (if d.portUp port then (d.startRetrain port).finishLost.settle else d)
        else if f.kind.toNat != 0 then d
        else
          let q := d.port port
          if q.keyCtlBit 4 && !f.enc then d
          else
            let slot := b2n f.keyIdx
            let key := q.key slot
            let plain := if f.enc then
                (if key.loaded then Config.gcmOpen key.key (gcmNonce q.partner.toNat d.ownId key.rxCount) (flitHeader f)
                  (f.body.take 228) f.tag else none)
              else some (f.body.take 244)
            match plain with
            | none => d.modPort port fun q => { q with authFail := q.authFail.bump 0xFF 1 d.time, nakDue := true }
            | some body =>
              let expect : BitVec 12 := if q.rxAny then q.rxSeq + 1 else 0
              if f.seq != expect then d.modPort port fun q => { q with nakDue := true }
              else
                let (ps, rest) := parsePackets 32 (q.rxPart ++ body)
                let d := d.modPort port fun q => { q with
                  rxSeq := f.seq, rxAny := true, rxPart := rest
                  keyLastRx := if f.enc then some slot else q.keyLastRx
                  keys := if f.enc then tmod {} q.keys slot fun k => { k with rxCount := k.rxCount + 1 } else q.keys }
                d.arrive port ps)

/-- PACKET_TRANSIT (R411, R412): the first head that is for another device. -/
def execPacketTransit (port : Nat) (s : State) :=
  let d := s.dev
  s.to (match (d.port port).heads.find? fun p => d.offFabric || p.dst.toNat != d.ownId with
    | none => d
    | some p =>
      let d := d.popRx port p
      if d.offFabric then d
      else
        let p := { p with hops := p.hops + 1 }
        if 32 < p.hops then
          ((d.modFab fun f => { f with hopDrop := f.hopDrop.bump 0xFFFF 1 d.time }).answerUnreach p false).finishLost.settle
        else match d.route p.dst.toNat with
          | .port n => d.enqueue n 64 p
          | .self => d
          | _ => (d.answerUnreach p false).finishLost.settle)

/-! ## The transmitter (R421, R422, R407) -/

/-- Six bits in reverse order. -/
def rev6 (j : Nat) : Nat := ((List.range 6).map fun k => if bit j k then 2 ^ (5 - k) else 0).sum

/-- The owner of a slot of a port's frame: a pitch, 64 for the transit share, none for a slot that no share holds. -/
def Dev.slotOwner (d : Dev) (n slot : Nat) : Option Nat :=
  let pos := (List.range 64).findIdx? fun j => rev6 j == slot
  let x := (List.range 65).foldl (fun (acc : Nat × Option Nat) (o : Nat) =>
    let sh := if d.planRunning then planShare d.pl n o else 0
    (acc.1 + sh, if acc.2.isNone && (pos.any fun p => acc.1 ≤ p && p < acc.1 + sh) then some o else acc.2)) (0, none)
  x.2

/-- The next packet of an owner that may begin, with the others: the first of its channel for which there is credit
(R409); `out` gives a packet as it leaves. -/
def nextTx (out : Packet → Packet) (cr : Tab Nat) : List Packet → List Packet → Option (Packet × List Packet)
  | _, [] => none
  | before, p :: rest =>
    if (before.all fun x => packetVc (out x) != packetVc (out p)) && packetCredits p ≤ tget 512 cr (packetVc (out p)) then
      some (p, before ++ rest)
    else nextTx out cr (before ++ [p]) rest

/-- Bytes of one owner for one flit: the rest of the packet begun, which is its first, then whole packets while credit
lasts; the packets that end in it. -/
def fillFlit (out : Packet → Packet) : Nat → Nat → Tab Nat → List Packet → List Byte → List Byte → List Packet →
    List Byte × List Byte × List Packet × List Packet × Tab Nat
  | 0, _, cr, q, part, acc, fin => (acc, part, q, fin, cr)
  | n + 1, room, cr, q, part, acc, fin =>
    let begun : Option (Packet × List Packet × List Byte × Tab Nat) :=
      if part.isEmpty then (nextTx out cr [] q).map fun x =>
        let vc := packetVc (out x.1)
        (x.1, x.2, packetBytes (out x.1), tset cr vc (tget 512 cr vc - packetCredits x.1))
      else q.head?.map fun p => (p, q.drop 1, part, cr)
    match begun with
    | none => (acc, [], q, fin, cr)
    | some (p, rest, bytes, cr') =>
      if room = 0 then (acc, part, q, fin, cr)
      else if bytes.length ≤ room then fillFlit out n (room - bytes.length) cr' rest [] (acc ++ bytes) (fin ++ [p])
      else (acc ++ bytes.take room, bytes.drop room, p :: rest, fin, cr')

/-- The owner has a flit ready at this slot. -/
def Dev.flitReady (d : Dev) (n o : Nat) : Bool :=
  let q := d.port n
  match tget [] q.txq o with
  | [] => false
  | ps => !(tget [] q.txPart o).isEmpty || (nextTx (d.leaving n) q.credit [] ps).isSome

/-- FLIT_SLOT (R407, R421, R422): one flit slot of the port. -/
def execFlitSlot (port : Nat) (s : State) :=
  let d := s.dev
  s.to (
    if !d.portUp port then d
    else
      let q := d.port port
      let slot := q.frameSlot
      let own := d.slotOwner port slot
      let d := d.modPort port fun q => { q with frameSlot := (slot + 1) % 64 }
      let d0 := d
      let vc := [0, 1, 2].find? fun v => tget 0 q.giveBack v != 0
      let cr := min 1023 ((vc.map fun v => tget 0 q.giveBack v).getD 0)
      let base : Flit := { ok := true, corrected := 0, seq := q.txSeq, kind := 1, ack := q.rxSeq, nak := q.nakDue
                           creditVc := BitVec.ofNat 2 (vc.getD 0), credit := cr, enc := false, keyIdx := false
                           body := zeros 244, tag := [], crc := 0 }
      let d := d.modPort port fun q => { q with
        nakDue := false, giveBack := match vc with
          | some v => tmod 0 q.giveBack v fun x => x - cr
          | none => q.giveBack }
      let send (d : Dev) (f : Flit) : Dev := d.emit (.flit port { f with crc := crc32 (flitBytes f) })
      match q.resend with
      | f :: rest =>
        -- a replayed flit is sent as it stands in the retry buffer
        (d0.modPort port fun q => { q with resend := rest }).emit (.flit port f)
      | [] =>
        let cands := match own with
          | some o => [o, 65]
          | none => [65, 64]
        let pick : Option Nat := if 1024 ≤ q.retry.length then none else cands.find? (fun o => d.flitReady port o)
        match pick with
        | none =>
          let d := match own with
            | some o => if o < 64 then d.count (some o) 0x1F 1 none else d
            | none => d
          send d base
        | some o =>
          let enc := q.keyCtlBit 3
          let room := if enc then 228 else 244
          let (bytes, part, rest, fin, credit) := fillFlit (d.leaving port) 32 room q.credit (tget [] q.txq o)
            (tget [] q.txPart o) [] []
          let slotK := q.keyUse
          let key := q.key slotK
          let plain := (bytes ++ zeros room).take room
          let f := { base with kind := 0, enc := enc, keyIdx := enc && slotK == 1, body := plain }
          let f := if enc then
              let x := Config.gcmSeal key.key (gcmNonce d.ownId q.partner.toNat key.txCount) (flitHeader f) plain
              { f with body := x.1, tag := x.2 }
            else f
          let d := d.modPort port fun q => { q with
            txSeq := q.txSeq + 1, retry := q.retry ++ [{ f with crc := crc32 (flitBytes f) }], credit := credit
            txq := tset q.txq o rest, txPart := tset q.txPart o part
            inFlight := q.inFlight ++ fin.map fun p => (f.seq, p)
            keys := if enc then tmod {} q.keys slotK fun k => { k with txCount := k.txCount + 1 } else q.keys }
          let d := if o < 64 then d.count (some o) 9 bytes.length none
            else match own with
              | some p => if p < 64 then d.count (some p) 0x1F 1 none else d
              | none => d
          send (d.noWait fin) f)

end Sys2Proof.Machine
end

