-- ==== Sys2Proof/Machine/Health.lean ====
section
/-!
DEFINITION. Sampled recompute at the partner (R470, R471), the states of cores (R473, R474), dice tests (R475 to R478)
and pattern packs (R479, R480).
-/

namespace Sys2Proof.Machine
open Sys2Proof

/-! ## Partner checks -/

/-- The block sums that a sound array forms from a capture. -/
def Capture.recompute (x : Capture) : List (Int × Int) :=
  let p : PassFl := { n := 0, k := x.k, m := x.m, tile := 0, clear := true, row0 := 0, rstride := 0, scl := 0
                      sclStride := 0, sfmt := x.sfmt, blk := x.blk }
  x.rows.flatMap fun r => (rowSums p r []).flatMap fun l => l.map fun b => b.1.pair

/-- ac that a check occupies the array (R470). -/
def Capture.span (x : Capture) : Nat := 64 + x.k * x.m

/-- PARTNER_CHECK: a core that runs no array program begins its partner's pending checks. -/
def execPartnerCheck (core : Nat) (s : State) :=
  let d := s.dev
  let k := d.core core
  s.to (
    if 256 ≤ core || k.checking || k.saved || k.testing || k.seq.st != 0 || k.seq.endAt.isSome
        || !((d.core (partnerOf core)).captures.any fun x => x.complete) then d
    else d.modCore core fun k => { k with checking := true, checkAt := d.time })

/-- A mismatch (R471): the capturing core counts it, the context faults if it still exists, both cores' states move. -/
def Dev.checkMismatch (d : Dev) (core cid : Nat) : Dev :=
  let p := partnerOf core
  let d := d.modCore p fun k => { k with chkMismatch := k.chkMismatch.bump 0xFF 1 d.time }
  let d := d.event 0x08 (min core p) cid
  let d := if (d.ctx cid).live || (d.ctx cid).dying then d.ctxFaultOn p cid 0x09 else d
  (d.coreMismatch core).coreMismatch p

/-- CHECK_COMPARE: the check in progress ends; `err` is what the checking array's CRC differs by from a sound one's. -/
def execCheckCompare (core : Nat) (err : W32) (s : State) :=
  let d := s.dev
  let k := d.core core
  let p := partnerOf core
  s.to (
    if 256 ≤ core || !k.checking then d
    else match (d.core p).captures.find? fun x => x.complete with
      | none => d.modCore core fun k => { k with checking := false }
      | some x =>
        if d.time < k.checkAt + x.span + 128 then d
        else
          let d := d.modCore p fun k => { k with
            captures := k.captures.filter fun y => y.num != x.num, chkCompared := k.chkCompared.bump 0xFFFF 1 d.time }
          let more := (d.core p).captures.any fun y => y.complete
          let d := d.modCore core fun k => { k with checkAt := k.checkAt + x.span, checking := more }
          if sumsCrc x.sums != sumsCrc x.recompute ^^^ err then d.checkMismatch core x.cid else d)

/-! ## Dice tests -/

/-- Segments of the running pack, and its VERSION (R480). -/
def Dev.packSegments (d : Dev) : Nat := max 1 (match d.sec.pack with | some p => p.2 | none => Config.builtinPackSegments)
def Dev.packVersion (d : Dev) : W32 := match d.sec.pack with | some p => p.1 | none => Config.builtinPackVersion

/-- A RETIRED core that no pitch holds is not tested again. -/
def Dev.testable (d : Dev) (c : Nat) : Bool := (d.core c).health != 2 || (d.pitchOfCore c).isSome

/-- DICE_TEST_DUE (R473): the core's interval of powered time has passed. -/
def execDiceTestDue (core : Nat) (s : State) :=
  let d := s.dev
  let k := d.core core
  s.to (
    if 256 ≤ core || k.testDue || !d.testable core || !d.power.porReleased
        || d.time < max k.testDueAt d.power.pwrGoodAt + testPeriod k.health then d
    else d.modCore core fun k => { k with testDue := true, testDueAt := d.time, testSeg := 0 })

/-- R475: a segment may start on the core. -/
def Dev.testMay (d : Dev) (c : Nat) : Bool :=
  let k := d.core c
  k.testDue && !k.testing && (k.halted || k.health == 2 || (d.pitchOfCore c).isNone) && d.testable c
    && k.captures.isEmpty && !d.checksPending c
    && k.waiting.isEmpty && k.progQueue.isEmpty
    && !(d.cores.any fun x => x.2.testing && tileOf x.1 == tileOf c)

/-- R475: WATCH cores first (a RETIRED core left in its pitch is treated as one, R112), then the longest overdue, then
the lower core ID. -/
def testRank (c : Nat) (k : Core) : Nat := (b2n (k.health == 0) * 2 ^ 64 + k.testDueAt) * 256 + c

/-- DICE_SEGMENT_START (R475, R476): no other core of the tile that may be tested goes before this one. -/
def execDiceSegmentStart (core : Nat) (s : State) :=
  let d := s.dev
  let others := (tkeys d.cores).filter fun c => tileOf c == tileOf core && d.testMay c
  s.to (
    if 256 ≤ core || !d.fullService || d.boot.stewardRestarting || d.commitPastB || !d.testMay core
        || (others.any fun c => testRank c (d.core c) < testRank core (d.core core)) then d
    else d.modCore core fun k => { k with testing := true, testSave := d.testCopy core })

/-- A segment has passed: the full test goes on, or is passed (R473, R475). -/
def Dev.segmentPassed (d : Dev) (c : Nat) : Dev :=
  let k := d.core c
  if k.testSeg + 1 < d.packSegments then d.modCore c fun k => { k with testSeg := k.testSeg + 1 }
  else
    let d := d.modCore c fun k => { k with testDue := false, testSeg := 0, clean := if k.health = 1 then k.clean + 1 else 0 }
    if k.health = 1 && 144 ≤ k.clean + 1 then d.setHealth c 0 else d

/-- A segment has failed (R473, R478). -/
def Dev.segmentFailed (d : Dev) (c : Nat) : Dev :=
  let k := d.core c
  let d := d.event 0x0B c k.testSeg
  ((d.modCore c fun k => { k with testDue := false, testSeg := 0, clean := 0 }).coreFailed c)

/-- DICE_SEGMENT_END (R478). -/
def execDiceSegmentEnd (core : Nat) (pass : Bool) (s : State) :=
  let d := s.dev
  s.to (
    if !(d.core core).testing then d
    else
      let d := d.endTest core
      (if pass then d.segmentPassed core else d.segmentFailed core).settle)

/-- DICE_SEGMENT_ABANDON (R477): the core is given back; the segment will be run again. -/
def execDiceSegmentAbandon (core : Nat) (s : State) := s.to ((s.dev.endTest core).settle)

/-! ## Pattern packs (R479, R480) -/

/-- PACK_GO. -/
def execPackGo (fn : Fn) (w : CmdWrite) (s : State) :=
  let d := s.dev
  s.to (
    if !d.reach fn || !isPf fn then d
    else
      let (d, v) := d.takeCmd fn .pack w
      if d.sec.packBusy || !bit v 63 then d
      else d.modSec fun x => { x with packBusy := true, packAddr := fld v 12 32 * 4096 })

/-- The interval lies in granules of stacked memory that no pitch owns. -/
def Dev.unownedSpan (d : Dev) (a n : Nat) : Bool :=
  a + n ≤ 0x400000000 && allGrans a n fun g => (d.granOwner g).isNone

/-- Bytes that the steward reads from the pack's address on: the header, and the rest of a pack that can lie there. -/
def Dev.packSpan (d : Dev) (a : Nat) : Nat :=
  let len := leNat (d.readMem (a + 0x0C) 4)
  let all := 0x100 + len + 384 + 16224
  if !d.unownedSpan a 0x100 then 0 else if 0x100000 < len || !d.unownedSpan a all then 0x100 else all

/-- CODE of STW_PACK_STAT for the pack at an address, with its VERSION and NSEG (R480). -/
def Dev.packCheck (d : Dev) (a : Nat) : Nat × W32 × Nat :=
  let h := d.readMem a 0x100
  let w (o n : Nat) : Nat := leNat ((h.drop o).take n)
  let len := w 0x0C 4
  let all := 0x100 + len + 384 + 16224
  let msg := d.readMem a (0x100 + len)
  let pair := w 6 1
  let sig := d.sigFails pair msg (d.readMem (a + 0x100 + len) 384) (d.readMem (a + 0x280 + len) 16224)
  let version : W32 := BitVec.ofNat 32 (w 8 4)
  let code :=
    if !d.unownedSpan a 0x100 then 1
    else if d.readPois a 0x100 then 7
    else if w 0 4 != 0x44504B31 || w 4 2 != 1 || len % 4096 != 0 || 0x100000 < len then 2
    else if !d.unownedSpan a all then 1
    else if d.readPois a all then 7
    else if d.pairBad pair then 3
    else if sig == some 5 then 4
    else if sig == some 6 then 5
    else if version.toNat ≤ d.packVersion.toNat then 6
    else 0
  (code, version, w 0x10 2)

/-- PACK_VERIFY_DONE: accepted, M7 is extended and event kind 0x14 written; or refused with its code. -/
def execPackVerifyDone (s : State) :=
  let d := s.dev
  s.to (
    if !d.sec.packBusy || !d.meshHas (d.homeTile d.sec.packAddr) 0xFF then d
    else
      let a := d.sec.packAddr
      let (code, version, nseg) := d.packCheck a
      let d := (d.meetErrors a (d.packSpan a)).modSec fun x => { x with packBusy := false, packCode := code }
      if code != 0 then d
      else
        let len := leNat (d.readMem (a + 0x0C) 4)
        let d := d.extend 7 (Config.sha384 (d.readMem a (0x100 + len)))
        let d := d.modSec fun x => { x with pack := some (version, nseg) }
        let f (c : Nat × Core) : Nat × Core := if c.2.testing then c else (c.1, { c.2 with testSeg := 0 })
        ({ d with cores := d.cores.map f }).event 0x14 0 version.toNat)

end Sys2Proof.Machine
end

