-- ==== Sys2Proof/Machine/HomeCmds.lean ====
section
/-!
DEFINITION. The commands at the home of a line (R274 to R279, R467), of the memory ports (R284, R286), of the bivouac
ports (R295, R296), of the repair engines and of quarantine (R464, R465), and the reads of the range-table walkers
(R331).
-/

namespace Sys2Proof.Machine
open Sys2Proof

/-! ## Requests at their home -/

/-- CAN_TAG_LOST (R467): a way of the set loses its line and is disabled there, and every context of the pitch that
owns it is killed. The manual does not name the way from the access; a free value picks among those that hold a line. -/
def Dev.loseTag (d : Dev) (tile line : Nat) (core : Option Nat) : Dev :=
  let keys := ((List.range 32).map fun w => canKey tile (setOf line) w).filter fun k => (lookup? d.mem.canopy k).isSome
  let (v, d) := d.takeFree
  match keys[v.toNat % max 1 keys.length]? with
  | none => d
  | some k =>
    let owner := d.wayOwner (keyTile k) (keyWay k)
    let d := (d.canDrop k).modMem fun m => { m with deadWays := m.deadWays ++ [k] }
    let d := (d.event 0x06 tile (keyWay k + 32 * setOf line)).countErr false owner
    match owner with
    | none => d
    | some p => d.forEach ((d.pitchCtxs p).filter fun c => (d.ctx c).live) fun d c =>
      match core with
      | some k => d.ctxFaultOn k c 0x0B
      | none => d.ctxFault c 0x0B 0

/-- The core that sent a request. -/
def Origin.core? (o : Origin) : Option Nat :=
  match o with
  | .fill c _ | .load c _ | .drain c _ | .atom c _ => some c
  | _ => none

/-- A DMA engine's request at its home: a burst is applied with nothing between its lines (R276). -/
def Dev.homeBurst (d : Dev) (tag : Nat) (r : Req) (ecc : EccObs) : Dev :=
  let a := localOf r.addr
  let d := match d.canFind (a / 128) with
    | some k => (d.canEcc k r.sector ecc).1
    | none => d
  if r.lines.any fun l => d.repairing l then d
  else match r.kind with
    | .write bs ps => (d.writeMem a bs ps r.pitch r.ident).answer tag [] [] []
    | _ => (d.performNow { r with addr := a }).answer tag [] [] []

/-- A request of this device reaches its home slice. -/
def Dev.homeReq (d : Dev) (tag : Nat) (mine : ReqKind → Bool) (ecc : EccObs) : Dev :=
  match d.req? tag with
  | none => d
  | some r =>
    let line := localOf r.addr / 128
    if r.st != 0 || r.dev.isSome || !mine r.kind || !(regionOf (localOf r.addr)).cached || !d.homeTurn tag r then d
    else
      let d := if ecc == .tag then d.loseTag (d.homeTile (line * 128)) line r.org.core? else d
      let ecc := if ecc == .tag then .clean else ecc
      let single := r.org.core?.isSome || (match r.org with | .hint => true | _ => false)
        || (match r.kind with | .pegSignal _ => true | _ => false)
      (if single then d.homeAccess tag line r ecc else d.homeBurst tag r ecc).finishLost.settle

def execHomeRead (tag : Nat) (ecc : EccObs) (s : State) :=
  s.to (s.dev.homeReq tag (fun k => match k with | .read => true | _ => false) ecc)

def execHomeWrite (tag : Nat × EccObs) (s : State) :=
  s.to (s.dev.homeReq tag.1 (fun k => match k with | .write _ _ => true | _ => false) tag.2)

def execHomeAtomic (tag : Nat × EccObs) (s : State) :=
  s.to (s.dev.homeReq tag.1 (fun k => match k with | .atomic _ _ _ => true | _ => false) tag.2)

def execHomeAddWrite (tag : Nat × EccObs) (s : State) :=
  s.to (s.dev.homeReq tag.1 (fun k => match k with | .addWrite _ _ _ => true | _ => false) tag.2)

def execHomePegSignal (tag : Nat × EccObs) (s : State) :=
  s.to (s.dev.homeReq tag.1 (fun k => match k with | .pegSignal _ => true | _ => false) tag.2)

/-! ## Ports of the stacked memory -/

/-- PORT_READ_DONE, in the order of R291 and while the tile's mesh table has an entry of the pitch (R292). -/
def execPortReadDone (line err0 err1 : Nat) (s : State) :=
  let d := s.dev
  s.to (match d.mem.fetches.find? fun f => f.1 == line with
    | none => d
    | some f =>
      if !d.portTurn f || !((d.fetchPitch f).all fun p => d.meshHas (portKey line).1 p) then d
      else (d.portReadDone line err0 err1).finishLost.settle)

/-- SECTOR_REWRITE (R286): the oldest queued sector of a tile whose mesh table gives 0xFF entries. -/
def execSectorRewrite (tile : Nat) (s : State) :=
  let d := s.dev
  s.to (match (d.tileMem tile).rewriteQ with
    | [] => d
    | sec :: rest =>
      if 4 ≤ tile || !d.meshHas tile 0xFF then d
      else
        (d.modTileMem tile fun m => { m with rewriteQ := rest }).modMem fun m => { m with
          symErr := if tget 0 m.symErr sec ≤ 3 then tput 0 m.symErr sec 0 else m.symErr })

/-- Sectors of a tile. -/
def tileSectors : Nat := 0x4000000

/-- What the scrub does with a sector that reads poisoned: marked in storage, then repaired or quarantined (R464,
R465). -/
def Dev.scrubPoisoned (d : Dev) (sec : Nat) (ue : Bool) : Dev :=
  let line := sec / 2
  let d := if ue then (d.setSecPois sec true).modMem fun m => { m with symErr := tput 0 m.symErr sec 0 } else d
  if d.repairable line then d.startRepair (line / 512) [] else d.quarantineOnUe line ue

/-- PATROL_SCRUB (R286): the next sector of the tile, with the symbol errors found in it. -/
def execPatrolScrub (tile err : Nat) (s : State) :=
  let d := s.dev
  s.to (
    if 4 ≤ tile || !d.meshHas tile 0xFF || !d.power.porReleased || d.boot.stage < 5 then d
    else
      let pos := (d.tileMem tile).scrubPos
      let sec := tile * tileSectors + pos
      let (d, _, pois, ue) := d.readSector sec err
      let d := if pois then d.scrubPoisoned sec ue else d
      (d.modTileMem tile fun m => { m with
        scrubPos := (pos + 1) % tileSectors
        scrubs := if pos + 1 = tileSectors then (m.scrubs + 1) % 2 ^ 16 else m.scrubs }).settle)

/-! ## Bivouac ports -/

def execBivResponse (line : Nat) (pois0 pois1 : Bool) (s : State) :=
  let d := s.dev
  s.to (match regionOf (line * 128) with
    | .biv n => if (d.biv n).waits.contains line then d else (d.bivResponse line pois0 pois1).finishLost.settle
    | _ => d)

/-- BIV_PORT_TIMEOUT (R296): a request has gone unanswered for 400 µs. Every read of the port ends poisoned, and every write
that is not answered is dropped; those outstanding are counted, and so are the writes that waited. -/
def execBivPortTimeout (port : Nat) (s : State) :=
  let d := s.dev
  let b := d.biv port
  let lines := b.pending.map (fun x => x.1) ++ b.waits
  s.to (
    if 2 ≤ port || b.st != 1 || !((b.pending ++ b.writes).any fun x => x.2 + ccUs 400 ≤ d.time) then d
    else
      let d := d.modBiv port fun b => { b with st := 2, pending := [], waits := [], writes := [], writeWaits := [] }
      let d := (d.bivTimeouts port (2 * b.pending.length + b.writes.length + b.writeWaits.length)).event 0x11 port 0
      let waiting := d.mem.fetches.filter fun f => lines.contains f.1
      let d := d.modMem fun m => { m with fetches := m.fetches.filter fun f => !lines.contains f.1 }
      (d.forEach waiting fun d f => d.deliverLine f.1 poisonedLine f.2).finishLost.settle)

/-! ## Repairs and quarantine (R464, R465) -/

/-- Reads of the tile's repair engine in progress. -/
def Dev.repairReqs (d : Dev) (t : Nat) : List (Nat × Req) :=
  d.mem.reqs.filter fun r => match r.2.org with | .repair u => u == t | _ => false

/-- The replica of a repair, once all of it is there: its bytes, or none when it is bad. -/
inductive Replica where
  | waiting
  | bad
  | bytes (b : List Byte)
deriving DecidableEq, Repr

def Dev.replicaNow (d : Dev) (t : Nat) (r : Repair) : Replica :=
  if d.replicaFar r then
    let qs := d.repairReqs t
    if qs.any fun q => q.2.st == 2 && (q.2.status != 0 || !q.2.respPois.isEmpty) then .bad
    else if qs.any fun q => q.2.st != 2 then .waiting
    else .bytes (qs.flatMap fun q => q.2.resp)
  else
    let a := localOf r.replica
    if d.readPois a 0x10000 then .bad else .bytes (d.readMem a 0x10000)

/-- The errors that stand in a replica page of this device, when it has been read. -/
def Dev.readReplica (d : Dev) (r : Repair) : Dev :=
  if d.replicaFar r then d else d.meetErrors (localOf r.replica) 0x10000

/-- The oldest repair of a tile ends: the held requests are answered, and the engine turns to the next. -/
def Dev.endRepair (d : Dev) (t : Nat) (r : Repair) : Dev :=
  let d := d.forEach (d.repairReqs t) fun d q => d.delReq q.1
  let d := d.modTileMem t fun m => { m with repairs := m.repairs.drop 1 }
  let lineOfTag (tag : Nat) : Nat := ((d.req? tag).map fun q => localOf q.addr / 128).getD 0
  let lines := dedup ((r.held.filter fun x => (d.req? x).isSome).map lineOfTag)
  let d := d.forEach lines fun d l => d.deliverLine l (d.homeLine l) (r.held.filter fun x => lineOfTag x == l)
  (d.repairReads t).finishLost.settle

/-- QUARANTINE_CLEAR: MEM_QUAR_CTL of a tile, by the PF. A CLEAR of a page that is not quarantined does nothing. -/
def execQuarantineClear (fn : Fn) (tile : Nat) (v : W32) (s : State) :=
  let d := s.dev
  let pg := tile * 65536 + fld v.toNat 0 16
  s.to (
    if !d.reach fn || !isPf fn || 4 ≤ tile || fld v.toNat 30 2 != 1 || (d.tileMem tile).clearing.isSome
        || !(d.repl pg).quarantined then d
    else d.modTileMem tile fun m => { m with clearing := some pg })

/-- QUARANTINE_CLEAR_DONE: the page is zero with valid check bits, and its bit is clear. -/
def execQuarantineClearDone (tile : Nat) (s : State) :=
  let d := s.dev
  s.to (match (d.tileMem tile).clearing with
    | none => d
    | some pg =>
      if !d.meshHas (pg / 65536) 0xFF then d else
      (d.zeroStacked (pg * 0x10000) 0x10000).modMem (fun m => { m with
        repl := tmod {} m.repl pg fun e => { e with quarantined := false } }) |>.modTileMem tile fun m =>
          { m with clearing := none })

/-! ## The walkers (R331) -/

/-- A walk ends for the instruction in the address stage, which goes on with the entry found, or with the page known bad. -/
def Dev.endWalk (d : Dev) (n : Nat) (w : Walk) (found : Sum RangeEntry Nat) : Dev :=
  let d := d.modXl fun x => { x with walks := tdel x.walks n }
  let waits := (d.core w.core).stage.any fun st => st.walk == some n
  if !waits then d
  else
    let d := d.modCore w.core fun k => { k with stage := k.stage.map fun st => { st with
      walk := none
      bad := match found with | .inr c => st.bad ++ [(w.va / 0x10000, c)] | .inl _ => st.bad
      ents := match found with
        | .inl e => st.ents ++ [{ pitch := w.pitch, cid := w.cid, ent := e, used := 0 }]
        | .inr _ => st.ents } }
    (d.stageGo w.core .clean).settle

/-- RANGE_WALK_READ: one entry has been read at its home as an LC request, with what the read of its sector meets there
(R284). The walk searches the table as it stands live (R327). -/
def execRangeWalkRead (walk : Nat) (s : State) :=
  let d := s.dev
  s.to (match lookup? d.xl.walks walk with
    | none => d
    | some w =>
      let x := d.ctx w.cid
      let w := if w.base == x.rtabBase && w.count == x.rtabCount then w
        else { w with base := x.rtabBase, count := x.rtabCount, lo := 0, hi := x.rtabCount }
      let id := match (d.core w.core).stage with | some st => d.identOf w.core st.slot | none => none
      if w.hi ≤ w.lo then d.endWalk walk w (.inr 2)
      else
        let mid := (w.lo + w.hi) / 2
        let d := (d.count (some w.pitch) 11 1 id).passRead (d.entryAddr w.cid mid) 32 (some w.pitch) id
        match d.readEntry w.cid mid with
        | none => d.endWalk walk w (.inr 4)
        | some e =>
          match bisect e w.va w.lo w.hi mid with
          | .inl (lo, hi) => d.modXl fun x => { x with walks := tset x.walks walk { w with lo := lo, hi := hi } }
          | .inr (.entry e) => (d.cacheInstall w.tile w.pitch w.cid e).endWalk walk w (.inl e)
          | .inr _ => d.endWalk walk w (.inr 2))

end Sys2Proof.Machine
end

