-- ==== Sys2Proof/Machine/Board.lean ====
section
/-!
DEFINITION. The Board (R377 to R403): commands at the heads of queues (R361 to R366), admission of nodes (R379 to R395),
readiness, dispatch and polling (R391, R397, R398), completion, failure and cancellation (R399 to R402), and completion
records (R363).
-/

namespace Sys2Proof.Machine
open Sys2Proof

/-! ## Board cycles (R378) -/

/-- Number of the hub cycle: the hub runs at half the core clock. -/
def Dev.hubCycle (d : Dev) : Nat := d.hubCc / 2

def Dev.boardCycle (d : Dev) (p : Nat) : Bool := d.pitchValid p && bit (planQuads d.pl p) (d.hubCycle % 64)

/-- Admission and dispatch of the pitch are held: it is saved or being saved (R444), or a commit changes it (R394). -/
def Dev.boardHeld (d : Dev) (p : Nat) : Bool := d.pitchStopped p || d.commitChanges p

/-- Admission of the context is held by step 1 of an INVAL (R339). -/
def Dev.invalHeld (d : Dev) (cid : Nat) : Bool := d.host.funcs.any fun f => f.2.xlInval.any fun i => i.1 == cid

/-! ## Fields of commands and node records (R364, R380) -/

def recField (b : List Byte) (o n : Nat) : Nat := leNat ((b.drop o).take n)
def recZero (b : List Byte) (o n : Nat) : Bool := ((b.drop o).take n).all fun x => x == 0

/-- A 64-bit field that holds a 48-bit virtual address. -/
def vaOk (v : Nat) : Bool := v < 2 ^ 48

/-- An amount with its peg: 1 to 2^63 − 1, or 0 without a peg. -/
def amountOk (va amt : Nat) : Bool := if va = 0 then amt == 0 else 1 ≤ amt && amt < 2 ^ 63

/-- What a node's translations gave: pieces of source and destination, peg with the generation of its range, every
generation used, and the spans looked up. -/
structure Checked where
  src : List Seg := []
  dst : List Seg := []
  sig : Option (Nat × Nat) := none
  gens : List Nat := []
  notes : List (Nat × Nat) := []
deriving DecidableEq, Repr

/-- A span translated by the Board, or the code of the fault (R333). -/
def Dev.boardSpan (d : Dev) (cid va len right : Nat) : Sum Nat (List Seg) :=
  if len = 0 then .inr []
  else match d.translateBy (some (d.boardTile (d.ctx cid).pitch)) cid va len right with
    | .ok s => .inr s
    | .fault c => .inl c

/-- A peg (R368): a translation fault comes first; a place that holds no peg makes the command malformed. -/
def Dev.boardPeg (d : Dev) (cid va right : Nat) : Sum Nat (Nat × Nat) :=
  match d.boardSpan cid va 8 right with
  | .inl c => .inl c
  | .inr [s] => if va % 8 != 0 || !(regionOf (localOf s.pa)).cached then .inl 1 else .inr (s.pa, s.gen)
  | .inr _ => .inl 1

def gensOf (s : List Seg) : List Nat := dedup (s.map fun x => x.gen)

/-- Engines of a class (R389): of the quads in logical order, or of the hub. -/
def Dev.engineClass (d : Dev) (p : Nat) (hub : Bool) : List Nat :=
  if hub then (d.hubDmaOf p).map fun e => 64 + e else d.quadsOf p

def Dev.engineOk (d : Dev) (p : Nat) (hub : Bool) (e : Nat) : Bool :=
  let es := d.engineClass p hub
  !es.isEmpty && (e == 0xFF || e < es.length)

/-! ## Node bodies (R382 to R391) -/

def kernelOk (b : List Byte) : Bool :=
  let f := recField b
  vaOk (f 0x10 8) && f 0x18 4 % 8 == 0 && f 0x1C 2 % 8 == 0 && f 0x1C 2 + f 0x18 4 ≤ 65536 && f 0x1E 2 % 8 == 0
    && vaOk (f 0x20 8) && f 0x2C 2 % 8 == 0 && f 0x2E 1 < 4 && (bit (f 0x2E 1) 1 || f 0x2C 2 == 0)
    && recZero b 0x2F 1 && recZero b 0x34 4

def Dev.checkKernel (d : Dev) (cid : Nat) (b : List Byte) : Sum Nat Checked :=
  let f := recField b
  if !kernelOk b then .inl 1
  else match d.boardSpan cid (f 0x10 8) (f 0x18 4) 1 with
    | .inl c => .inl c
    | .inr code =>
      match d.boardSpan cid (f 0x20 8) (f 0x28 4) 1 with
      | .inl c => .inl c
      | .inr args => .inr { src := code, gens := dedup (gensOf code ++ gensOf args)
                            notes := [(f 0x10 8, f 0x18 4), (f 0x20 8, f 0x28 4)] }

/-- CFLAGS that the node allows (R386). -/
def cflagsOk (remote : Bool) (cf : Nat) : Bool :=
  let allowed := if !remote then 0xF9 else if bit cf 8 then 0x181 else 0xFF
  cf &&& allowed == cf

def moveOk (remote : Bool) (b : List Byte) : Bool :=
  let f := recField b
  let cf := f 0x38 4
  let ty := fld cf 4 3
  let n := addElemBytes ty
  vaOk (f 0x10 8) && vaOk (f 0x18 8) && f 0x20 8 ≤ 2 ^ 41 && vaOk (f 0x28 8) && amountOk (f 0x28 8) (f 0x30 8)
    && cflagsOk remote cf && recZero b 0x3D 3
    && (!bit cf 2 || bit cf 1 && f 0x28 8 != 0)
    && (if bit cf 3 then ty < 4 && f 0x10 8 % n == 0 && f 0x18 8 % n == 0 && f 0x20 8 % n == 0 else ty == 0)

/-- The device of a span, if its pieces lie on one. -/
def oneDevice (s : List Seg) : Option Nat :=
  match dedup (s.map fun x => devOf x.pa) with
  | [v] => some v
  | _ => none

/-- Source and destination as R386 requires them after translation. -/
def Dev.sidesOk (d : Dev) (remote get : Bool) (src dst : List Seg) : Bool :=
  let here (s : List Seg) : Bool := s.all fun x => d.isLocal x.pa
  let there (s : List Seg) : Bool := (oneDevice s).any fun v => v != d.ownId
  if !remote then here src && here dst else if get then there src && here dst else here src && there dst

def Dev.checkMove (d : Dev) (p cid : Nat) (remote : Bool) (b : List Byte) : Sum Nat Checked :=
  let f := recField b
  let cf := f 0x38 4
  let len := f 0x20 8
  let sig := f 0x28 8
  if !moveOk remote b || !d.engineOk p (bit cf 7) (f 0x3C 1) then .inl 1
  else match d.boardSpan cid (f 0x10 8) len 1 with
    | .inl c => .inl c
    | .inr src =>
      match d.boardSpan cid (f 0x18 8) len (if bit cf 3 then 3 else 2) with
      | .inl c => .inl c
      | .inr dst =>
        match (if sig = 0 then .inr (0, 0) else d.boardPeg cid sig 3) with
        | .inl c => .inl c
        | .inr peg =>
          if len != 0 && !d.sidesOk remote (bit cf 8) src dst then .inl 1
          else if bit cf 2 && len != 0 && oneDevice dst != some (devOf peg.1) then .inl 1
          else .inr { src := src, dst := dst, sig := if sig = 0 then none else some peg
                      gens := dedup (gensOf src ++ gensOf dst ++ (if sig = 0 then [] else [peg.2]))
                      notes := [(f 0x10 8, len), (f 0x18 8, len)] ++ (if sig = 0 then [] else [(sig, 8)]) }

def Dev.checkPegNode (d : Dev) (cid va right : Nat) : Sum Nat Checked :=
  match d.boardPeg cid va right with
  | .inl c => .inl c
  | .inr peg => .inr { sig := some peg, gens := [peg.2], notes := [(va, 8)] }

def signalOk (b : List Byte) : Bool :=
  let f := recField b
  vaOk (f 0x10 8) && 1 ≤ f 0x18 8 && f 0x18 8 < 2 ^ 63 && f 0x20 4 < 4 && recZero b 0x25 27

def waitOk (b : List Byte) : Bool := vaOk (recField b 0x10 8) && recField b 0x18 8 < 2 ^ 63 && recZero b 0x20 32

/-- R348: vectors that a HOST_NOTIFY may name. -/
def notifyOk (fn : Nat) (b : List Byte) : Bool :=
  let v := recField b 0x10 2
  recZero b 0x12 46 && (if fn = 0 then 3 ≤ v && v ≤ 63 else 1 ≤ v && v ≤ 30)

/-- A node's body checked and translated: the code of the fault that it raises, 0x01 when it is malformed (R365). -/
def Dev.checkBody (d : Dev) (cid typ : Nat) (b : List Byte) : Sum Nat Checked :=
  let p := (d.ctx cid).pitch
  match typ with
  | 2 => d.checkKernel cid b
  | 3 => d.checkMove p cid false b
  | 4 => d.checkMove p cid true b
  | 5 =>
    if !signalOk b || !d.engineOk p (bit (recField b 0x20 1) 1) (recField b 0x24 1) then .inl 1
    else d.checkPegNode cid (recField b 0x10 8) 3
  | 6 => if !waitOk b then .inl 1 else d.checkPegNode cid (recField b 0x10 8) 1
  | 7 => if notifyOk (d.ctx cid).fn b then .inr {} else .inl 1
  | _ => .inl 1

/-! ## Completion (R363, R399 to R402) -/

/-- A completion record (R363), counted as lantern 15. -/
def Dev.record (d : Dev) (cid q : Nat) (index : W32) (status cc : Nat) (id : Option Ident) : Dev :=
  let x := d.ctx cid
  let u := x.queue q
  let n := 2 ^ u.log2
  if !x.live then d
  else
    (d.hostSend (.record x.fn (u.base + BitVec.ofNat 64 (64 * n + 16 * (index.toNat % n))) index status cc)).count
      (some x.pitch) 16 1 id

/-- HEAD moves past the command at the head (R361). -/
def Dev.advanceHead (d : Dev) (cid q : Nat) : Dev :=
  d.modQueue cid q fun u => { u with
    head := u.head + 1, cmds := u.cmds.drop 1, graph := none, stalled := false
    doorbellAt := if u.head + 1 == u.tail then none else u.doorbellAt }

/-- The Board adds to a peg, its address with the generation of its range, at its home. -/
def Dev.boardSignal (d : Dev) (cid : Nat) (peg : Nat × Nat) (amt : W64) : Dev :=
  let r : Req := { kind := .pegSignal amt, addr := peg.1, len := 8, org := .board, pitch := some (d.ctx cid).pitch
                   cid := some cid, gens := [peg.2] }
  if d.isLocal peg.1 then d.performNow { r with addr := localOf peg.1 }
  else (d.send { r with dev := some (devOf peg.1) }).1.settle

/-- GRAPH_COMPLETE (R400): DONE_ADD, then the record. -/
def Dev.graphEnd (d : Dev) (n : Nat) : Dev :=
  match d.graph? n with
  | none => d
  | some g =>
    if g.admitted < g.nodes || g.open_ != 0 then d
    else
      let d := match g.donePeg with
        | some peg => if g.doneRevoked || g.doneStale || g.ended then d else d.boardSignal g.cid peg g.doneAdd
        | none => d
      let d := if g.cpl && !g.ended then d.record g.cid g.q g.index g.status (d.time - g.admitAt) none else d
      d.modBoard fun b => { b with graphs := tdel b.graphs n }

/-- Edges from predecessors of a node that have not completed: only uncompleted nodes are listed. -/
def Dev.hasPreds (d : Dev) (g index : Nat) : Bool :=
  d.board.nodes.any fun m => m.2.graph == g && m.2.succ.contains index

/-- A node becomes ready from the next hub cycle on (R397); a PEG_WAIT node joins the rotation of polls. -/
def Dev.makeReady (d : Dev) (n : Nat) : Dev :=
  match d.node? n with
  | none => d
  | some x =>
    let d := d.modNode n fun x => { x with st := 1, readyAt := d.hubCycle + 1 }
    if x.typ = 6 then d.modPitchBoard x.pitch fun b => { b with pollOrder := b.pollOrder ++ [n] } else d

/-- Nodes of a graph whose predecessors have all completed. -/
def Dev.wake (d : Dev) (g : Nat) : Dev :=
  d.forEach ((d.board.nodes.filter fun m => m.2.graph == g && m.2.st == 0 && m.2.cancelled.isNone
    && !d.hasPreds g m.2.index).map fun m => m.1) Dev.makeReady

/-- NODE_CANCEL (R401, R402): undispatched nodes other than HOST_NOTIFY leave, and the graph's admission ends. -/
def Dev.cancelGraph (d : Dev) (n : Nat) : Dev :=
  match d.graph? n with
  | none => d
  | some g =>
    let gone := d.board.nodes.filter fun m => m.2.graph == n && m.2.st != 2 && m.2.typ != 7
    let ids := gone.map fun m => m.1
    let d := d.modBoard fun b => { b with nodes := b.nodes.filter fun m => !ids.contains m.1 }
    let d := d.modPitchBoard g.pitch fun b => { b with pollOrder := b.pollOrder.filter fun m => !ids.contains m }
    let open_ := g.admitted < g.nodes
    let d := d.modGraph n fun g => { g with
      open_ := g.open_ - ids.length, nodes := g.admitted, admitAt := if open_ then d.time else g.admitAt }
    if open_ then d.advanceHead g.cid g.q else d

/-- The status of a graph in which a node has failed: of the first failure, and of several in one hub cycle that of the
lowest index (R400). -/
def Graph.failed (g : Graph) (hub index status : Nat) : Graph :=
  if status = 0 then g
  else if g.status = 0 || (g.failHub == hub && index < g.failIndex) then
    { g with status := status, failHub := hub, failIndex := index }
  else g

/-- A node completes with a status (R399): its slot and edges are free, and its graph goes on, fails or completes. -/
def Dev.nodeDone (d : Dev) (n status : Nat) : Dev :=
  match d.node? n with
  | none => d
  | some x =>
    let d := d.modBoard fun b => { b with nodes := tdel b.nodes n }
    let d := d.modPitchBoard x.pitch fun b => { b with pollOrder := b.pollOrder.filter fun m => m != n }
    let d := d.modGraph x.graph fun g => { g.failed d.hubCycle x.index status with open_ := g.open_ - 1 }
    if !(d.ctx x.cid).live then d
    else
      let d := if status = 0 then d else d.cancelGraph x.graph
      (d.wake x.graph).graphEnd x.graph

/-! ## Commands at the head of a queue (R361, R365) -/

/-- The queue's head command may begin admission: none does while ACCEPTED is 0 (R23). -/
def Dev.queueMay (d : Dev) (cid q : Nat) : Bool :=
  let x := d.ctx cid
  let u := x.queue q
  d.host.accepted && x.live && x.slot.isSome && u.log2 != 0 && !u.stopped && !u.stalled && u.graph.isNone
    && !d.boardHeld x.pitch && !d.invalHeld cid

/-- Reserved fields of every command (R364). -/
def cmdOk (b : List Byte) : Bool := recField b 1 1 < 2 && recZero b 6 10

/-- Runs the meaning of one opcode on the command at the head of a queue, or raises FLT_ILLEGAL for a malformed one. -/
def Dev.onCmd (d : Dev) (cid q op : Nat) (other : Bool) (f : Dev → List Byte → Dev) : Dev :=
  match (d.queue cid q).cmds.head? with
  | none => d
  | some b =>
    let o := recField b 0 1
    if !d.queueMay cid q || !(o == op || other && 7 < o) then d
    else if !cmdOk b || 7 < o then (d.ctxFault cid 1 0).settle
    else (f d b).settle

/-- A step begins in the Board: its age is its place in the order of the pitch. -/
def Dev.newGraph (d : Dev) (g : Graph) : Dev × Nat :=
  let n := d.board.nextGraph
  let age := (d.pitchBoard g.pitch).ageNext
  let d := d.modBoard fun b => { b with nextGraph := n + 1, graphs := tset b.graphs n { g with age := age } }
  (d.modPitchBoard g.pitch fun b => { b with ageNext := age + 1 }, n)

def Dev.graphFor (d : Dev) (cid q : Nat) (b : List Byte) : Graph :=
  { cid := cid, pitch := (d.ctx cid).pitch, q := q, index := (d.queue cid q).head, cpl := bit (recField b 1 1) 0
    admitAt := d.time }

/-- A single-node command begins admission as a graph of one node. -/
def Dev.singleCmd (d : Dev) (cid q op : Nat) : Dev :=
  d.onCmd cid q op false fun d b =>
    let (d, n) := d.newGraph { d.graphFor cid q b with single := some b }
    d.modQueue cid q fun u => { u with graph := some n }

/-- NOP: completes at admission; an opcode that no command has is malformed here. -/
def execNopCmd (cid q : Nat) (s : State) :=
  s.to (s.dev.onCmd cid q 0 true fun d b =>
    if !recZero b 0x10 48 then d.ctxFault cid 1 0
    else
      let u := d.queue cid q
      let d := d.advanceHead cid q
      if bit (recField b 1 1) 0 then d.record cid q u.head 0 0 (some { cid := cid, layer := BitVec.ofNat 16 (recField b 2 2)
                                                                       oper := BitVec.ofNat 16 (recField b 4 2) }) else d)

def graphOk (b : List Byte) : Bool :=
  let f := recField b
  vaOk (f 0x10 8) && f 0x10 8 % 64 == 0 && f 0x18 4 ≤ 16384 && recZero b 0x1C 4 && vaOk (f 0x20 8)
    && amountOk (f 0x20 8) (f 0x28 8) && recZero b 0x30 16

/-- GRAPH: DONE_PEG is translated, and the admission of the nodes begins; without nodes the command completes. -/
def execGraphCmd (cid q : Nat) (s : State) :=
  s.to (s.dev.onCmd cid q 1 false fun d b =>
    let f := recField b
    if !graphOk b then d.ctxFault cid 1 0
    else
      match (if f 0x20 8 = 0 then .inr none else (d.boardPeg cid (f 0x20 8) 3).map id some) with
      | .inl c => d.ctxFault cid c 0
      | .inr peg =>
        let d := if f 0x20 8 = 0 then d else d.boardNote (d.ctx cid).pitch cid none 4 (f 0x20 8) 8
        let (d, n) := d.newGraph { d.graphFor cid q b with
          va := f 0x10 8, nodes := f 0x18 4, donePeg := peg, doneVa := f 0x20 8, doneAdd := BitVec.ofNat 64 (f 0x28 8) }
        if f 0x18 4 = 0 then (d.advanceHead cid q).graphEnd n
        else d.modQueue cid q fun u => { u with graph := some n })

def execKernelCmd (cid q : Nat) (s : State) := s.to (s.dev.singleCmd cid q 2)
def execCopyCmd (cid q : Nat) (s : State) := s.to (s.dev.singleCmd cid q 3)
def execRemoteCmd (cid q : Nat) (s : State) := s.to (s.dev.singleCmd cid q 4)
def execPegSignalCmd (cid q : Nat) (s : State) := s.to (s.dev.singleCmd cid q 5)
def execHostNotifyCmd (cid q : Nat) (s : State) := s.to (s.dev.singleCmd cid q 7)

/-- A queue-level PEG_WAIT completes (R361, R366): OK moves HEAD, another status stops the queue. -/
def Dev.queueWaitEnd (d : Dev) (cid q status : Nat) : Dev :=
  let u := d.queue cid q
  match u.cmds.head? with
  | none => d
  | some b =>
    let d := if bit (recField b 1 1) 0 then d.record cid q u.head status (d.time - u.stalledAt) none else d
    if status = 0 then d.advanceHead cid q
    else d.modQueue cid q fun u => { u with stopped := true, stalled := false, cmds := [] }

/-- PEG_WAIT at the head of its queue (R362). -/
def execPegWaitCmd (cid q : Nat) (s : State) :=
  s.to (s.dev.onCmd cid q 6 false fun d b =>
    if !waitOk b then d.ctxFault cid 1 0
    else match d.boardPeg cid (recField b 0x10 8) 1 with
      | .inl c => d.ctxFault cid c 0
      | .inr peg =>
        let d := d.boardNote (d.ctx cid).pitch cid none 4 (recField b 0x10 8) 8
        let d := d.modQueue cid q fun u => { u with stalled := true, stalledAt := d.time, pegPa := peg.1, pegGen := peg.2 }
        if recField b 0x18 8 = 0 then d.queueWaitEnd cid q 0 else d)

/-! ## Polls (R370) -/

/-- One read of a peg by the Board or a queue engine (event 0x1D of R500): none while a read of another device's peg is
under way or the pitch has no entry of the home's tile (R292), else whether it is poisoned, and its value. -/
def Dev.pollPeg (d : Dev) (p cid owner : Nat) (peg : Nat × Nat) (id : Option Ident) : Dev × Option (Bool × Nat) :=
  if d.isLocal peg.1 then
    let a := localOf peg.1
    if !d.meshHas (d.homeTile a) p then (d, none)
    else ((d.passRead a 8 (some p) id).count (some p) 0x1D 1 id, some (d.readPois a 8, leNat (d.readMem a 8)))
  else match d.mem.reqs.find? fun r => r.2.org == .poll owner with
    | none =>
      (((d.send { kind := .read, addr := peg.1, len := 8, org := .poll owner, pitch := some p, cid := some cid, ident := id
                  gens := [peg.2], dev := some (devOf peg.1) }).1.count (some p) 0x1D 1 id).settle, none)
    | some (t, r) =>
      if r.st != 2 then (d, none) else (d.delReq t, some (r.status != 0 || !r.respPois.isEmpty, leNat r.resp))

/-- The status with which a read of the peg satisfies a waiter. -/
def pegStatus (thresh : Nat) (x : Bool × Nat) : Option Nat :=
  if x.1 then some 5 else if bit x.2 63 then some 4 else if thresh ≤ x.2 then some 0 else none

/-- PEG_WAIT_QUEUE_POLL (R362, R370). -/
def execPegWaitQueuePoll (cid q : Nat) (s : State) :=
  let d := s.dev
  let x := d.ctx cid
  let u := x.queue q
  s.to (match u.cmds.head? with
    | none => d
    | some b =>
      if !u.stalled || !x.live || x.slot.isNone then d
      else
        let id : Ident := {
          cid := cid, layer := BitVec.ofNat 16 (recField b 2 2), oper := BitVec.ofNat 16 (recField b 4 2) }
        let (d, r) := d.pollPeg x.pitch cid (2 ^ 32 + 8 * cid + q) (u.pegPa, u.pegGen) (some id)
        match r.bind fun y => pegStatus (recField b 0x18 8) y with
        | some st => d.queueWaitEnd cid q st
        | none => d)

/-- PEG_WAIT_NODE_POLL (R391): the next ready PEG_WAIT node of the rotation; one with threshold 0 needs no read. -/
def execPegWaitNodePoll (pitch : Nat) (s : State) :=
  let d := s.dev
  let thresh (x : Node) : Nat := x.field 0x18 8
  let ready := (d.pitchBoard pitch).pollOrder.filter fun n => (d.node? n).any fun x => x.readyAt ≤ d.hubCycle
  s.to (
    if d.boardHeld pitch then d else
    match ready.find? fun n => (d.node? n).any fun x => thresh x == 0 with
    | some n => (d.nodeDone n 0).settle
    | none =>
      if !d.boardCycle pitch || (d.pitchBoard pitch).lastPollHub == some d.hubCycle then d
      else match ready with
        | [] => d
        | n :: _ =>
          match d.node? n with
          | none => d
          | some x =>
            let d := d.modPitchBoard pitch fun b => { b with
              lastPollHub := some d.hubCycle, pollOrder := (b.pollOrder.filter fun m => m != n) ++ [n] }
            let id : Option Ident := some { cid := x.cid, layer := x.layer, oper := x.oper }
            let (d, r) := d.pollPeg pitch x.cid n (x.sig.getD (0, 0)) id
            match r.bind fun y => pegStatus (thresh x) y with
            | some st => (d.nodeDone n st).settle
            | none => d)

/-! ## Admission (R392 to R395) -/

/-- Bytes of the graph's own memory: the code of a fault, or the bytes with what the reading used. -/
def Dev.graphBytes (d : Dev) (cid va len : Nat) : Sum Nat (List Byte × List Nat) :=
  match d.boardSpan cid va len 1 with
  | .inl c => .inl c
  | .inr ss =>
    if !(ss.all fun s => d.isLocal s.pa && (regionOf (localOf s.pa)).cached) then .inl 1
    else if ss.any fun s => d.readPois (localOf s.pa) s.len then .inl 4
    else .inr (ss.flatMap fun s => d.readMem (localOf s.pa) s.len, gensOf ss)

/-- A node of a graph read and checked (R379 to R381): its record, successors and translations. -/
def Dev.readNode (d : Dev) (g : Graph) : Sum Nat (List Byte × List Nat × Checked) :=
  let i := g.admitted
  match g.single with
  | some b => (d.checkBody g.cid (recField b 0 1) b).map id fun c => (b, [], c)
  | none =>
    match d.graphBytes g.cid (g.va + 64 * i) 64 with
    | .inl c => .inl c
    | .inr (b, gens) =>
      let typ := recField b 0 1
      let ns := recField b 6 2
      let off := recField b 8 4
      let nf := recField b 1 1
      if !(2 ≤ typ && typ ≤ 7) || 1 < nf || (nf == 1 && typ != 3 && typ != 4) || 16383 < ns
          || (ns == 0 && off != 0) || !recZero b 0x0C 4 then .inl 1
      else match d.graphBytes g.cid (g.va + 64 * g.nodes + 2 * off) (2 * ns) with
        | .inl c => .inl c
        | .inr (eb, gens') =>
          let succ := (List.range ns).map fun k => recField eb (2 * k) 2
          if succ.any fun x => x ≤ i || g.nodes ≤ x then .inl 1
          else (d.checkBody g.cid typ b).map id fun c =>
            (b, succ, { c with gens := dedup (gens ++ gens' ++ c.gens)
                               notes := (g.va + 64 * i, 64) :: (g.va + 64 * g.nodes + 2 * off, 2 * ns) :: c.notes })

/-- What the reading of a part of a graph meets in memory (R284, R286). -/
def Dev.passSpan (d : Dev) (cid va len : Nat) : Dev :=
  match d.boardSpan cid va len 1 with
  | .inl _ => d
  | .inr ss => d.forEach (ss.filter fun s => d.isLocal s.pa) fun d s =>
      d.passRead (localOf s.pa) s.len (some (d.ctx cid).pitch) none

/-- The head node's record and its successor list are read. -/
def Dev.passNode (d : Dev) (g : Graph) : Dev :=
  if g.single.isSome then d
  else
    let d := d.passSpan g.cid (g.va + 64 * g.admitted) 64
    match d.graphBytes g.cid (g.va + 64 * g.admitted) 64 with
    | .inl _ => d
    | .inr (b, _) => d.passSpan g.cid (g.va + 64 * g.nodes + 2 * recField b 8 4) (2 * recField b 6 2)

/-- Node slots and on-chip edge entries of a pitch in use (R377, R395). -/
def Dev.nodesOf (d : Dev) (p : Nat) : List (Nat × Node) := d.board.nodes.filter fun n => n.2.pitch == p
def Dev.edgesOnChip (d : Dev) (p : Nat) : Nat := ((d.nodesOf p).map fun n => n.2.onChip).sum
def Dev.edgesSpilled (d : Dev) (cid : Nat) : Nat :=
  ((d.board.nodes.filter fun n => n.2.cid == cid).map fun n => n.2.spilled).sum

/-- Entries for a node's edges: on chip first, then in the context's spill area; none while they do not fit. -/
def Dev.edgeRoom (d : Dev) (p cid k : Nat) : Option (Nat × Nat) :=
  let chip := min k (512 * d.quadCount p - d.edgesOnChip p)
  if k - chip ≤ (d.ctx cid).spillLimit - d.edgesSpilled cid then some (chip, k - chip) else none

/-- Edges of the head node of a graph, as far as its record can be read. -/
def Dev.headEdges (d : Dev) (g : Graph) : Nat :=
  match d.readNode g with | .inr x => x.2.1.length | .inl _ => 0

/-- R394: the queue's head is admissible. -/
def Dev.admissible (d : Dev) (p : Nat) (g : Graph) : Bool :=
  let x := d.ctx g.cid
  d.host.accepted && x.live && x.slot.isSome && !d.invalHeld g.cid && (d.nodesOf p).length < 256 * d.quadCount p
    && (d.edgeRoom p g.cid (d.headEdges g)).isSome

/-- The next admissible queue after the one that admitted last, in order of CID and queue. -/
def Dev.nextQueue (d : Dev) (p : Nat) : Option (Nat × Graph) :=
  let b := d.pitchBoard p
  let gs := d.board.graphs.filter fun g => g.2.pitch == p && g.2.admitted < g.2.nodes
    && (d.queue g.2.cid g.2.q).graph == some g.1 && d.admissible p g.2
  let key (g : Nat × Graph) : Nat := 8 * g.2.cid + g.2.q
  let after := gs.filter fun g => b.rotated && 8 * b.lastCid + b.lastQ < key g
  match minBy? key after with
  | some g => some g
  | none => minBy? key gs

/-- The node takes a slot of the pitch. -/
def Dev.placeNode (d : Dev) (n : Nat) (g : Graph) (b : List Byte) (succ : List Nat) (c : Checked) : Dev :=
  let room := (d.edgeRoom g.pitch g.cid succ.length).getD (0, 0)
  let id := d.board.nextNode
  let x : Node := {
    typ := recField b 0 1, early := g.single.isNone && bit (recField b 1 1) 0
    layer := BitVec.ofNat 16 (recField b 2 2), oper := BitVec.ofNat 16 (recField b 4 2)
    pitch := g.pitch, cid := g.cid, graph := n, index := g.admitted, succ := succ, body := b.drop 0x10
    src := c.src, dst := c.dst, sig := c.sig, gens := c.gens, onChip := room.1, spilled := room.2 }
  let ident : Option Ident := some { cid := x.cid, layer := x.layer, oper := x.oper }
  let d := d.forEach c.notes fun d y => d.boardNote g.pitch g.cid ident spanFuel y.1 y.2
  let d := d.modBoard fun b => { b with nextNode := id + 1, nodes := tset b.nodes id x }
  let d := d.modGraph n fun g => { g with admitted := g.admitted + 1, open_ := g.open_ + 1 }
  if d.hasPreds n x.index then d else d.makeReady id

/-- NODE_ADMIT. -/
def execNodeAdmit (pitch : Nat) (s : State) :=
  let d := s.dev
  s.to (
    if !d.boardCycle pitch || d.boardHeld pitch || (d.pitchBoard pitch).lastHub == some d.hubCycle then d
    else match d.nextQueue pitch with
      | none => d
      | some (n, g) =>
        let d := d.modPitchBoard pitch fun b => { b with
          lastHub := some d.hubCycle, lastCid := g.cid, lastQ := g.q, rotated := true }
        let d := d.passNode g
        match d.readNode g with
        | .inl c => (d.ctxFault g.cid c 0).settle
        | .inr (b, succ, c) =>
          let d := d.placeNode n g b succ c
          if g.admitted + 1 < g.nodes then d
          else (d.advanceHead g.cid g.q).modGraph n fun g => { g with admitAt := d.time })

/-! ## Dispatch (R383, R389, R391, R398) -/

/-- Descriptors that an engine holds. -/
def Dev.engineLoad (d : Dev) (e : Nat) : Nat := (d.board.descs.filter fun x => x.2.engine == e && x.2.kind != 2).length

/-- The engine that a node goes to (R389). -/
def Dev.pickEngine (d : Dev) (p : Nat) (hub : Bool) (e : Nat) : Option Nat :=
  let es := d.engineClass p hub
  if e = 0xFF then minBy? (fun x => d.engineLoad x) es else es[e]?

/-- HUB and ENGINE of a COPY, REMOTE or PEG_SIGNAL node. -/
def Node.engineSel (x : Node) : Bool × Nat :=
  if x.typ = 5 then (bit (x.field 0x20 1) 1, x.field 0x24 1) else (bit (x.field 0x38 1) 7, x.field 0x3C 1)

def Dev.engineOf (d : Dev) (x : Node) : Option Nat := d.pickEngine x.pitch x.engineSel.1 x.engineSel.2

def Dev.canDispatch (d : Dev) (x : Node) : Bool :=
  match x.typ with
  | 2 => decide (((d.nodesOf x.pitch).filter fun m => m.2.typ == 2 && m.2.st == 2).length < 8)
  | 7 => true
  | 6 => false
  | _ => (d.engineOf x).any fun e => decide (d.engineLoad e < 4)

/-- R398: EARLY first, then the oldest step, then the lowest index. -/
def Dev.dispatchKey (d : Dev) (x : Node) : Nat :=
  (b2n (!x.early) * 2 ^ 64 + ((d.graph? x.graph).map fun g => g.age).getD 0) * 2 ^ 20 + x.index

def Dev.pickDispatch (d : Dev) (p : Nat) : Option (Nat × Node) :=
  minBy? (fun m => d.dispatchKey m.2) ((d.nodesOf p).filter fun m =>
    m.2.st == 1 && m.2.readyAt ≤ d.hubCycle && m.2.cancelled.isNone && (d.ctx m.2.cid).live && d.canDispatch m.2)

/-- An uncorrectable error in the Board's SRAM: the node completes POISONED (R460, R401; DESIGN CHOICE, log 182). The manual
does not say which slot a node takes, so its number is free. -/
def Dev.slotLost (d : Dev) (p n : Nat) : Dev :=
  let (slot, d) := d.takeFree
  ((d.event 0x17 p (slot.toNat % (256 * max 1 (d.quadCount p)))).nodeDone n 5).settle

/-- One dispatch in a Board cycle of the pitch, if the node that is chosen is of the type. The chosen node starts at the
end of the hub cycle, since a cancellation in it takes effect first (R403). `p.2` says that its slot is lost. -/
def Dev.dispatch (d : Dev) (p : Nat × Bool) (typ : Nat) : Dev :=
  let (p, lost) := p
  if !d.boardCycle p || d.boardHeld p || (d.pitchBoard p).lastDispHub == some d.hubCycle then d
  else match d.pickDispatch p with
    | none => d
    | some (n, x) =>
      if x.typ != typ then d
      else
        let d := d.modPitchBoard p fun b => { b with lastDispHub := some d.hubCycle }
        if lost then d.slotLost p n else d.modNode n fun x => { x with st := 3 }

def Dev.addDesc (d : Dev) (x : Desc) : Dev :=
  let n := d.board.nextDesc
  (d.modBoard fun b => { b with nextDesc := n + 1, descs := tset b.descs n x }).modEngine x.engine fun e =>
    { e with queue := e.queue ++ [n] }

/-- Steps 2 to 4 of R383: L1s are invalidated, groups assigned, array programs queued. -/
def Dev.launch (d : Dev) (n : Nat) : Dev :=
  match d.node? n with
  | none => d
  | some x =>
    let cores := d.coresOf x.pitch
    let groups := x.field 0x30 4
    let array := bit (x.field 0x2E 1) 1
    let d := d.forEach cores.zipIdx fun d c =>
      let mine := ((List.range ((groups + cores.length - 1 - c.2) / cores.length)).map fun i => c.2 + i * cores.length)
      d.modCore c.1 fun k => { k.l1Clear with
        waiting := k.waiting ++ mine.map fun g => { node := n, num := g }
        progQueue := if array then k.progQueue ++ [n] else k.progQueue }
    d.modNode n fun x => { x with launched := true, groupsLeft := groups, progsLeft := if array then cores.length else 0 }

/-- A KERNEL node starts (R383, R384): its code is loaded, or its groups and array programs are queued at once. -/
def Dev.startKernel (d : Dev) (n : Nat) (x : Node) : Dev :=
  let len := x.field 0x18 4
  if len = 0 then
    if x.field 0x30 4 = 0 && !bit (x.field 0x2E 1) 1 then d.nodeDone n 0 else d.launch n
  else
    let cores := d.coresOf x.pitch
    let d := d.modNode n fun x => { x with codeLeft := cores.length }
    d.forEach cores fun d c => d.addDesc {
      node := some n, kind := 2, cid := x.cid, pitch := x.pitch, engine := quadOf c, src := x.src, len := len
      get := !(x.src.all fun g => d.isLocal g.pa), gens := gensOf x.src
      dst := [{ pa := d.ownId * 2 ^ 44 + imemAddr c (x.field 0x1C 2), len := len, gen := 0 }] }

/-- KERNEL_NODE_COMPLETE (R384). -/
def execKernelNodeComplete (node : Nat) (s : State) :=
  let d := s.dev
  s.to (match d.node? node with
    | none => d
    | some x =>
      if x.typ == 2 && x.st == 2 && x.launched && x.groupsLeft == 0 && x.progsLeft == 0 then (d.nodeDone node 0).settle
      else d)

/-- The signal of a completed COPY, REMOTE or PEG_SIGNAL whose length is 0, or of the Board: at once. -/
def Dev.signalNow (d : Dev) (cid : Nat) (sig : Option (Nat × Nat)) (amt : W64) : Dev :=
  match sig with
  | some peg => d.boardSignal cid peg amt
  | none => d

/-- COPY and REMOTE nodes become descriptors; one of length 0 completes at once (R387). -/
def Dev.startMove (d : Dev) (n : Nat) (x : Node) : Dev :=
  let cf := x.field 0x38 4
  let len := x.field 0x20 8
  let amt := BitVec.ofNat 64 (x.field 0x30 8)
  if len = 0 then (d.signalNow x.cid x.sig amt).nodeDone n 0
  else match d.engineOf x with
    | none => d
    | some e => d.addDesc {
        node := some n, cid := x.cid, pitch := x.pitch, engine := e, src := x.src, dst := x.dst, len := len
        lc := bit cf 0, final := bit cf 1, attach := bit cf 2, add := if bit cf 3 then some (fld cf 4 3) else none
        get := bit cf 8, sig := x.sig, sigAdd := amt, gens := x.gens }

/-- A PEG_SIGNAL node becomes a descriptor. -/
def Dev.startSignal (d : Dev) (n : Nat) (x : Node) : Dev :=
  match d.engineOf x with
  | none => d
  | some e => d.addDesc {
      node := some n, kind := 1, cid := x.cid, pitch := x.pitch, engine := e, sig := x.sig
      sigAdd := BitVec.ofNat 64 (x.field 0x18 8), ordered := bit (x.field 0x20 1) 0, gens := x.gens }

/-- A HOST_NOTIFY node raises its vector and completes. -/
def Dev.startNotify (d : Dev) (n : Nat) (x : Node) : Dev := (d.msix (d.ctx x.cid).fn (x.field 0x10 2)).nodeDone n 0

/-- A dispatched node starts. -/
def Dev.startNode (d : Dev) (n : Nat) (x : Node) : Dev :=
  let d := d.modNode n fun x => { x with st := 2 }
  let d := d.countDispatch x.pitch (some { cid := x.cid, layer := x.layer, oper := x.oper })
  (match x.typ with
    | 2 => d.startKernel n x
    | 5 => d.startSignal n x
    | 7 => d.startNotify n x
    | _ => d.startMove n x).settle

/-- The end of a hub cycle: what was chosen in it and not cancelled starts. -/
def Dev.startChosen (d : Dev) : Dev :=
  d.forEach (d.board.nodes.filter fun m => m.2.st == 3 && m.2.cancelled.isNone) fun d m => d.startNode m.1 m.2

def Dev.tickBoard (d : Dev) : Dev := if (d.hubCc + 1) / 2 == d.hubCycle then d else d.startChosen

/-- KERNEL_NODE_DISPATCH. -/
def execKernelNodeDispatch (pitch : Nat × Bool) (s : State) := s.to (s.dev.dispatch pitch 2)

/-- COPY_NODE_DISPATCH. -/
def execCopyNodeDispatch (pitch : Nat × Bool) (s : State) := s.to (s.dev.dispatch pitch 3)

/-- REMOTE_NODE_DISPATCH. -/
def execRemoteNodeDispatch (pitch : Nat × Bool) (s : State) := s.to (s.dev.dispatch pitch 4)

/-- PEG_SIGNAL_NODE_DISPATCH. -/
def execPegSignalNodeDispatch (pitch : Nat × Bool) (s : State) := s.to (s.dev.dispatch pitch 5)

/-- HOST_NOTIFY_NODE_DISPATCH. -/
def execHostNotifyNodeDispatch (pitch : Nat × Bool) (s : State) := s.to (s.dev.dispatch pitch 7)

end Sys2Proof.Machine
end

