-- ==== Sys2Proof/Machine/Dma.lean ====
section
/-!
DEFINITION. The DMA engines (R196, R197, R308, R312, R316, R385 to R390, R417, R418): beginning a descriptor, its
chunks, its final writes, ordered signals, and completion.
-/

namespace Sys2Proof.Machine
open Sys2Proof

/-! ## Statuses (R367) -/

/-- Place of a status in the order of R367; OK comes last. -/
def statusRank (s : Nat) : Nat :=
  match s with | 2 => 0 | 3 => 1 | 1 => 2 | 5 => 3 | 4 => 4 | 0 => 6 | _ => 5

def worseStatus (a b : Nat) : Nat := if statusRank b < statusRank a then b else a

def Dev.noteStatus (d : Dev) (n s : Nat) : Dev := d.modDesc n fun x => { x with status := worseStatus x.status s }

/-- Identifiers of a descriptor's node (R501). -/
def Dev.descIdent (d : Dev) (x : Desc) : Option Ident :=
  (x.node.bind fun n => d.node? n).map fun y => { cid := y.cid, layer := y.layer, oper := y.oper }

/-! ## Pieces of a descriptor -/

/-- The physical address at an offset of a span, and the bytes left in its piece. -/
def segAt : List Seg → Nat → Option (Nat × Nat)
  | [], _ => none
  | s :: rest, o => if o < s.len then some (s.pa + o, s.len - o) else segAt rest (o - s.len)

/-- Reads of a GET descriptor that have not yet been written, in order of offset. -/
def Dev.descReads (d : Dev) (n : Nat) : List (Nat × Nat × Req) :=
  sortBy (fun a b => decide (a.2.1 < b.2.1)) (d.mem.reqs.filterMap fun r => match r.2.org with
    | .descRead m o => if m == n then some (r.1, o, r.2) else none
    | _ => none)

/-- Requests of a descriptor that are not over. -/
def Dev.descBusy (d : Dev) (x : Desc) : Bool := x.await.any fun t => (d.req? t).any fun r => r.st != 2

/-- Requests of a descriptor that are over leave, with their statuses. -/
def Dev.reap (d : Dev) (n : Nat) : Dev :=
  match d.desc? n with
  | none => d
  | some x =>
    let over_ := x.await.filter fun t => (d.req? t).all fun r => r.st == 2
    let st := over_.foldl (fun s t => match d.req? t with | some r => worseStatus s r.status | none => s) x.status
    let d := d.forEach over_ fun d t => d.delReq t
    d.modDesc n fun x => { x with await := x.await.filter fun t => !over_.contains t, status := st }

/-- The engine sends a request for its descriptor. -/
def Dev.descSend (d : Dev) (n : Nat) (r : Req) : Dev :=
  let (d, t) := d.send r
  d.modDesc n fun x => { x with await := x.await ++ [t] }

/-! ## Beginning (R196, R197, R389, R390) -/

/-- Instruction-memory banks of this device among a span. -/
def Dev.banksIn (d : Dev) (s : List Seg) : List (Nat × Nat) :=
  (allCores.flatMap fun c => [(c, 0), (c, 1), (c, 2), (c, 3)]).filter fun b => s.any fun g =>
    let a := imemAddr b.1 (0x4000 * b.2)
    d.isLocal g.pa && localOf g.pa < a + 0x4000 && a < localOf g.pa + g.len

/-- The peg signal of a PEG_SIGNAL descriptor goes out; a bare or local one as the descriptor begins. -/
def Dev.sendPegSignal (d : Dev) (n : Nat) (x : Desc) : Dev :=
  match x.sig with
  | none => d
  | some peg =>
    (d.descSend n { kind := .pegSignal x.sigAdd, addr := peg.1, len := 8, org := .desc n, pitch := some x.pitch
                    cid := some x.cid, ident := d.descIdent x, sender := x.engine
                    dev := if d.isLocal peg.1 then none else some (devOf peg.1) }).modDesc n fun x =>
      { x with issuedAll := true, sigDone := true }

/-- The engine may begin its next descriptor: the one before has issued its last request. -/
def Dev.engineFree (d : Dev) (e : Nat) : Bool :=
  match (d.engine e).cur with
  | none => true
  | some n => (d.desc? n).all fun x => x.issuedAll || (x.stopped && (d.descReads n).isEmpty)

def execDescriptorBegin (engine : Nat) (s : State) :=
  let d := s.dev
  s.to (match (d.engine engine).queue with
    | [] => d
    | n :: rest =>
      if (d.engine engine).paused || !d.engineFree engine then d
      else match d.desc? n with
        | none => d.modEngine engine fun e => { e with queue := rest }
        | some x =>
          let d := d.modEngine engine fun e => { e with queue := rest, cur := some n }
          if x.stopped then d.modDesc n fun x => { x with issuedAll := true }
          else if x.kind = 1 then
            (if x.ordered && x.sig.any (fun p => !d.isLocal p.1) then d else d.sendPegSignal n x).settle
          else
            let banks := d.banksIn x.dst
            let busy := banks.filter fun b => (d.core b.1).touched.getLsbD b.2
            if busy.isEmpty then
              (d.forEach banks fun d b => d.modCore b.1 fun k => { k with locked := tmod 0 k.locked b.2 (· + 1) }).modDesc n
                fun x => { x with banks := banks }
            else
              (d.forEach (dedup (busy.map fun b => b.1)) fun d c => d.modCore c fun k =>
                { k with imemBusy := k.imemBusy.bump 0xFF 1 d.time }).modDesc n
                fun x => { x with issuedAll := true, status := 2 })

/-- ORDERED_SIGNAL_SEND (R316, R390): every earlier write of the engine to the peg's device has been acknowledged. -/
def execOrderedSignalSend (engine : Nat) (s : State) :=
  let d := s.dev
  s.to (match (d.engine engine).cur with
    | none => d
    | some n =>
      match d.desc? n with
      | none => d
      | some x =>
        let dev := x.sig.map fun p => devOf p.1
        let earlier := d.mem.reqs.any fun r => r.2.st != 2 && r.2.dev == dev && r.2.sender == engine && (match r.2.org with
          | .desc _ => true
          | _ => false)
        if x.kind != 1 || !x.ordered || x.issuedAll || x.stopped || (d.engine engine).paused || earlier then d
        else (d.sendPegSignal n x).settle)

/-! ## Chunks (R312, R388) -/

/-- Counts DMA sectors written (R499 7). -/
def Dev.countDma (d : Dev) (x : Desc) (pa n : Nat) : Dev :=
  d.count (some x.pitch) 8 ((pa + n - 1) / 64 + 1 - pa / 64) (d.descIdent x)

/-- Sectors of a destination (counted from the sector of its address) that poisoned source bytes reach. -/
def poisonTo (dst : Nat) (pois : List Bool) : List Nat :=
  dedup ((pois.zipIdx.filter fun x => x.1).map fun x => (dst + x.2) / 64 - dst / 64)

/-- Counted writes that the engine has sent to a device since the last final, and the final still unacknowledged. -/
def Dev.finalWaits (d : Dev) (e dev : Nat) : Bool :=
  match lookup? (d.engine e).finalOut dev with
  | some t => (d.req? t).any fun r => r.st != 2
  | none => false

/-- A write to another device, with the fields of R417 and R418. -/
def Dev.sendRemote (d : Dev) (n : Nat) (x : Desc) (kind : ReqKind) (pa len : Nat) (final : Bool)
    (peg : Option (Nat × W64)) : Dev :=
  let e := x.engine
  let dev := devOf pa
  let cnt := tget 0 (d.engine e).epochCnt dev
  let (d, t) := d.send {
    kind := kind, addr := pa, len := len, org := .desc n, pitch := some x.pitch, cid := some x.cid, lc := x.lc
    ident := d.descIdent x, sender := e, epoch := tget false (d.engine e).epochPar dev, counted := true
    finCnt := if final then some cnt else none, peg := peg, dev := some dev }
  let d := d.modDesc n fun x => { x with await := x.await ++ [t] }
  d.modEngine e fun q =>
    if final then { q with epochCnt := tset q.epochCnt dev 0, epochPar := tmod false q.epochPar dev (!·)
                           finalOut := tset q.finalOut dev t }
    else { q with epochCnt := tset q.epochCnt dev (cnt + 1) }

/-- Writes one chunk, with the poison of each byte, at its destination; `last` when nothing of the descriptor follows
it. -/
def Dev.writeChunk (d : Dev) (n : Nat) (x : Desc) (pa : Nat) (bs : List Byte) (pb : List Bool) (isLast : Bool) : Dev :=
  let len := bs.length
  let ps := poisonTo pa pb
  let d := d.countDma x pa len
  let kind : ReqKind := match x.add with
    | some ty => .addWrite ty (withOffsets bs) ps
    | none => .write (withOffsets bs) ps
  if !d.isLocal pa then
    let forced := tget 0 (d.engine x.engine).epochCnt (devOf pa) == 2 ^ 24 - 1
    let final := isLast && x.final
    let peg := if final && x.attach then x.sig.map fun p => (p.1, x.sigAdd) else none
    let d := d.sendRemote n x kind pa len (final || forced) peg
    if peg.isSome then d.modDesc n fun x => { x with sigDone := true } else d
  else
    let a := localOf pa
    let base : Req := { kind := kind, addr := pa, len := len, org := .desc n, pitch := some x.pitch, cid := some x.cid
                        lc := x.lc, ident := d.descIdent x, sender := x.engine }
    match regionOf a with
    | .stacked _ | .biv _ => d.descSend n base
    | .spad c =>
      let off := a - spadAddr c 0
      let (d, t) := d.send { base with st := 1 }
      let d := d.modDesc n fun x => { x with await := x.await ++ [t] }
      d.forEach (List.range ((off + len - 1) / 64 + 1 - off / 64)) fun d i =>
        let u := off / 64 + i
        let mine := (withOffsets bs).filter fun b => (off + b.1) / 64 == u
        let bad := dedup ((pb.zipIdx.filter fun y => y.1 && (off + y.2) / 64 == u).map fun y => (off + y.2) % 64 / 32)
        d.spadPush c {
          kind := .write t (mine.map fun b => ((off + b.1) % 64, b.2)) bad, unit := 64 * u, own := false
          since := d.time }
    | .imem _ => (d.endTestAt a len).writeMem a (withOffsets bs) ps none none
    | _ => d

/-- Nothing more to issue but a final: an empty one ends the writes of a descriptor to another device (R418). -/
def Dev.endIssue (d : Dev) (n : Nat) (x : Desc) : Dev :=
  match segAt x.dst (x.len - 1) with
  | some (pa, _) =>
    if d.isLocal pa || x.final then d.modDesc n fun x => { x with issuedAll := true }
    else if d.finalWaits x.engine (devOf pa) then d
    else
      -- the address of the descriptor's last write to that device
      let lastAt := max (pa / 512 * 512) (((x.dst.find? fun s => s.pa ≤ pa && pa < s.pa + s.len).map fun s => s.pa).getD pa)
      (d.sendRemote n x (.write [] []) lastAt 0 true none).modDesc n fun x => { x with issuedAll := true }
  | none => d.modDesc n fun x => { x with issuedAll := true }

/-- The write of a chunk has to wait: a final may leave only after the ACK of the one before (R417). -/
def Dev.chunkWaits (d : Dev) (x : Desc) (pa : Nat) (isLast : Bool) : Bool :=
  !d.isLocal pa && (isLast && x.final || tget 0 (d.engine x.engine).epochCnt (devOf pa) == 2 ^ 24 - 1)
    && d.finalWaits x.engine (devOf pa)

/-- The chunk of the destination at an offset of a descriptor: its address and its bytes (R312, R388). -/
def Desc.chunkAt (x : Desc) (o : Nat) : Option (Nat × Nat) :=
  (segAt x.dst o).map fun p => (p.1, min p.2 (min (x.len - o) (512 - p.1 % 512)))

/-- The pieces of a span that hold `n` bytes from an offset on. -/
def piecesAt : List Seg → Nat → Nat → List (Nat × Nat)
  | [], _, _ => []
  | s :: rest, o, n =>
    if s.len ≤ o then piecesAt rest (o - s.len) n
    else if n ≤ s.len - o then [(s.pa + o, n)]
    else (s.pa + o, s.len - o) :: piecesAt rest 0 (n - (s.len - o))

/-- The requests that read a piece of at most 512 B: each lies within one chunk (R415). -/
def inChunks (p : Nat × Nat) : List (Nat × Nat) :=
  if p.1 % 512 + p.2 ≤ 512 then [p] else [(p.1, 512 - p.1 % 512), (p.1 + (512 - p.1 % 512), p.2 - (512 - p.1 % 512))]

/-- The engine reads pieces of this device: the bytes, and which of them are poisoned. -/
def Dev.readPieces (d : Dev) (x : Desc) (ps : List (Nat × Nat)) (seen : EccSeen) : Dev × List Byte × List Bool :=
  ps.foldl (fun (acc : Dev × List Byte × List Bool) p =>
    let a := localOf p.1
    let d := ((acc.1.endTestAt a p.2).sourceSeen a p.2 seen).passRead a p.2 (some x.pitch) (acc.1.descIdent x)
    let bad := (List.range ((a + p.2 - 1) / 32 + 1 - a / 32)).filter fun i => d.readPois (32 * (a / 32 + i)) 32
    (d, acc.2.1 ++ d.readMem a p.2, acc.2.2 ++ (List.range p.2).map fun i => bad.contains ((a + i) / 32 - a / 32)))
    (d, [], [])

/-- LC reads of the pitch go ahead of a bulk descriptor's read of a home slice (R291), the lines of a bivouac range ahead
of the descriptor work of their hub DMA engine (R295), and the tile's mesh table has an entry of the pitch (R292). -/
def Dev.dmaTurn (d : Dev) (x : Desc) (ps : List (Nat × Nat)) : Bool :=
  ps.all (fun p => !(regionOf (localOf p.1)).cached || (d.meshHas (d.homeTile (localOf p.1)) x.pitch
      && (x.lc || !(d.mem.reqs.any fun r => d.lcAt (some x.pitch) (d.homeTile (localOf p.1)) r))))
    && !([0, 1].any fun n => ((d.biv n).waits ++ (d.biv n).writeWaits).any fun l =>
      (d.bivOwner n (dpaOf (l * 128))).any fun q => (d.hubDmaOf q).head? == some (x.engine - 64) && 64 ≤ x.engine)

/-- What pieces of this device wait for: pages to repair, then the banks of scratchpads (R257). -/
def Dev.claimPieces (d : Dev) (e : Nat) (ps : List (Nat × Nat)) : Dev × Bool :=
  let waits := dedup (ps.flatMap fun p => d.repairsFor (localOf p.1) p.2)
  if waits.isEmpty then
    d.claim e (ps.foldl (fun us p => us ++ (spadUnitsOf (localOf p.1) p.2).filter fun u => !us.contains u) [])
  else (d.beginRepairs waits, false)

/-- The next chunk of a descriptor of this device's data: one burst, wherever its bytes come from (R312). -/
def Dev.nextChunk (d : Dev) (n : Nat) (x : Desc) (seen : EccSeen) : Dev :=
  match x.chunkAt x.done with
  | none => d.modDesc n fun x => { x with issuedAll := true }
  | some (da, k) =>
    let ps := piecesAt x.src x.done k
    if d.chunkWaits x da (x.done + k == x.len) || !d.dmaTurn x ps then d
    else
      match d.claimPieces x.engine ps with
      | (d, false) => d
      | (d, true) =>
        let (d, bs, pb) := d.readPieces x ps seen
        let d := if pb.any id then d.noteStatus n 5 else d
        let d := d.writeChunk n x da bs pb (x.done + k == x.len)
        let d := d.modDesc n fun x => { x with done := x.done + k }
        if x.done + k = x.len then d.endIssue n { x with done := x.len } else d

/-- A read of a GET descriptor: sent to its device, or performed here when a code object lies on this device in part. -/
def Dev.readPart (d : Dev) (n : Nat) (x : Desc) (p : Nat × Nat) (seen : EccSeen) : Dev :=
  let r : Req := { kind := .read, addr := p.1, len := p.2, org := .descRead n x.done, pitch := some x.pitch, cid := some x.cid
                   lc := x.lc, ident := d.descIdent x, sender := x.engine }
  let d :=
    if d.isLocal p.1 then
      let (d, bs, pb) := d.readPieces x [p] seen
      let a := localOf p.1
      (d.send { r with st := 2, resp := bs, respPois := poisonTo a pb }).1
    else (d.send { r with dev := some (devOf p.1) }).1
  d.modDesc n fun x => { x with done := x.done + p.2 }

/-- The reads of the next chunk of a GET descriptor. -/
def Dev.nextRead (d : Dev) (n : Nat) (x : Desc) (seen : EccSeen) : Dev :=
  match x.chunkAt x.done with
  | none => d.modDesc n fun x => { x with issuedAll := true }
  | some (_, k) =>
    let ps := (piecesAt x.src x.done k).flatMap inChunks
    if !d.dmaTurn x (ps.filter fun p => d.isLocal p.1) then d else
    match d.claimPieces x.engine (ps.filter fun p => d.isLocal p.1) with
    | (d, false) => d
    | (d, true) => d.forEach ps fun d p => d.readPart n ((d.desc? n).getD x) p seen

/-- The reads of a GET descriptor's first unwritten chunk, with its place, once all have returned. -/
def Dev.chunkReads (d : Dev) (n : Nat) (x : Desc) : Option (Nat × Nat × List (Nat × Nat × Req)) :=
  match d.descReads n with
  | [] => none
  | first :: rest =>
    match x.chunkAt first.2.1 with
    | none => none
    | some (da, k) =>
      let rs := (first :: rest).filter fun r => r.2.1 < first.2.1 + k
      if rs.all fun r => r.2.2.st == 2 then some (da, k, rs) else none

/-- The returned reads of a chunk are written to its place as one burst (R317: poisoned where a device was lost). -/
def Dev.writeBack (d : Dev) (n : Nat) (x : Desc) (da : Nat) (rs : List (Nat × Nat × Req)) : Dev :=
  let bs := rs.flatMap fun r => (r.2.2.resp ++ zeros r.2.2.len).take r.2.2.len
  let pb := rs.flatMap fun r =>
    let a := localOf r.2.2.addr
    (List.range r.2.2.len).map fun i => r.2.2.status != 0 || r.2.2.respPois.contains ((a + i) / 64 - a / 64)
  let st := rs.foldl (fun s r => worseStatus s r.2.2.status) 0
  let d := (d.forEach rs fun d r => d.delReq r.1).writeChunk n x da bs pb false
  let d := if st != 0 then d.noteStatus n st else if pb.any id then d.noteStatus n 5 else d
  if rs.any fun r => r.2.1 + r.2.2.len == x.len then d.modDesc n fun x => { x with issuedAll := true } else d

/-- DMA_CHUNK: the engine goes on with the descriptor that it works on. -/
def execDmaChunk (engine : Nat) (seen : EccSeen) (s : State) :=
  let d := s.dev
  s.to (match (d.engine engine).cur with
    | none => d
    | some n =>
      let d := d.reap n
      match d.desc? n with
      | none => d
      | some x =>
        if x.kind = 1 || x.issuedAll then d
        else
          match d.chunkReads n x with
          | some (da, _, rs) => (d.writeBack n x da rs).settle
          | none =>
            if x.stopped || (d.engine engine).paused then d
            else if x.done < x.len then
              (if x.get then d.nextRead n x seen else if (d.descReads n).isEmpty then d.nextChunk n x seen else d).settle
            else if x.get then d else (d.endIssue n x).settle)

/-! ## Completion (R308, R387, R388) -/

/-- The peg of a descriptor: signalled after OK and POISONED, abandoned after any other status. A peg of another
device is left as it is, since no packet carries the mark (log 62). -/
def Dev.descSignal (d : Dev) (x : Desc) (status : Nat) : Dev :=
  match x.sig with
  | none => d
  | some peg =>
    if x.sigDone || !(d.ctx x.cid).live then d
    else
      let r : Req := { kind := .pegSignal x.sigAdd, addr := peg.1, len := 8, org := .board, pitch := some x.pitch
                       cid := some x.cid, ident := d.descIdent x, sender := x.engine }
      if status = 0 || status = 5 then
        (if d.isLocal peg.1 then d.performNow { r with addr := localOf peg.1 }
         else (d.send { r with dev := some (devOf peg.1) }).1)
      else if d.isLocal peg.1 then d.performNow { r with kind := .pegAbandon, addr := localOf peg.1 }
      else d

/-- One code load of a KERNEL node is over (R383 step 1). -/
def Dev.codeLoaded (d : Dev) (n status : Nat) : Dev :=
  let d := d.modNode n fun x => { x with codeLeft := x.codeLeft - 1, status := worseStatus x.status status }
  match d.node? n with
  | none => d
  | some x =>
    if x.codeLeft != 0 then d
    else if x.status != 0 then d.nodeDone n x.status
    else if x.field 0x30 4 = 0 && !bit (x.field 0x2E 1) 1 then d.nodeDone n 0
    else d.launch n

/-- DESCRIPTOR_COMPLETE. -/
def execDescriptorComplete (desc : Nat) (s : State) :=
  let d := s.dev.reap desc
  s.to (match d.desc? desc with
    | none => d
    | some x =>
      if !(x.issuedAll || x.stopped) || !x.await.isEmpty || !(d.descReads desc).isEmpty then d
      else
        let d := d.descSignal x x.status
        let d := d.unlockBanks x.banks
        let d := d.modEngine x.engine fun e => { e with
          queue := e.queue.filter fun m => m != desc, cur := if e.cur == some desc then none else e.cur }
        let d := d.modBoard fun b => { b with descs := tdel b.descs desc }
        match x.node with
        | none => d.settle
        | some n => (if x.kind = 2 then d.codeLoaded n x.status else d.nodeDone n x.status).settle)

/-! ## Utilisation (R373) -/

/-- The context whose descriptor an engine works on in this cc. -/
def Dev.engineCtx (d : Dev) (e : Engine) : Option Nat :=
  if e.paused then none else (e.cur.bind d.desc?).map fun x => x.cid

/-- A cc ends: one more DMA cc for the context of each working engine. -/
def Dev.tickDma (d : Dev) : Dev :=
  d.forEach (d.board.engines.filterMap fun e => d.engineCtx e.2) fun d c =>
    d.modCtx c fun x => { x with dmaCc := (x.dmaCc + 1) % 2 ^ 64 }

end Sys2Proof.Machine
end

