-- ==== Sys2Proof/Machine/XlCmds.lean ====
section
/-!
DEFINITION. The MAP and INVAL commands (R336 to R342, R463, R538).
-/

namespace Sys2Proof.Machine
open Sys2Proof

/-- A command of a function completes with a code. -/
def Dev.xlDone (d : Dev) (f : Fn) (code : Nat) : Dev :=
  (d.modFunc f fun g => { g with
    xlBusy := false, xlCode := code, xlMap := none, xlInval := none, xlWait := none
    xlElapsed := satAdd 0xFFFF 0 (usOf (d.time - g.xlStart)) }).cmdVector f

/-- A virtual function may name only contexts of its pitch; the context exists, or is being torn down. -/
def Dev.xlCidOk (d : Dev) (f : Fn) (cid : Nat) : Bool :=
  (d.ctx cid).exists_ && (isPf f || d.pitchOfVf f == some (d.ctx cid).pitch)

/-! ## MAP (R337, R338, R463) -/

/-- R324 against a neighbour: `lo` ends where `hi` begins at the latest. -/
def inOrder (lo hi : RangeEntry) : Bool := lo.vstart + lo.bytes ≤ hi.vstart

def Dev.entryAt (d : Dev) (cid i : Nat) : RangeEntry := parseEntry (d.readMem (d.entryAddr cid i) 32)

/-- The lowest code of R337 that fails from 0x03 on, or 0. -/
def Dev.mapCode (d : Dev) (f : Fn) (cid i : Nat) : Nat :=
  let n := (d.ctx cid).rtabCount
  let e := d.entryAt cid i
  let p := (d.ctx cid).pitch
  let far := !d.isLocal e.pstart
  let region := regionOf (localOf e.pstart)
  if n ≤ i then 0x03
  else if e.rsvd then 0x04
  else if d.readPois (d.entryAddr cid i) 32 then 0x05
  else if e.valid then 0x06
  else if e.len = 0 || 0x2000000 < e.len || 2 ^ 48 < e.vstart + e.bytes then 0x07
  else if (i != 0 && !inOrder (d.entryAt cid (i - 1)) e) || (i + 1 < n && !inOrder e (d.entryAt cid (i + 1))) then 0x08
  else if !(e.r || e.w || e.a) || (e.r && !regionAllows region 1) || (e.w && !regionAllows region 2)
      || (e.a && !regionAllows region 3) || (e.shared && (e.w || e.a)) then 0x09
  else if !d.mapTargetOk p e then 0x0A
  else if !isPf f && (far || e.shared || e.repl) then 0x0B
  else if e.repl && (!e.shared || !d.replicaOk e.replPstart e.bytes) then 0x0C
  else 0

/-- A page of the target waits for zeroisation (R458). -/
def Dev.mapWaits (d : Dev) (e : RangeEntry) : Bool :=
  d.isLocal e.pstart && (regionOf (localOf e.pstart)).isStacked && d.mem.zeroPend.any fun z =>
    pageOf (localOf e.pstart) ≤ z.1 && z.1 < pageOf (localOf e.pstart) + e.len

/-- The replica directory takes the pages of a SHARED range with a replica (R463). -/
def Dev.noteReplicas (d : Dev) (e : RangeEntry) : Dev :=
  if e.shared && e.repl && d.isLocal e.pstart then
    d.forEach (List.range e.len) fun d i => d.modMem fun m => { m with
      repl := tmod {} m.repl (pageOf (localOf e.pstart) + i) fun x => { x with
        valid := true, replica := e.replPstart + 0x10000 * i, setAt := d.time
        oldValid := if x.setAt = d.time then x.oldValid else x.valid
        oldReplica := if x.setAt = d.time then x.oldReplica else x.replica } }
  else d

/-- A MAP runs: it is refused, waits for pages, or writes VALID 1 into its entry. One that names a context in teardown
waits for the teardown's end, which completes it (R342). -/
def Dev.runMap (d : Dev) (f : Fn) (cid i : Nat) : Dev :=
  let code := d.mapCode f cid i
  let e := d.entryAt cid i
  if !d.xlCidOk f cid then d.xlDone f 0x02
  else if (d.ctx cid).dying then d.modFunc f fun g => { g with xlMap := some (cid, i) }
  else if !(d.ctx cid).live then d.xlDone f 0x0D
  else if code != 0 then d.xlDone f code
  else if d.mapWaits e then d.modFunc f fun g => { g with xlMap := some (cid, i) }
  else
    let a := d.entryAddr cid i + 0x14
    let b := ((d.readMem a 1)[0]?).getD 0
    ((d.writeMem a [(0, b ||| 1)] [] none none).noteReplicas e).xlDone f 0

/-! ## INVAL (R339 to R342) -/

/-- Accesses of the context's groups translated through a generation and not yet performed (R339 step 4), by their own
number, or for an instruction that has left translation and waits in the address stage by its number there (R341). -/
def Dev.accsThrough (d : Dev) (cid g : Nat) : List Nat :=
  (d.cores.flatMap fun k => k.2.slots.flatMap fun s =>
    if s.2.cid == cid then (s.2.accs.filter fun a => a.gens.contains g).map fun a => a.id else [])
  ++ d.cores.filterMap fun k => k.2.stage.bind fun st =>
    if (k.2.group? st.slot).any (fun s => s.cid == cid) && st.segs.any (fun x => x.gen == g) then st.op else none

/-- Requests of the context sent through a generation: fills, carried requests, reads and signals of pegs. -/
def Dev.tagsThrough (d : Dev) (cid g : Nat) : List Nat :=
  (d.mem.reqs.filter fun r => r.2.cid == some cid && r.2.gens.contains g && r.2.st != 2).map fun r => r.1

/-- One of the accesses has not been performed, or waits in an address stage. -/
def Dev.accsOpen (d : Dev) (accs : List Nat) : Bool :=
  d.cores.any fun k => (k.2.slots.any fun g => g.2.accs.any fun a => accs.contains a.id || accs.contains a.op)
    || k.2.stage.any fun st => st.op.any fun n => accs.contains n

def Dev.tagsOpen (d : Dev) (tags : List Nat) : Bool :=
  tags.any fun t => (d.req? t).any fun r => r.st != 2

/-- Steps 1 to 3; step 4 waits for INVAL_DRAIN_DONE. -/
def Dev.runInval (d : Dev) (f : Fn) (cid g : Nat) : Dev :=
  if !d.xlCidOk f cid then d.xlDone f 0x02
  else
    let d := d.dropCached fun e => e.cid == cid && e.ent.gen == g
    let graphs := d.board.graphs.filter fun x => x.2.cid == cid && x.2.donePeg.any fun p => p.2 == g
    -- a graph still being admitted has its DONE_PEG translated anew after step 5 (R341)
    let (early, late) := graphs.partition fun x => x.2.admitted < x.2.nodes
    let revoked := late.map fun x => x.1
    let d := d.forEach revoked fun d n => d.modGraph n fun x => { x with doneRevoked := true }
    let d := d.forEach (early.map fun x => x.1) fun d n => d.modGraph n fun x => { x with doneStale := true }
    let failed := (d.board.nodes.filter fun x => x.2.cid == cid && x.2.st < 2 && x.2.cancelled.isNone
      && (x.2.gens.contains g || revoked.contains x.2.graph)).map fun x => x.1
    let d := d.forEach failed fun d n => d.nodeDone n 1
    -- a node dispatched in this hub cycle has started (R403)
    let d := d.startChosen
    -- one whose admission a failed node has ended is scanned like an admitted one
    let d := d.forEach (early.map fun x => x.1) fun d n => d.modGraph n fun x =>
      { x with doneRevoked := x.doneRevoked || x.nodes ≤ x.admitted }
    let descs := (d.board.descs.filter fun x => x.2.cid == cid && x.2.gens.contains g).map fun x => x.1
    let d := d.forEach descs fun d n => d.modDesc n fun x => { x with
      stopped := true, status := worseStatus x.status 1
      -- a peg whose own translation is withdrawn stays as it is (R388)
      sigDone := x.sigDone || x.sig.any fun p => p.2 == g }
    d.modFunc f fun x => { x with xlInval := some (cid, g, d.accsThrough cid g, descs, d.tagsThrough cid g) }

/-- DONE_PEG of a graph whose admission an INVAL held is translated against the table as it stands (R341). -/
def Dev.renewDone (d : Dev) (cid : Nat) : Dev :=
  d.forEach ((d.board.graphs.filter fun x => x.2.cid == cid && x.2.doneStale).map fun x => (x.1, x.2.doneVa)) fun d x =>
    match d.boardPeg cid x.2 3 with
    | .inl c => d.ctxFault cid c 0
    | .inr peg =>
      (d.boardNote (d.ctx cid).pitch cid none 4 x.2 8).modGraph x.1 fun g => { g with donePeg := some peg, doneStale := false }

/-- INVAL_DRAIN_DONE (R339 steps 4 and 5). -/
def execInvalDrainDone (fn : Fn) (s : State) :=
  let d := s.dev
  s.to (match (d.func fn).xlInval with
    | none => d
    | some (cid, _, accs, descs, tags) =>
      if (d.ctx cid).dying || (descs.any fun n => (d.desc? n).isSome) || d.accsOpen accs || d.tagsOpen tags then d
      else ((d.xlDone fn 0).renewDone cid).settle)

/-! ## Issue (R336, R538) -/

/-- BAR4 writes of the function, the held ones among them. -/
def Func.bar4Posted (g : Func) : Nat := g.bar4Writes + (g.bar4Held.filter fun h => h.2.1.isSome).length

/-- A started command runs its checks and its work. -/
def Dev.runXl (d : Dev) (f : Fn) (v : Nat) : Dev :=
  let op := xlOp v
  let d := d.modFunc f fun g => { g with xlWait := none, xlStart := d.time }
  if (op != 1 && op != 2) || v / 2 ^ 42 != 0 || (op == 1 && xlGen v != 0) || (op == 2 && xlIndex v != 0) then d.xlDone f 0x01
  else if op = 1 then d.runMap f (xlCid v) (xlIndex v)
  else (d.runInval f (xlCid v) (xlGen v)).settle

/-- A write of XL_CMD: ignored while a command runs; it starts once the function's posted BAR4 writes are performed.
The low half held for the function is discarded with the write (R538). -/
def Dev.xlWrite (d : Dev) (fn : Fn) (w : CmdWrite) (mine : Nat → Bool) : Dev :=
  let (d', v) := d.takeCmd fn .xl w
  let f := regFn fn
  if !d.reach fn || !mine (xlOp v) then d
  else if (d.func f).xlBusy then d'
  else
    let d := d'.modFunc f fun g => { g with xlBusy := true }
    if (d.func f).bar4Writes < (d.func f).bar4Posted then
      d.modFunc f fun g => { g with xlWait := some v, xlAfter := g.bar4Posted }
    else d.runXl f v

end Sys2Proof.Machine
end

