-- ==== Sys2Proof/Machine/HostObj.lean ====
section
/-!
DEFINITION. Contexts (R353 to R356, R453 to R458), queues and doorbells (R357 to R361), BAR4 (R346, R349 to R351,
R458), peg registrations (R371), queries (R372, R373), and function-level resets of virtual functions (R345).
-/

namespace Sys2Proof.Machine
open Sys2Proof

/-! ## BAR4 (R349 to R351, R458) -/

/-- The local address behind an offset of a function's window, if there is one. -/
def Dev.bar4Addr (d : Dev) (f : Fn) (x : Nat) : Option Nat :=
  if 2 ^ (d.func f).bar4Log2 ≤ x then none
  else if isPf f then (if d.host.bar4Win + x < 2 ^ 34 then some (d.host.bar4Win + x) else none)
  else match d.pitchOfVf f with
    | none => none
    | some p => ((d.gransOf p)[x / 0x4000000]?).map fun g => g * 0x4000000 + x % 0x4000000

/-- Pieces of an access, none over a granule's end: local address if any, offset in the access, bytes. -/
def Dev.bar4Pieces (d : Dev) (f : Fn) : Nat → Nat → Nat → Nat → List (Option Nat × Nat × Nat)
  | 0, _, _, _ => []
  | n + 1, x, o, len =>
    if len = 0 then []
    else
      let k := min len (0x4000000 - x % 0x4000000)
      (d.bar4Addr f x, o, k) :: d.bar4Pieces f n (x + k) (o + k) (len - k)

/-- Pages that an access has to wait for: waiting for zeroisation, or in need of repair. -/
def Dev.bar4Waits (d : Dev) (ps : List (Option Nat × Nat × Nat)) : Bool :=
  ps.any fun p => match p.1 with
    | none => false
    | some a => (d.mem.zeroPend.any fun z => z.1 * 0x10000 < a + p.2.2 && a < z.1 * 0x10000 + 0x10000)
      || !(d.repairsFor a p.2.2).isEmpty

/-- The pitch in whose NoC entries the access travels (R351): none for the PF's 0xFF entries. -/
def Dev.bar4Pitch (d : Dev) (f : Fn) : Option Nat := if isPf f then none else d.pitchOfVf f

/-- The mesh tables of the tiles that an access goes to have an entry of its owner: the pitch, or 0xFF (R292, R351). -/
def Dev.bar4Slots (d : Dev) (f : Fn) (ps : List (Option Nat × Nat × Nat)) : Bool :=
  ps.all fun p => p.1.all fun a => d.meshHas (d.homeTile a) ((d.bar4Pitch f).getD 0xFF)

/-- An access is performed: a write with its EP mark, or a read whose completion leaves. -/
def Dev.bar4Do (d : Dev) (f : Fn) (ps : List (Option Nat × Nat × Nat)) (w : Option (List Byte × Bool)) : Dev :=
  let p := d.bar4Pitch f
  match w with
  | some (bs, ep) =>
    d.forEach ps fun d x => match x.1 with
      | none => d
      | some a => d.writeMem a (withOffsets ((bs.drop x.2.1).take x.2.2))
          (if ep then List.range (x.2.2 / 64 + 2) else []) p none
  | none =>
    let d := d.forEach ps fun d x => match x.1 with | none => d | some a => d.passRead a x.2.2 p none
    let bytes := ps.flatMap fun x => match x.1 with | none => zeros x.2.2 | some a => d.readMem a x.2.2
    let ep := ps.any fun x => match x.1 with | none => false | some a => d.readPois a x.2.2
    d.emit (.bar4Data f bytes ep)

/-- Held accesses of a function in their order, as far as they need not wait. -/
def Dev.flushFn (d : Dev) (f : Fn) : Nat → Dev
  | 0 => d
  | n + 1 =>
    match (d.func f).bar4Held with
    | [] => d
    | (x, w, len) :: rest =>
      let ps := d.bar4Pieces f 256 x 0 len
      if !d.bar4Slots f ps then d
      else if d.bar4Waits ps then
        d.forEach ps fun d p => match p.1 with | none => d | some a => d.beginRepairs (d.repairsFor a p.2.2)
      else ((d.modFunc f fun g => { g with
        bar4Held := rest, bar4Writes := g.bar4Writes + b2n w.isSome }).bar4Do f ps w).flushFn f n

/-- What waits for pages goes on for a function: BAR4 accesses, then a MAP command or one that waits for BAR4 writes. -/
def Dev.flushOne (d : Dev) (f : Fn) : Dev :=
  let d := d.flushFn f (d.func f).bar4Held.length
  let g := d.func f
  match g.xlMap, g.xlWait with
  | some m, _ => d.runMap f m.1 m.2
  | none, some v => if g.bar4Writes < g.xlAfter then d else d.runXl f v
  | none, none => d

def Dev.flushHeld (d : Dev) : Dev := d.forEach (tkeys d.host.funcs) Dev.flushOne

/-- An access through BAR4: behind those already held. Before full service a read returns 0 and a write is dropped; in
recovery BAR4 is not implemented (R64). -/
def Dev.bar4Access (d : Dev) (fn : Fn) (off len : Nat) (w : Option (List Byte × Bool)) : Dev :=
  if fn == 65 then d
  else if d.reach fn then (d.modFunc fn fun g => { g with bar4Held := g.bar4Held ++ [(off, w, len)] }).flushOne fn
  else if d.configReach fn && d.configServed && !d.boot.recovery && !d.fullService && w.isNone then
    d.emit (.bar4Data fn (zeros len) false)
  else d

def execBar4Read (fn : Fn) (off len : Nat) (s : State) := s.to (s.dev.bar4Access fn off len none)

def execBar4Write (fn : Fn) (off : Nat) (data : List Byte) (ep : Bool) (s : State) :=
  s.to (s.dev.bar4Access fn off data.length (some (data, ep)))

/-- BAR4_RESIZE (R346, R349), a configuration request; in recovery BAR4 is not implemented (R64). Every bit of
HUB_BAR4_WIN.BASE below the PF's new size is cleared. -/
def execBar4Resize (fn : Fn) (log2 : Nat) (s : State) :=
  s.to (s.dev.onConfig fn fun d =>
    if d.boot.recovery || log2 < 28 || 34 < log2 then d
    else
      let d := d.modFunc fn fun g => { g with bar4Log2 := log2 }
      if fn = 0 then d.modHost fun h => { h with bar4Win := h.bar4Win / 2 ^ log2 * 2 ^ log2 } else d)

/-- BAR4_WIN_WRITE (R349). -/
def execBar4WinWrite (fn : Fn) (v : W64) (s : State) :=
  let d := s.dev
  let base := fld v.toNat 28 6 * 2 ^ 28
  s.to (
    if !d.reach fn || !isPf fn || base % 2 ^ (d.func 0).bar4Log2 != 0 then d
    else d.modHost fun h => { h with bar4Win := base })

/-! ## The end of a repair (R463): what waited for it goes on, the BAR4 accesses among it -/

/-- REPAIR_COMPLETE: the replica has been written over the page (event kind 0x09). -/
def execRepairComplete (tile : Nat) (s : State) :=
  let d := s.dev
  s.to (match (d.tileMem tile).repairs with
    | [] => d
    | r :: _ =>
      match d.replicaNow tile r with
      | .bytes b =>
        if r.at_ + ccUs 40 ≤ d.time || !d.meshHas tile 0xFF
            || !(d.replicaFar r || d.meshHas (d.homeTile (localOf r.replica)) 0xFF) then d
        else
          let a := r.page * 0x10000
          let d := d.readReplica r
          let d := d.zeroStacked a 0x10000
          let d := d.modMem fun m => { m with bytes := setBytes m.bytes a b }
          let d := d.modTileMem tile fun m => { m with repairCnt := m.repairCnt.bump 0xFFFF 1 d.time }
          ((d.event 0x09 tile (r.page % 65536)).endRepair tile r).flushHeld
      | _ => d)

/-- REPAIR_TIMEOUT: the repair has failed, at 40 µs or by a bad replica, and the page is quarantined. -/
def execRepairTimeout (tile : Nat) (s : State) :=
  let d := s.dev
  s.to (match (d.tileMem tile).repairs with
    | [] => d
    | r :: _ =>
      if d.replicaNow tile r == .bad then (((d.readReplica r).quarantine r.page).endRepair tile r).flushHeld
      else if r.at_ + ccUs 40 ≤ d.time then ((d.quarantine r.page).endRepair tile r).flushHeld
      else d)

/-! ## Creation and destruction (R353, R354, R453) -/

/-- A context command of a function completes at once. -/
def Dev.ctxDone (d : Dev) (f : Fn) (code cid : Nat) : Dev :=
  (d.modFunc f fun g => { g with ctxBusy := false, ctxCode := code, ctxCid := cid }).cmdVector f

/-- A context as CREATE leaves it: registers that R353 does not name keep their values. -/
def Ctx.created (x : Ctx) (p fn : Nat) : Ctx :=
  { x with
    exists_ := true, dying := false, killed := false, destroyed := false, fault := 0, pitch := p, fn := fn
    slot := none, compat := false, audit := false, rtabCount := 0, pegs := [], quiet := false, hadWork := false
    elapsed := 0, cancelled := 0, orphanRemote := 0, pegAbandoned := 0, pegSkip := 0, zeroFull := [], destroyFn := none
    carriedWrites := 0, threadCc := 0, arrayAc := 0, dmaCc := 0
    queues := x.queues.map fun q => (q.1, { q.2 with
      log2 := 0, cmds := [], stopped := false, stalled := false, graph := none, doorbellAt := none
      readUpTo := q.2.head }) }

/-- The pitch of a context that a function creates. -/
def Dev.createPitch (d : Dev) (fn : Fn) (named : Nat) : Option Nat :=
  if isPf fn then (if d.pitchValid named then some named else none) else d.pitchOfVf fn

/-- CREATE; a write with a reserved OP is taken here and refused. -/
def Dev.createWrite (d : Dev) (fn : Fn) (v : W32) : Dev :=
  let v := v.toNat
  let op := fld v 30 2
  let f := regFn fn
  if !d.reach fn || op == 2 || (d.func f).ctxBusy then d
  else if op != 1 || fld v 24 6 != 0 || fld v 12 6 != 0 || fld v 0 12 != 0 || (!isPf fn && fld v 18 6 != 0) then
    d.ctxDone f 1 (fld v 0 12)
  else match d.createPitch fn (fld v 18 6) with
    | none => d.ctxDone f 2 0
    | some p =>
      if 64 * d.quadCount p ≤ (d.pitchCtxs p).length then d.ctxDone f 3 0
      else match (List.range 4096).find? fun c => (d.ctx c).free with
        | none => d.ctxDone f 6 0
        | some c => (d.modCtx c fun x => x.created p f).ctxDone f 0 c

/-- A killed context is released: its teardown has already run (R453). -/
def Dev.releaseKilled (d : Dev) (cid : Nat) : Dev :=
  (d.xlGone cid).modCtx cid fun x => { x with exists_ := false, killed := false, destroyed := true }

def Dev.destroyWrite (d : Dev) (fn : Fn) (v : W32) : Dev :=
  let v := v.toNat
  let f := regFn fn
  let cid := fld v 0 12
  let x := d.ctx cid
  if !d.reach fn || fld v 30 2 != 2 || (d.func f).ctxBusy then d
  else if fld v 24 6 != 0 || fld v 18 6 != 0 || fld v 12 6 != 0 then d.ctxDone f 1 cid
  else if !x.exists_ || !(isPf fn || d.pitchOfVf fn == some x.pitch) then d.ctxDone f 4 cid
  else if x.dying then d.ctxDone f 5 cid
  else if x.killed then (d.releaseKilled cid).ctxDone f 0 cid
  else ((d.modFunc f fun g => { g with ctxBusy := true, ctxCid := cid }).startTeardown cid (some f) false).settle

/-! ## The end of a teardown (R454 step 4, R451, R457, R458) -/

/-- Requests of the context that are over and that nobody will take any more. -/
def Dev.dropDone (d : Dev) (cid : Nat) : Dev :=
  d.modMem fun m => { m with reqs := m.reqs.filter fun r => !(r.2.cid == some cid && r.2.st == 2 && (match r.2.org with
    | .desc _ | .descRead _ _ | .board | .poll _ => true
    | _ => false)) }

/-- TEARDOWN_DRAIN_END: every request is done, or the bound of step 4 is reached, which leaves only requests to other
devices and to the bivouac tier; a save of the pitch finishes first. -/
def execTeardownDrainEnd (cid : Nat) (s : State) :=
  let d := s.dev
  let x := d.ctx cid
  let left := (d.ctxRequests cid).filterMap fun t => d.req? t
  let far (r : Req) : Bool := r.dev.isSome || (regionOf (localOf r.addr)).isBiv
  let saving := (d.host.preBusy.any fun b => b.1 && b.2.1 == x.pitch)
    || d.plan.commit.any fun c => c.phase == 3 && c.saved.contains x.pitch
  s.to (
    if !d.tearing cid || saving || d.ctxLocalBusy cid || (left.any fun r => !far r) then d
    else if (left.isEmpty && x.carriedWrites == 0 && !d.ctxBuffered cid) || x.teardownAt + ccUs 300 ≤ d.time then
      ((d.dropDone cid).endTeardown cid).settle
    else d)

/-- PAGE_ZEROISED: one page of a context that has ended is zero, with valid check bits. -/
def execPageZeroised (page : Nat) (s : State) :=
  let d := s.dev
  s.to (match lookup? d.mem.zeroPend page with
    | none => d
    | some c1 =>
      let cid := c1 - 1
      let g := page / 1024
      let d := (d.zeroStacked (page * 0x10000) 0x10000).modMem fun m => { m with zeroPend := tdel m.zeroPend page }
      let d := d.modCtx cid fun x => { x with zeroPend := x.zeroPend - 1 }
      let whole := (d.ctx cid).zeroFull.contains g && !(d.mem.zeroPend.any fun z => z.1 / 1024 == g)
      let d := if whole then d.modPlan fun p => { p with lastOwner := tdel p.lastOwner g } else d
      d.flushHeld.settle)

/-! ## Resident slots (R355, R356) -/

def Queue.waits (u : Queue) : Bool := u.head != u.tail

/-- A context is busy. -/
def Dev.ctxBusy (d : Dev) (cid : Nat) : Bool :=
  (d.board.nodes.any fun n => n.2.cid == cid) || (d.board.graphs.any fun g => g.2.cid == cid)
    || (d.cores.any fun k => k.2.seq.cid == cid && (k.2.seq.st != 0 || k.2.seq.endAt.isSome))
    || (d.ctx cid).queues.any fun q => q.2.waits && !q.2.stalled

/-- The earliest accepted doorbell of a context that waits for a slot. -/
def Dev.waitsSince (d : Dev) (cid : Nat) : Nat :=
  ((d.ctx cid).queues.filterMap fun q => if q.2.waits then q.2.doorbellAt else none).foldl min (2 ^ 64)

def Dev.waitingCtx (d : Dev) (p : Nat) : Option Nat :=
  minBy? (fun c => d.waitsSince c) ((d.pitchCtxs p).filter fun c =>
    (d.ctx c).live && (d.ctx c).slot.isNone && (d.ctx c).queues.any fun q => q.2.waits)

def Dev.residents (d : Dev) (p : Nat) : List Nat := (d.pitchCtxs p).filter fun c => (d.ctx c).slot.isSome

/-- Resident slots are numbered by the pitch's quads (log 69). -/
def Dev.freeSlot (d : Dev) (p : Nat) : Option Nat :=
  ((d.quadsOf p).filter fun q => !((d.residents p).any fun c => (d.ctx c).slot == some q)).foldl
    (fun m q => match m with | some x => some (min x q) | none => some q) none

/-- CONTEXT_EVICT: no slot is free, and a context waits. -/
def execContextEvict (pitch : Nat) (s : State) :=
  let d := s.dev
  s.to (
    if !d.pitchValid pitch || (d.waitingCtx pitch).isNone || (d.freeSlot pitch).isSome then d
    else match minBy? (fun c => (d.ctx c).residentAt) ((d.residents pitch).filter fun c => !d.ctxBusy c) with
      | none => d
      | some c => d.modCtx c fun x => { x with
          slot := none
          -- a stalled head stays at its place, unpolled
          queues := x.queues.map fun q => (q.1, { q.2 with
            cmds := if q.2.stalled then q.2.cmds.take 1 else []
            doorbellAt := if q.2.waits then some d.time else q.2.doorbellAt  -- DEDUCED (log 93): it waits anew from here
            readUpTo := if q.2.stalled then q.2.head + 1 else q.2.head }) })

/-- R24: a context made resident in the cc of a write to HUB_IFVER_SEL counts as resident, so the write has no effect. -/
def Dev.keepIfver (d : Dev) : Dev :=
  match d.host.ifverBefore with
  | some (t, sel, acc, ref) =>
    if t = d.time then d.modHost fun h => { h with ifverSel := sel, accepted := acc, refused := ref } else d
  | none => d

/-- CONTEXT_LOAD: the waiting context whose earliest accepted doorbell is oldest takes a free slot. -/
def execContextLoad (pitch : Nat) (s : State) :=
  let d := s.dev
  s.to (
    if !d.pitchValid pitch then d
    else match d.waitingCtx pitch, d.freeSlot pitch with
      | some c, some n => (d.modCtx c fun x => { x with slot := some n, residentAt := d.time }).keepIfver
      | _, _ => d)

/-! ## Doorbells and slots (R357 to R361, R109) -/

/-- A doorbell is tested at the cc in which it takes effect (R359). -/
def Dev.ringDoorbell (d : Dev) (fn : Fn) (cid q : Nat) (tail : W32) : Dev :=
  let x := d.ctx cid
  let u := x.queue q
  let ahead := (tail - u.head).toNat
  if d.host.accepted && d.planRunning && x.live && u.log2 != 0 && !u.stopped && ahead ≤ 2 ^ u.log2
      && (u.tail - u.head).toNat ≤ ahead then
    d.modQueue cid q fun u => { u with
      tail := tail, rungAfter := tset u.rungAfter fn (d.func fn).bar4Posted, doorbellAt := if u.doorbellAt.isNone && u.head != tail then some d.time else u.doorbellAt }
  else d.modQueue cid q fun u => { u with dbRej := u.dbRej.bump 0xFF 1 d.time }

def Dev.doorbellWrite (d : Dev) (fn : Fn) (cid q : Nat) (tail : W32) : Dev :=
  if fn == 65 || 8 ≤ q || !d.reachCtx fn cid then d
  else if d.commitChanges (d.ctx cid).pitch then
    d.modPlan fun p => { p with keptDoorbells := p.keptDoorbells ++ [(fn, cid, q, tail)] }
  else d.ringDoorbell fn cid q tail

/-- A queue of a resident context that holds a queue slot: it has read a command that is not admitted. -/
def Queue.holdsSlot (u : Queue) : Bool := !u.cmds.isEmpty || u.graph.isSome

def Dev.queueSlotFree (d : Dev) (p cid q : Nat) : Bool :=
  ((d.ctx cid).queue q).holdsSlot ||
    (((d.residents p).map fun c => ((d.ctx c).queues.filter fun u => u.2.holdsSlot).length).sum < 4 * d.quadCount p)

/-- QUEUE_SLOT_READ (R357, R360, R362): the next slot's 64 B arrive from host memory. -/
def execQueueSlotRead (cid q : Nat) (cmd : List Byte) (s : State) :=
  let d := s.dev
  let x := d.ctx cid
  let u := x.queue q
  s.to (
    if !d.power.pcieL0 || 8 ≤ q || !x.live || x.slot.isNone || u.log2 == 0 || u.stopped || u.stalled
        || (u.tail - u.head).toNat ≤ (u.readUpTo - u.head).toNat
        || (u.rungAfter.any fun a => (d.func a.1).bar4Writes < a.2) || !d.queueSlotFree x.pitch cid q then d
    else (d.emit (.slotRead x.fn (u.base + BitVec.ofNat 64 (64 * (u.readUpTo.toNat % 2 ^ u.log2))))).modQueue cid q fun u =>
      { u with cmds := u.cmds ++ [(cmd ++ zeros 64).take 64], readUpTo := u.readUpTo + 1 })

/-! ## Peg registrations (R371) -/

def Dev.pegDone (d : Dev) (f : Fn) (code : Nat) : Dev := (d.modFunc f fun g => { g with pegCode := code }).cmdVector f

/-- A write of PEG_CMD: reserved operations are taken by PEG_REGISTER. -/
def Dev.pegWrite (d : Dev) (fn : Fn) (w : CmdWrite) (mine : Nat → Bool) (run : Dev → Fn → Nat → Nat → Dev) : Dev :=
  let (d', v) := d.takeCmd fn .peg w
  let op := fld v 62 2
  let cid := fld v 48 12
  let f := regFn fn
  if !d.reach fn || !mine op then d
  else if (op != 1 && op != 2) || fld v 60 2 != 0 then d'.pegDone f 1
  else if !(d.ctx cid).live || !(isPf fn || d.pitchOfVf fn == some (d.ctx cid).pitch) then d'.pegDone f 2
  else run d' f cid (fld v 0 48)

def execPegRegister (fn : Fn) (w : CmdWrite) (s : State) :=
  s.to (s.dev.pegWrite fn w (fun op => op != 2) fun d f cid va =>
    let ok := match d.translatePeg cid va 3 with | .ok [_] => va % 8 == 0 | _ => false
    if !ok then d.pegDone f 3
    else if 256 ≤ (d.ctx cid).pegs.length then d.pegDone f 4
    else (d.modCtx cid fun x => { x with pegs := x.pegs ++ [va] }).pegDone f 0)

def execPegWithdraw (fn : Fn) (w : CmdWrite) (s : State) :=
  s.to (s.dev.pegWrite fn w (fun op => op == 2) fun d f cid va =>
    if !(d.ctx cid).pegs.contains va then d.pegDone f 5
    else (d.modCtx cid fun x => { x with pegs := x.pegs.erase va }).pegDone f 0)

/-! ## Queries (R372, R373) -/

/-- The context exists, and the function may query it. -/
def Dev.queryOk (d : Dev) (f : Fn) (cid : Nat) : Bool :=
  (d.ctx cid).exists_ && (isPf f || d.pitchOfVf f == some (d.ctx cid).pitch)

def Dev.queryDone (d : Dev) (f : Fn) (code : Nat) : Dev :=
  (d.modFunc f fun g => { g with qryBusy := false, qryCode := code }).cmdVector f

def Dev.queryWrite (d : Dev) (fn : Fn) (v : W32) : Dev :=
  let f := regFn fn
  let cid := fld v.toNat 0 12
  if !d.reach fn || (d.func f).qryBusy then d
  else if !d.queryOk f cid then d.queryDone f 4
  else d.modFunc f fun g => { g with qryBusy := true, qryCid := cid }

/-- The eight results. -/
def Dev.queryResults (d : Dev) (cid : Nat) : Tab W64 :=
  let x := d.ctx cid
  let es := d.validEntries cid
  let sum (f : RangeEntry → Bool) : Nat := ((es.filter f).map fun e => e.bytes).sum
  let here (f : Region → Bool) : Nat := sum fun e => d.isLocal e.pstart && f (regionOf (localOf e.pstart))
  let vs := [x.threadCc, x.arrayAc, x.dmaCc, sum fun _ => true, here Region.isStacked, here Region.isBiv,
    here fun r => r.isSpad || r.isImem, sum fun e => !d.isLocal e.pstart]
  vs.zipIdx.map fun v => (v.2, BitVec.ofNat 64 v.1)

def execQueryComplete (fn : Fn) (s : State) :=
  let d := s.dev
  let g := d.func fn
  s.to (
    if !g.qryBusy then d
    else if !d.queryOk fn g.qryCid then d.queryDone fn 4
    else (d.modFunc fn fun g => { g with qryRes := d.queryResults g.qryCid }).queryDone fn 0)

/-! ## Commands of one cc (R354) -/

/-- The context that a doorbell, MAP, INVAL or query names. -/
def Dev.namesCtx (d : Dev) : Instr → Option Nat
  | .queueDoorbell _ cid _ _ => some cid
  | .map fn w | .inval fn w => some (xlCid (d.takeCmd fn .xl w).2)
  | .contextQuery _ v => some (fld v.toNat 0 12)
  | _ => none

/-- The function of a write to CTX_CMD: in one cc the PF's goes first, then the VFs' in ascending number. -/
def ctxCmdFn : Instr → Option Fn
  | .create fn _ | .destroy fn _ => some (regFn fn)
  | _ => none

/-- `a` takes effect before `b` when both reach the hub in one cc. -/
def Dev.goesBefore (d : Dev) (a b : Instr) : Bool :=
  match a, ctxCmdFn a, ctxCmdFn b with
  | _, some m, some n => m < n
  | .destroy _ v, _, none => fld v.toNat 30 2 == 2 && d.namesCtx b == some (fld v.toNat 0 12)
  | _, _, _ => false

def Dev.waitsBehind (d : Dev) (c : Instr) (cs : List Instr) : Bool := cs.any fun a => d.goesBefore a c

/-- A command that waited for others of its cc takes effect. -/
def Dev.runLate (d : Dev) (c : Instr) : Dev :=
  match c with
  | .create fn v => d.createWrite fn v
  | .destroy fn v => d.destroyWrite fn v
  | .queueDoorbell fn cid q tail => d.doorbellWrite fn cid q tail
  | .map fn w => d.xlWrite fn w fun op => op != 2
  | .inval fn w => d.xlWrite fn w fun op => op == 2
  | .contextQuery fn v => d.queryWrite fn v
  | _ => d

/-- Writes to CTX_CMD in the order of their functions, then the rest in the order of their arrival. -/
def inCtxOrder (cs : List Instr) : List Instr :=
  ((List.range 65).flatMap fun f => cs.filter fun c => ctxCmdFn c == some f) ++ cs.filter fun c => (ctxCmdFn c).isNone

/-- Commands that wait take effect once none that goes before them is still to come in the cc. -/
def Dev.runHeld (d : Dev) (coming : List Instr) : Dev :=
  match d.host.later with
  | [] => d
  | cs =>
    d.modHost (fun h => { h with later := [] }) |>.forEach (inCtxOrder cs) fun d c =>
      if d.waitsBehind c (coming ++ d.host.later) then d.modHost fun h => { h with later := h.later ++ [c] }
      else d.runLate c

/-- A command takes effect, or waits for those of its cc that go before it: the commands up to the next empty queue are
those of one cc (log 2). A MAP or INVAL waits with the 64-bit value that it was written with. -/
def State.inCtxCc (s : State) (c : Instr) : Host.Outcome State Fault Refusal :=
  let d := s.dev
  let keep (d : Dev) (c : Instr) : Dev := d.modHost fun h => { h with later := h.later ++ [c] }
  s.to (
    if d.waitsBehind c (s.pending ++ d.host.later) then
      match c with
      | .map fn w => let (d', v) := d.takeCmd fn .xl w; keep d' (.map fn (.full (BitVec.ofNat 64 v)))
      | .inval fn w => let (d', v) := d.takeCmd fn .xl w; keep d' (.inval fn (.full (BitVec.ofNat 64 v)))
      | _ => keep d c
    else (d.runLate c).runHeld s.pending)

def execCreate (fn : Fn) (v : W32) (s : State) := s.inCtxCc (.create fn v)

def execDestroy (fn : Fn) (v : W32) (s : State) := s.inCtxCc (.destroy fn v)

def execQueueDoorbell (fn : Fn) (cid q : Nat) (tail : W32) (s : State) := s.inCtxCc (.queueDoorbell fn cid q tail)

/-- MAP; a write with a reserved OP is taken here and refused with XL_E_OP. -/
def execMap (fn : Fn) (w : CmdWrite) (s : State) := s.inCtxCc (.map fn w)

def execInval (fn : Fn) (w : CmdWrite) (s : State) := s.inCtxCc (.inval fn w)

def execContextQuery (fn : Fn) (v : W32) (s : State) := s.inCtxCc (.contextQuery fn v)

/-! ## Function-level reset of a virtual function (R345, R453) -/

/-- Every context of a pitch is destroyed, with no command to complete. -/
def Dev.destroyAll (d : Dev) (cids : List Nat) : Dev :=
  d.forEach cids fun d c =>
    let x := d.ctx c
    if !x.exists_ then d
    else if x.dying then d.modCtx c fun x => { x with quiet := true }
    else if x.killed then (d.modCtx c fun x => { x with quiet := true }).releaseKilled c
    else d.startTeardown c none true

def execVfFlr (vf : Fn) (s : State) :=
  s.to (s.dev.onConfig vf fun d =>
    if vf == 0 then d
    else match d.pitchOfVf vf with
      | none => d
      | some p => (d.destroyAll (d.pitchCtxs p)).settle)

end Sys2Proof.Machine
end

