-- ==== Sys2Proof/Machine/PciCfg.lean ====
section
/-!
DEFINITION. Configuration space as R343, R344, R346 and R64 fix it: the identities, the BARs and the fields of the
capability structures. The manual names PCIe 6.0 for the layout of a structure (PRESUMED, log 146) and gives no offset
at which a structure stands, so that its place is a free value; so is every bit that the manual does not fix.
-/

namespace Sys2Proof.Machine
open Sys2Proof

/-- The capability structures of R343. -/
inductive PciCap where
  | pcie | msix | aer | ats | resizableBar | sriov | doe | ide
deriving DecidableEq, Repr

/-- Capability identifier, whether it is an extended one, and bytes of the structure (PRESUMED, log 146). -/
def PciCap.ident : PciCap → Nat × Bool × Nat
  | .pcie => (0x10, false, 0x3C)
  | .msix => (0x11, false, 0x0C)
  | .aer => (0x01, true, 0x48)
  | .ats => (0x0F, true, 0x08)
  | .resizableBar => (0x15, true, 0x0C)
  | .sriov => (0x10, true, 0x40)
  | .doe => (0x2E, true, 0x18)
  | .ide => (0x30, true, 0x10)

/-- Structures of a function (R343): SR-IOV, DOE and IDE are the PF's; in recovery there is no SR-IOV (R64). -/
def pciCaps (vf recovery : Bool) : List PciCap :=
  [.pcie, .msix, .aer, .ats, .resizableBar] ++ if vf then [] else (if recovery then [] else [.sriov]) ++ [.doe, .ide]

/-- A word with bits `lo` to `lo + n - 1` replaced by `v`. -/
def setField (w lo n v : Nat) : Nat := w - fld w lo n * 2 ^ lo + v % 2 ^ n * 2 ^ lo

def setFields (w : Nat) (fs : List (Nat × Nat × Nat)) : Nat := fs.foldl (fun w f => setField w f.1 f.2.1 f.2.2) w

/-- A doubleword of the six BARs of a header or of the SR-IOV structure (R346): type bits, the bits below the size 0, and
the host's address above. -/
def barWord (bar4Log2 i std : Nat) : Nat :=
  match i with
  | 0 => setFields std [(0, 26, 4)]
  | 2 => setFields std [(0, 28, 4)]
  | 4 => setFields std [(0, min 32 bar4Log2, 0xC)]
  | 5 => setFields std [(0, bar4Log2 - 32, 0)]
  | _ => std

/-- A doubleword of a capability structure: the fields that the manual fixes, put into the bits that it leaves open. -/
def PciCap.word (vf : Bool) (vfEnable : Bool) (bar4Log2 : Nat) (c : PciCap) (o std : Nat) : Nat :=
  let std := if o = 0 then setFields std (if c.ident.2.1 then [(0, 16, c.ident.1)] else [(0, 8, c.ident.1)]) else std
  match c, o with
  -- FLR; Max Payload Size 512 B; x16 at 64 GT/s with ASPM L1 only; 10-bit tags and no AtomicOps
  | .pcie, 0x04 => setFields std [(0, 3, 2), (28, 1, 1)]
  | .pcie, 0x0C => setFields std [(0, 4, 6), (4, 6, 16), (10, 2, 2)]
  | .pcie, 0x24 => setFields std [(6, 4, 0), (16, 1, 1), (17, 1, 1)]
  | .pcie, 0x2C => setFields std [(1, 7, 0x3F)]
  -- table sizes of R348, table and pending bits at the places of R347
  | .msix, 0x00 => setFields std [(16, 11, if vf then 30 else 63)]
  | .msix, 0x04 => 0x0F00000
  | .msix, 0x08 => 0x0F80000
  -- Invalidate Queue Depth 32, coded as 0
  | .ats, 0x04 => setFields std [(0, 5, 0)]
  -- 256 MiB to 16 GiB; BAR 4; the size in force
  | .resizableBar, 0x04 => setFields std [(4, 28, 0x7F00)]
  | .resizableBar, 0x08 => setFields std [(0, 3, 4), (5, 3, 1), (8, 6, bar4Log2 - 20)]
  -- VF Enable; 64 VFs at offset 1 and stride 1; VF Device ID; the BARs of a VF
  | .sriov, 0x08 => setFields std [(0, 1, b2n vfEnable)]
  | .sriov, 0x0C => 64 + 64 * 2 ^ 16
  | .sriov, 0x14 => 1 + 2 ^ 16
  | .sriov, 0x18 => setFields std [(16, 16, 0x0C11)]
  -- one link IDE stream, no selective ones
  | .ide, 0x04 => setFields std [(0, 2, 1)]
  | c, o => if c = .sriov ∧ 0x24 ≤ o ∧ o < 0x3C then barWord 28 ((o - 0x24) / 4) std else std

/-- A doubleword of configuration space (R343, R344, R346, R64). -/
def Dev.configWord (d : Dev) (fn : Fn) (off : Nat) : W32 :=
  let vf := fn != 0
  let std := leNat ((Config.stdResponse fn (leBytes 4 off)).take 4)
  let place (c : PciCap) : Nat := Config.capPlace (b2n vf) c.ident.1 c.ident.2.1
  BitVec.ofNat 32 (
    if off = 0 then (if vf then 0xFFFFFFFF else if d.boot.recovery then 0x0C1F1FD7 else 0x0C101FD7)
    else if off = 8 then 0x12000000 + std % 256
    else if 0x10 ≤ off && off < 0x28 then
      if vf || (d.boot.recovery && 0x18 ≤ off) then 0 else barWord (d.func fn).bar4Log2 ((off - 0x10) / 4) std
    -- no INTx
    else if off = 0x3C then setField std 8 8 0
    else match (pciCaps vf d.boot.recovery).find? fun c => place c ≤ off && off < place c + c.ident.2.2 with
      | some c => c.word vf d.host.vfEnable (d.func fn).bar4Log2 (off - place c) std
      | none => std)

end Sys2Proof.Machine
end

