-- ==== Sys2Proof/Machine/Power.lean ====
section
/-!
DEFINITION. Rails and the sequencer (R30 to R36, R523), straps (R37 to R41), clocks (R58), the PCIe port's reset and
configuration requests (R62 to R65, R344, R345), and the power cap (R525 to R529).
-/

namespace Sys2Proof.Machine
open Sys2Proof

/-! ## Loss of power -/

/-- Flash bytes of the firmware slot (R67). -/
def flashImageLen : Nat := 0x2000000

/-- The rails fall, the last one of R30's table first: everything but flash, fuses and the sequencer's own state is lost
(R32, R33). A slot that was being programmed then holds no valid image (R70). -/
def Dev.powerDown (d : Dev) : Dev :=
  { time := d.time
    free := d.free
    out := d.out
    power := { pwrEn := d.power.pwrEn, fatal := d.power.fatal, thermTrip := d.power.thermTrip
               lockedOut := d.power.lockedOut, pwrEnLowAt := d.power.pwrEnLowAt, perstLow := d.power.perstLow
               falling := d.power.falling ++ (List.range (d.power.railsUp + b2n d.power.raising)).reverse }
    chain := { chnInHigh := d.chain.chnInHigh, chnInHighAt := d.chain.chnInHighAt }
    boot := { flash := if d.boot.recovState = 2 then d.boot.flash.filter fun b => flashImageLen ≤ b.1 else d.boot.flash
              revoked := d.boot.revoked, svnFuse := d.boot.svnFuse
              trimMv := d.boot.trimMv, trimRetired := d.boot.trimRetired } }

/-- A cc in which rails fall takes the next of them down (R30, R32 step 5; DESIGN CHOICE, log 107: one rail in a cc,
where the manual asks for all within 20 ms). -/
def Dev.tickPower (d : Dev) : Dev := d.modPower fun p => { p with falling := p.falling.tail }

/-- A rail of R30's table stands: it is in regulation, or it has not begun to fall. -/
def Power.railStands (p : Power) (n : Nat) : Bool := n < p.railsUp || p.falling.contains n

/-- AER reports an Uncorrectable Internal Error over a link that is up: a device event of PF vector 0 (R343, R348). -/
def Dev.uie (d : Dev) : Dev := if d.power.pcieL0 then d.msix 0 0 else d

/-- R34: FATAL_N is asserted, and the rails stay down until PWR_EN has been low for 100 ms. -/
def Dev.fatalDown (d : Dev) (trip : Bool) : Dev :=
  (d.uie.modPower fun p => { p with fatal := true, thermTrip := p.thermTrip || trip, lockedOut := true }).powerDown

/-- PWR_EN_ASSERT (R32, R34). -/
def execPwrEnAssert (s : State) : Host.Outcome State Fault Refusal :=
  let d := s.dev
  let rested := match d.power.pwrEnLowAt with
    | some t => decide (t + ccUs 100000 ≤ d.time)
    | none => false
  s.to (
    if d.power.pwrEn then d
    else if d.power.lockedOut && !rested then d.modPower fun p => { p with pwrEn := true, pwrEnLowAt := none }
    else d.modPower fun p => { p with pwrEn := true, pwrEnLowAt := none, lockedOut := false, raising := true })

/-- RAIL_REGULATED (R30): PWR_GOOD rises with the last of the five rails. -/
def execRailRegulated (s : State) : Host.Outcome State Fault Refusal :=
  let d := s.dev
  s.to (
    if !d.power.pwrEn || !d.power.raising then d
    else d.modPower fun p =>
      if p.railsUp + 1 < 5 then { p with railsUp := p.railsUp + 1 }
      else { p with railsUp := 5, raising := false, pwrGood := true, pwrGoodAt := d.time })

/-- PWR_EN_DEASSERT (R32, R35). FATAL_N of a rail fault or of a lost main PLL is released with it as well as that of a
thermal trip, the only one for which R35 says so (DESIGN CHOICE, log 140). -/
def execPwrEnDeassert (s : State) : Host.Outcome State Fault Refusal :=
  let d := s.dev
  s.to (
    if !d.power.pwrEn then d
    else (d.modPower fun p => { p with pwrEn := false, fatal := false, thermTrip := false
                                       pwrEnLowAt := some d.time }).powerDown)

/-- VIN_LOSS (R33). -/
def execVinLoss (s : State) : Host.Outcome State Fault Refusal :=
  s.to (if s.dev.power.pwrEn then s.dev.powerDown else s.dev)

/-- RAIL_FAULT (R34). -/
def execRailFault (s : State) : Host.Outcome State Fault Refusal :=
  s.to (if s.dev.power.pwrGood then s.dev.fatalDown false else s.dev)

/-- THERM_TRIP (R35, R523). -/
def execThermTrip (s : State) : Host.Outcome State Fault Refusal :=
  s.to (if s.dev.power.railsUp != 0 || s.dev.power.raising then s.dev.fatalDown true else s.dev)

/-- MAIN_PLL_UNLOCK (R58). -/
def execMainPllUnlock (s : State) : Host.Outcome State Fault Refusal :=
  s.to (if s.dev.power.mainLock then s.dev.fatalDown false else s.dev)

/-- The temperature warning (R523): set at 95 °C of any die, cleared when every die reads below 90 °C. -/
def Power.warned (p : Power) : Bool :=
  let ts := (List.range 5).map fun i => tget 0 p.dieTemp i
  if ts.any fun t => decide (95 ≤ t) then true else if ts.all fun t => decide (t < 90) then false else p.tempWarn

/-- TEMP_WARNING: a die's highest junction reading. At 105 °C the trip threshold is reached and the rails are removed
(R35, R523). -/
def execTempWarning (die : Nat) (celsius : Int) (s : State) : Host.Outcome State Fault Refusal :=
  s.to (
    if !s.dev.power.pwrGood || 5 ≤ die then s.dev
    else if 105 ≤ celsius then s.dev.fatalDown true
    else s.dev.modPower fun p =>
      let p := { p with dieTemp := tset p.dieTemp die celsius }
      { p with tempWarn := p.warned })

/-! ## Straps -/

/-- POR_RELEASE (R37): 2 ms after PWR_GOOD; stage 1 ends. -/
def execPorRelease (straps : BitVec 5) (mid : BitVec 2) (s : State) : Host.Outcome State Fault Refusal :=
  let d := s.dev
  s.to (
    if !d.power.pwrGood || d.power.porReleased || d.time < d.power.pwrGoodAt + ccUs 2000 then d
    else (d.modPower fun p => { p with porReleased := true, porAt := d.time, straps := straps, mid := mid }).modBoot fun b =>
      { b with stage := 1, stageEnd := tset b.stageEnd 1 d.rootCc })

/-- STRAP_OUTPUT_ENABLE (R39): 1 ms after sampling. -/
def execStrapOutputEnable (s : State) : Host.Outcome State Fault Refusal :=
  let d := s.dev
  s.to (
    if d.power.porReleased && tget 0 d.boot.stageEnd 1 + 50000 ≤ d.rootCc then
      d.modPower fun p => { p with outEn := true }
    else d)

/-- The status outputs, in the order of HUB_STRAP.OUT (R39): recovery, link in L0, plan running, full service, guy line
healthy, which is high from the entry into phase 3, before any heartbeat, until a loss is declared (DESIGN CHOICE,
log 141). -/
def Dev.statusOut (d : Dev) : Nat :=
  if !d.power.outEn then 0
  else maskOf ((List.range 5).filter fun i =>
    match i with
    | 0 => d.boot.recovery
    | 1 => d.power.pcieL0
    | 2 => d.planRunning
    | 3 => d.fullService
    | _ => d.chain.phase == 3 && !d.chain.upLost)

/-! ## The PCIe port -/

/-- What PERST_N and a function-level reset of the PF do (R62, R345): contexts end without reaching host memory, and
the port is at its reset values. -/
def Dev.hostReset (d : Dev) : Dev :=
  let d := d.destroyAll (tkeys d.host.ctxs)
  let portReset (f : Func) : Func := { f with
    bar4Log2 := 28, msix := [], msixPend := []
    bar4Held := f.bar4Held.filter fun x => x.2.1.isSome }
  (d.modHost fun h => { h with
    vfEnable := false, vfHeld := none, ifverSel := 0, accepted := false, refused := false, ifverBefore := none, bar4Win := 0
    hostHeld := []
    funcs := h.funcs.map fun f => (f.1, portReset f.2) }).settle

/-- PCIE_PLL_UNLOCK (R58). -/
def execPciePllUnlock (s : State) : Host.Outcome State Fault Refusal :=
  let d := s.dev
  s.to (
    if d.power.pcieLock then
      d.modPower fun p => { p with pcieLock := false, pcieL0 := false, pcieUnlock := p.pcieUnlock.bump 0xFF 1 d.time }
    else d)

/-- PCIE_PLL_RELOCK (R58): the PLL that stage 2 started is locked again. -/
def execPciePllRelock (s : State) : Host.Outcome State Fault Refusal :=
  s.to (if s.dev.power.mainLock then s.dev.modPower fun p => { p with pcieLock := true } else s.dev)

/-- PERST_ASSERT (R62): the link goes down; after full service every context is torn down. -/
def execPerstAssert (s : State) : Host.Outcome State Fault Refusal :=
  let d := s.dev
  s.to (
    if d.power.perstLow then d
    else (d.modPower fun p => { p with perstLow := true, pcieL0 := false }).hostReset)

/-- PERST_DEASSERT (R63). -/
def execPerstDeassert (s : State) : Host.Outcome State Fault Refusal :=
  s.to (s.dev.modPower fun p => { p with perstLow := false })

/-- PCIE_LINK_L0 (R58): what waited for the link goes out. -/
def execPcieLinkL0 (s : State) : Host.Outcome State Fault Refusal :=
  let d := s.dev
  s.to (
    if d.power.perstLow || !d.power.pcieLock || d.power.pcieL0 then d
    else
      let d := d.forEach d.host.hostHeld fun d o => d.emit o
      (d.modPower fun p => { p with pcieL0 := true }).modHost fun h => { h with hostHeld := [] })

/-- PF_FLR (R345): the link stays up. -/
def execPfFlr (s : State) : Host.Outcome State Fault Refusal :=
  s.to (s.dev.onConfig 0 fun d => d.hostReset)

/-- CONFIG_REQUEST (R63, R64). -/
def execConfigRequest (fn : Fn) (off : Nat) (s : State) : Host.Outcome State Fault Refusal :=
  s.to (s.dev.onConfig fn fun d => d.emit (.cfgData fn (d.configWord fn off)))

/-- VF_ENABLE_WRITE (R65): held before full service; in recovery there is no SR-IOV capability. -/
def execVfEnableWrite (v : Bool) (s : State) : Host.Outcome State Fault Refusal :=
  s.to (s.dev.onConfig 0 fun d =>
    if d.boot.recovery then d
    else if d.fullService then d.modHost fun h => { h with vfEnable := v }
    else d.modHost fun h => { h with vfHeld := some v })

/-! ## The power cap (R525 to R529) -/

/-- The ordering number's cap in W, by MID (R20, R39). -/
def Dev.capWatts (d : Dev) : Nat := if d.power.mid == 2 then 500 else 750

/-- The setpoint in force (R525). -/
def Dev.setpointWatts (d : Dev) : Nat := d.sec.setpoint.getD d.capWatts

/-- R527: the largest n for which the window's estimate fits the pitch's part, (setpoint - 140) * Q / 64 W; 1 if none
does. `duty` was in force in the window; estimates are in mW. -/
def dutyFor (setpoint quads duty array nonArray : Nat) : Nat :=
  (((List.range 64).map fun i => 64 - i).find? fun n =>
    (nonArray * duty + array * n) * 64 ≤ (setpoint - 140) * 1000 * quads * duty).getD 1

/-- POWER_CAP_WINDOW (R527): the new duty applies from the next window of 64 cc. -/
def execPowerCapWindow (est : List PowerEst) (s : State) : Host.Outcome State Fault Refusal :=
  let d := s.dev
  if !d.power.mainLock then s.to d
  else
    let d := d.forEach d.validPitches fun d p =>
      let e := (est.find? fun e => e.pitch == p).getD { pitch := p, array := 0, nonArray := 0 }
      let now := (d.pitchCnt p).dutyNow d.hubCc
      d.modPitchCnt p fun c => { c with
        duty := now, dutyNext := dutyFor d.setpointWatts (d.quadCount p) now e.array e.nonArray
        dutyFrom := (d.hubCc / 64 + 1) * 64 }
    let low := ((d.validPitches.map fun p => (d.pitchCnt p).dutyNext).foldl min 64)
    s.to (d.modSec fun x => { x with
      duties := tset (x.duties.filter fun e => d.time < e.1 + ccUs 10000) d.time low })

/-- ALERT_N is asserted (R36, R523, R528): a temperature warning, or throttling of some pitch. -/
def Dev.alertN (d : Dev) : Bool :=
  d.power.tempWarn || d.validPitches.any fun p => decide ((d.pitchCnt p).dutyNow d.hubCc < 64)

end Sys2Proof.Machine
end

