-- ==== Sys2Proof/Machine/Boot.lean ====
section
/-!
DEFINITION. Start-up (R59 to R88): the ten stages in order, the checks of a firmware image, recovery, the ageing
measurement, link training, the default plan, and the restart of the steward (R464).
-/

namespace Sys2Proof.Machine
open Sys2Proof

/-! ## The firmware image (R67, R68) -/

def imgBytes (img : Tab Byte) (o n : Nat) : List Byte := (List.range n).map fun i => tget 0 img (o + i)
def imgNat (img : Tab Byte) (o n : Nat) : Nat := leNat (imgBytes img o n)

def imgBodyLen (img : Tab Byte) : Nat := imgNat img 0xC 4
def imgManifest (img : Tab Byte) : List Byte := imgBytes img 0x100 2048
/-- The signed message: everything before SIG_RSA. -/
def imgSigned (img : Tab Byte) : List Byte := imgBytes img 0 (0x1000 + imgBodyLen img)

/-- The first check of R68 that fails, as its RESULT code. -/
def Dev.imageCheck (d : Dev) (img : Tab Byte) : Option Nat :=
  let pair := imgNat img 6 1
  let body := imgBodyLen img
  let man := imgManifest img
  if imgNat img 0 4 != 0x4F564D31 || imgNat img 4 2 != 1 || body % 4096 != 0 || 0x1800000 < body then some 3
  else if Config.sha384 man != Config.manifestDigest then some 4
  else if d.pairBad pair then some 5
  else if imgNat img 8 4 < d.boot.svnFuse then some 8
  else if !Config.rsaVerify (rsaKeyOf man pair) (imgSigned img) (imgBytes img (0x1000 + body) 384) then some 6
  else if !Config.slhVerify (slhKeyOf man pair) (imgSigned img) (imgBytes img (0x1180 + body) 16224) then some 7
  else none

/-- What the steward keeps of an accepted image. -/
def imageInfo (img : Tab Byte) : ImageInfo :=
  { pair := imgNat img 6 1, svn := imgNat img 8 4, revoke := BitVec.ofNat 4 (imgNat img 7 1)
    manifest := imgManifest img, digest := Config.sha384 (imgSigned img) }

/-- The firmware slot of the flash. -/
def Dev.flashImage (d : Dev) : Tab Byte := d.boot.flash.filter fun b => b.1 < flashImageLen

/-! ## Stages and recovery -/

/-- Stage `n` may run: the stage before it has completed, and start-up neither stopped nor waits in recovery (R59). -/
def Dev.mayRun (d : Dev) (n : Nat) : Bool :=
  d.power.porReleased && d.boot.stage + 1 == n && !d.boot.recovery && !d.boot.stopped

/-- Stage `n` ends. -/
def Dev.endStage (d : Dev) (n : Nat) : Dev :=
  d.modBoot fun b => { b with stage := n, stageEnd := tset b.stageEnd n d.rootCc }

/-- ENTER_RECOVERY (R71): the recovery identity is served, and the module may join the enumeration (R79). -/
def Dev.enterRecovery (d : Dev) (cause : Nat) : Dev :=
  ((d.modBoot fun b => { b with recovery := true, result := cause, stage := 2, recovState := 0 }).msix 0 0).tryPhase1

/-- The steward draws a new NONCE (R491). -/
def Dev.drawNonce (d : Dev) : Dev :=
  let (a, d) := d.takeFree
  let (b, d) := d.takeFree
  d.modSec fun x => { x with nonce := BitVec.ofNat 128 (a.toNat + 2 ^ 64 * b.toNat) }

/-- Bytes of the fuses in M0 (R72): revocation fuses, then the SVN fuse count. -/
def Dev.fuseBytes (d : Dev) : List Byte := [BitVec.ofNat 8 d.boot.revoked.toNat, BitVec.ofNat 8 d.boot.svnFuse]

/-- STEWARD_ROM: stage 2 (R61). The ROM's check of its own integrity passes: the manual gives no outcome of a failed one
(DESIGN CHOICE, log 142). -/
def execStewardRom (flashAnswers : Bool) (s : State) : Host.Outcome State Fault Refusal :=
  let d := s.dev
  s.to (
    if !d.mayRun 2 then d
    else
      let d := d.modPower fun p => { p with mainLock := true, mainLockAt := d.time, pcieLock := true }
      let d := d.drawNonce.extend 0
        (Config.sha384 (Config.romBytes ++ leBytes 48 Config.manifestDigest.toNat ++ d.fuseBytes))
      let d := d.endStage 2
      if d.power.straps.getLsbD 0 then d.enterRecovery 1
      else if !flashAnswers then d.enterRecovery 2
      else d)

/-- FIRMWARE_IMAGE: stage 3 (R68). -/
def execFirmwareImage (flashAnswers : Bool) (s : State) : Host.Outcome State Fault Refusal :=
  let d := s.dev
  s.to (
    if !d.mayRun 3 then d
    else if !flashAnswers then d.enterRecovery 2
    else match d.imageCheck d.flashImage with
      | some c => d.enterRecovery c
      | none =>
        let info := imageInfo d.flashImage
        ((d.modBoot fun b => { b with image := info }).extend 1 (Config.sha384 info.manifest)).endStage 3)

/-- MEASURED_BOOT: stage 4 (R72). -/
def execMeasuredBoot (s : State) : Host.Outcome State Fault Refusal :=
  let d := s.dev
  s.to (
    if !d.mayRun 4 then d
    else
      let straps : List Byte := [BitVec.ofNat 8 d.power.straps.toNat, BitVec.ofNat 8 d.power.mid.toNat]
      ((d.extend 2 d.boot.image.digest).extend 3 (Config.sha384 straps)).endStage 4)

/-- R74: every word of on-package SRAM is zero; the bivouac tier is not on the package, and R512 keeps the recorder. -/
def Dev.zeroPackage (d : Dev) : Dev :=
  { d with
    mem := { bytes := d.mem.bytes.filter fun b => (regionOf b.1).isBiv
             pois := d.mem.pois.filter fun e => (regionOf (32 * e.1)).isBiv
             biv := d.mem.biv, nextTag := d.mem.nextTag }
    cores := []
    board := {}
    xl := { d.xl with cache := [], walks := [] }
    plan := { d.plan with lastOwner := [] } }

/-- SRAM_REPAIR_BIST: stage 5 (R73, R74, R474). M4 takes the summary's bytes as the command brings them, since the manual
gives them no form (DESIGN CHOICE, log 143). -/
def execSramRepairBist (r : BistResult) (s : State) : Host.Outcome State Fault Refusal :=
  let d := s.dev
  s.to (
    if !d.mayRun 5 then d
    else
      let beyond := !r.granules.isEmpty || !r.quads.isEmpty || !r.ways.isEmpty
      let d := (d.zeroPackage).modBoot fun b => { b with
        oosGranules := r.granules, disabledWays := r.ways
        result := if r.hubBad then 0xC else if beyond then 9 else b.result
        stopped := r.hubBad }
      let d := d.forEach (dedup (d.boot.trimRetired ++ r.quads.filter fun q => q < 64)) fun d q => d.retireQuad q
      (d.extend 4 (Config.sha384 r.summary)).endStage 5)

/-! ## Ageing (R76 to R78) -/

/-- The guard band, in ps. -/
def guardPs : Int := 24

def Dev.quadsInService (d : Dev) : List Nat := (List.range 64).filter fun q => !d.quadRetired q

/-- The slack in ps of each quad in service, from readings in units of 2 ps: six monitors beside each quad. -/
def quadSlack (readings : List Int) (q : Nat) : Int :=
  ((readings.drop (6 * q)).take 6).foldl (fun m x => min m (2 * x)) (2 ^ 32)

def minSlack (readings : List Int) (quads : List Nat) : Int :=
  (quads.map fun q => quadSlack readings q).foldl min (2 ^ 32)

/-- What the loop of R76 leaves: VDD_CORE in mV, the quads to retire, the least slack of each measurement. -/
structure Replan where
  mv : Nat
  retire : List Nat := []
  minima : List Int := []

/-- The loop of R76 from measurement `m`; `dir` as there. It ends early when the readings do (log 76). -/
def replanLoop : List (List Int) → Nat → Int → List Nat → Replan → Replan
  | [], _, _, _, r => r
  | x :: xs, m, dir, quads, r =>
    if quads.isEmpty then r
    else
      let s := minSlack x quads
      let r := { r with minima := r.minima ++ [s] }
      if s < guardPs then
        if 800 ≤ r.mv then
          let bad := quads.filter fun q => quadSlack x q < guardPs
          let left := quads.filter fun q => !(quadSlack x q < guardPs)
          let r := { r with retire := r.retire ++ bad }
          if m = 26 || left.isEmpty then r else replanLoop xs (m + 1) 1 left r
        else if dir < 0 then { r with mv := r.mv + 5 }
        else replanLoop xs (m + 1) 1 quads { r with mv := r.mv + 5 }
      else if guardPs + 10 ≤ s && 680 < r.mv && dir ≤ 0 then replanLoop xs (m + 1) (-1) quads { r with mv := r.mv - 5 }
      else r

/-- Bytes that M5 covers: the trim, then each measurement's least slack (log 27). -/
def trimBytes (r : Replan) : List Byte := leBytes 2 r.mv ++ r.minima.flatMap fun x => leBytes 2 (uNat 16 x)

/-- The end of stage 6: a module that has passed phase 1 of the chain in recovery skips stage 7 (R71). -/
def Dev.reachStage7 (d : Dev) : Dev := if 2 ≤ d.chain.phase then d.endStage 7 else d.tryPhase1

/-- AGEING_MARGIN_REPLAN: stage 6. -/
def execAgeingMarginReplan (readings : List (List Int)) (s : State) : Host.Outcome State Fault Refusal :=
  let d := s.dev
  s.to (
    if !d.mayRun 6 then d
    else
      let r := replanLoop (readings.take 26) 1 0 d.quadsInService { mv := d.boot.trimMv.getD 720 }
      let d := d.forEach r.retire fun d q => d.retireQuad q
      let d := (d.modPower fun p => { p with vddCoreMv := r.mv }).modBoot fun b => { b with trimMv := some r.mv }
      let d := (d.event 0x12 0 r.mv).extend 5 (Config.sha384 (trimBytes r))
      (d.endStage 6).reachStage7)

/-- AGEING_REMEASURE (R78): every 24 h in service; at 0.80 V the quads below G retire (R77). -/
def execAgeingRemeasure (readings : List Int) (s : State) : Host.Outcome State Fault Refusal :=
  let d := s.dev
  s.to (
    if !d.fullService || d.chain.stewardStopped || d.time < d.boot.remeasureAt then d
    else
      let d := d.modBoot fun b => { b with remeasureAt := b.remeasureAt + ccUs 86400000000 }
      let quads := d.quadsInService
      if guardPs ≤ minSlack readings quads then d
      else if d.power.vddCoreMv < 800 then
        (d.modPower fun p => { p with vddCoreMv := p.vddCoreMv + 5 }).event 0x12 0 (d.power.vddCoreMv + 5)
      else d.forEach (quads.filter fun q => quadSlack readings q < guardPs) fun d q => d.retireQuad q)

/-! ## Link training (R84 to R86) -/

/-- One port: UP, DOWN or NO_PARTNER. -/
def Dev.trainPort (d : Dev) (n : Nat) (r : TrainResult) : Dev :=
  d.modPort n fun q =>
    match r.partner with
    | none => { q with st := 0, trainSt := 3, noPartner := true, partnerValid := false, deadAt := d.time }
    | some id =>
      if lanesOk r.rxFail && lanesOk r.txFail then q.trained r d.time
      else { q.untrained r d.time with partner := id, partnerValid := true }

def noTrain : TrainResult := { partner := none, rxFail := 0, txFail := 0, lastSeq := none }

/-- BIVn_PERST_N is low (R86): for the first 100 ms of stage 8, which begins at the end of stage 7. -/
def Dev.bivPerst (d : Dev) : Bool := d.mayRun 8 && decide (d.rootCc < tget 0 d.boot.stageEnd 7 + 5000000)

/-- LINK_TRAINING: stage 8. -/
def execLinkTraining (ports : List TrainResult) (biv : List BivTrain) (s : State) : Host.Outcome State Fault Refusal :=
  let d := s.dev
  s.to (
    if !d.mayRun 8 || d.bivPerst then d
    else
      let d := d.forEach (List.range 12) fun d n => d.trainPort n (ports[n]?.getD noTrain)
      let d := d.forEach (List.range 2) fun d n => d.modBiv n fun b =>
        let t := biv[n]?.getD { width := 0, rate := 0, gib := 0 }
        if t.width = 0 then { b with st := 0, width := 0, rate := 0, gib := 0 }
        else { b with st := 1, width := t.width, rate := t.rate, gib := min t.gib 1024 }
      (d.modPower fun p => { p with lnkLock := true, bivLock := true }).endStage 8)

/-! ## The default plan and full service (R65, R69, R87, R88) -/

/-- The default plan region, from its first byte. -/
def Dev.flashPlan (d : Dev) : Tab Byte :=
  (d.boot.flash.filter fun b => flashImageLen ≤ b.1 && b.1 < 0x2800000).map fun b => (b.1 - flashImageLen, b.2)

def Dev.bootResult (d : Dev) (r : Nat) : Dev := d.modBoot fun b => { b with result := r }

/-- SITE_PLAN_LOAD: stage 9. An erased region holds no plan. -/
def execSitePlanLoad (readable : Bool) (s : State) : Host.Outcome State Fault Refusal :=
  let d := s.dev
  let load (d : Dev) : Dev :=
    if !readable then d.bootResult 0xB
    else if d.flashPlan.isEmpty then d
    else
      let pl := d.flashPlan.filter fun b => b.1 < planLen
      let d := (d.modPlan fun x => { x with staging := pl }).startCommit false pl (planOrder pl)
      let d := d.commitRun 5
      match d.plan.commit with
      | none => d
      | some c =>
        let d := d.endCommit c
        if c.reason = 0 then d else d.bootResult 0xB
  s.to (if d.mayRun 9 then (load d).endStage 9 else d)

/-- R69: the SVN fuses rise to the running image's SVN, and the pairs that it names are revoked, except its own and
except a last unrevoked one. -/
def Dev.fuseUpdate (d : Dev) : Dev :=
  let im := d.boot.image
  let blow (r : BitVec 4) (k : Nat) : BitVec 4 :=
    if im.revoke.getLsbD k && k != im.pair && (r ||| (1 : BitVec 4) <<< k) != 0xF then r ||| (1 : BitVec 4) <<< k else r
  d.modBoot fun b => { b with
    svnFuse := max b.svnFuse (min 64 im.svn), revoked := (List.range 4).foldl blow b.revoked }

/-- HOST_VISIBLE: stage 10, full service. -/
def execHostVisible (s : State) : Host.Outcome State Fault Refusal :=
  let d := s.dev
  s.to (
    if !d.mayRun 10 then d
    else
      let d := (d.endStage 10).modHost fun h => { h with vfEnable := h.vfHeld.getD h.vfEnable, vfHeld := none }
      let d := d.modBoot fun b => { b with remeasureAt := d.time + ccUs 86400000000 }
      let d := ((d.fuseUpdate).queueReport 0x01).msix 0 0
      let d := d.serviceIfReady
      if d.chain.serviceSeen && d.chain.phase = 2 then d.enterPhase3 else d)

/-! ## Recovery (R71) -/

/-- STW_RECOV_GO: ignored while an image is checked or programmed. -/
def execStwRecovGo (fn : Fn) (v : W32) (s : State) : Host.Outcome State Fault Refusal :=
  let d := s.dev
  s.to (
    if !d.power.pcieL0 || fn != 0 || !d.boot.recovery || !v.getLsbD 0 || d.boot.recovState = 1 || d.boot.recovState = 2
    then d
    else d.modBoot fun b => { b with recovState := 1, recovAttempts := satAdd 0xFFFF b.recovAttempts 1 })

/-- RECOV_CHECK_DONE. -/
def execRecovCheckDone (s : State) : Host.Outcome State Fault Refusal :=
  let d := s.dev
  s.to (
    if !d.boot.recovery || d.boot.recovState != 1 then d
    else match d.imageCheck d.boot.recovWindow with
      | some c => (d.modBoot fun b => { b with recovState := 4, recovCause := c }).msix 0 0
      | none => d.modBoot fun b => { b with recovState := 2 })

/-- RECOV_PROGRAM_DONE: start-up goes on at stage 3; the device ID is kept. -/
def execRecovProgramDone (s : State) : Host.Outcome State Fault Refusal :=
  let d := s.dev
  s.to (
    if !d.boot.recovery || d.boot.recovState != 2 then d
    else (d.modBoot fun b => { b with
      flash := (b.recovWindow.filter fun x => x.1 < flashImageLen) ++ b.flash.filter fun x => flashImageLen ≤ x.1
      recovState := 3, recovery := false, stage := 2, skipEnum := decide (2 ≤ d.chain.phase)
      stageEnd := b.stageEnd.filter fun x => x.1 < 3 }).msix 0 0)

/-! ## Updates in service (R70, R376) -/

/-- Bytes as a sparse table from offset `o` on. -/
def tabAt (o : Nat) (l : List Byte) : Tab Byte := (l.zipIdx.filter fun b => b.1 != 0).map fun b => (o + b.2, b.1)

/-- The flash region of a PLDM component: 1 the firmware slot, 2 the default site plan. -/
def inFlashRegion (component a : Nat) : Bool :=
  if component = 1 then a < flashImageLen else flashImageLen ≤ a && a < 0x2800000

/-- Programming ends while the steward runs: the region holds the new bytes, which run from the next start-up. -/
def Dev.tickFlash (d : Dev) : Dev :=
  match d.boot.fwProg with
  | none => d
  | some (component, image, t) =>
    if d.time < t || d.chain.stewardStopped then d
    else
      (d.modBoot fun b => { b with
        fwProg := none
        flash := (tabAt (if component = 1 then 0 else flashImageLen) image).foldl (fun t x => tset t x.1 x.2) b.flash }).modSec
        fun x => { x with
          fwPending := if x.fwPending.contains component then x.fwPending else x.fwPending ++ [component] }

/-! ## The steward restarts (R464) -/

/-- STEWARD_WATCHDOG: 100 ms without a refresh (event kind 0x15). -/
def execStewardWatchdog (s : State) : Host.Outcome State Fault Refusal :=
  let d := s.dev
  s.to (
    if d.chain.stewardStopped && !d.boot.stewardRestarting then
      (d.event 0x15 0 0).modBoot fun b => { b with stewardRestarting := true }
    else d)

/-- STEWARD_RESTART_DONE: the image is verified again, no slot is extended, and stages 5 to 9 are skipped. An image that
an update has written since runs from the next start-up only (R70), and an update that the stop broke off leaves its
region empty. -/
def execStewardRestartDone (s : State) : Host.Outcome State Fault Refusal :=
  let d := s.dev
  s.to (
    if !d.boot.stewardRestarting then d
    else
      let d := (d.modBoot fun b => { b with stewardRestarting := false, fwProg := none }).modChain fun c => { c with
        stewardStopped := false, chnOutHigh := c.phase != 0, heartbeatAt := d.time + ccUs 100 }
      match d.imageCheck d.flashImage with
      | some c => d.enterRecovery c
      | none => d)

end Sys2Proof.Machine
end

