-- ==== Sys2Proof/Machine/Debug.lean ====
section
/-!
DEFINITION. Debug tokens and relocking (R490 to R494).
-/

namespace Sys2Proof.Machine
open Sys2Proof

/-- Bytes of a debug token with its two signatures (R490). -/
def tokenLen : Nat := 0x41E0

/-- CODE of STW_DBG_STAT for the token at an address: the address, then whether it reads unpoisoned, then the other
codes in ascending order (R491). -/
def Dev.tokenCheck (d : Dev) (a : Nat) : Nat :=
  let t := d.readMem a tokenLen
  let w (o n : Nat) : Nat := leNat ((t.drop o).take n)
  let pair := w 6 1
  let sig := d.sigFails pair (t.take 0x100) ((t.drop 0x100).take 384) ((t.drop 0x280).take 16224)
  if !d.unownedSpan a tokenLen then 1
  else if d.readPois a tokenLen then 8
  else if w 0 4 != 0x44424731 || w 4 2 != 1 || w 7 1 != 0 || w 0x50 4 / 2 != 0 || w 0x54 172 != 0 then 2
  else if d.pairBad pair then 3
  else if sig == some 5 then 4
  else if sig == some 6 then 5
  else if w 0x08 16 != d.sec.nonce.toNat then 6
  else if (t.drop 0x18).take 48 != leBytes 48 (Config.sha384 Config.rsaIdentityPub).toNat then 7
  else if (bitsOf 64 (w 0x48 8)).any fun p => !d.pitchValid p then 9
  else 0

/-- What the verification of the token finds, with the next nonce. -/
def Dev.tokenFound (d : Dev) (next : BitVec 128) : TokenEnd :=
  let a := d.sec.dbgAddr
  { next := next, code := d.tokenCheck a, pitches := BitVec.ofNat 64 (leNat (d.readMem (a + 0x48) 8))
    jtag := bit (leNat (d.readMem (a + 0x50) 1)) 0 }

/-- The end of an OP 1: an accepted token unlocks its pitches but those in `except`, and the JTAG port; the NONCE is
drawn anew in either case. -/
def Dev.tokenEnd (d : Dev) (t : TokenEnd) (except : List Nat) : Dev :=
  let open_ := (bitsOf 64 t.pitches.toNat).filter fun p => !except.contains p
  d.modSec fun x =>
    let x := { x with dbgBusy := false, dbgCode := t.code, nonce := t.next, dbgHeld := none }
    if t.code != 0 then x
    else { x with unlocked := x.unlocked ||| BitVec.ofNat 64 (maskOf open_), jtagOpen := x.jtagOpen || t.jtag
                  jtagEver := x.jtagEver || t.jtag }

/-- The steward reads the token, wherever it may lie. -/
def Dev.readToken (d : Dev) : Dev :=
  if d.unownedSpan d.sec.dbgAddr tokenLen then d.meetErrors d.sec.dbgAddr tokenLen else d

/-- DBG_UNLOCK: a write to STW_DBG_CTL by the PF while it is not busy (R494); a reserved OP starts nothing. -/
def execDbgUnlock (fn : Fn) (w : CmdWrite) (s : State) : Host.Outcome State Fault Refusal :=
  let d := s.dev
  let (d', v) := d.takeCmd fn .dbg w
  s.to (
    if !d.reach fn || !isPf fn || fld v 62 2 == 2 then d
    else if d.sec.dbgBusy || fld v 62 2 != 1 then d'
    else d'.modSec fun x => { x with dbgBusy := true, dbgAddr := fld v 12 32 * 4096 })

/-- TOKEN_VERIFY_DONE: held while a commit stands between phases C and F (R494). -/
def execTokenVerifyDone (nonce : BitVec 128) (s : State) : Host.Outcome State Fault Refusal :=
  let d := s.dev
  s.to (
    if !d.sec.dbgBusy || d.sec.dbgHeld.isSome || !d.meshHas (d.homeTile d.sec.dbgAddr) 0xFF then d
    else
      let t := d.tokenFound nonce
      let d := d.readToken
      if d.commitPastB then d.modSec fun x => { x with dbgHeld := some t } else d.tokenEnd t [])

/-- DBG_RELOCK: every pitch is locked, and the JTAG port is closed (R493). -/
def execDbgRelock (fn : Fn) (w : CmdWrite) (s : State) : Host.Outcome State Fault Refusal :=
  let d := s.dev
  let (d', v) := d.takeCmd fn .dbg w
  s.to (
    if !d.reach fn || !isPf fn || fld v 62 2 != 2 then d
    else if d.sec.dbgBusy then d'
    else (d'.relock allPitches).modSec fun x => { x with jtagOpen := false, dbgCode := 0 })

end Sys2Proof.Machine
end

