-- ==== Sys2Proof/Machine/PlanCmds.lean ====
section
/-!
DEFINITION. The commands on the site plan (R107 to R110): writes to the staging window, PLN_CTL.ENABLE, and the end of
a commit with what waited for it (R109, R112, R451, R494).
-/

namespace Sys2Proof.Machine
open Sys2Proof

/-- BAR0 offset of the staging window PLN_STAGE. -/
def plnStageBase : Nat := 0x30000

/-- PLN_STAGE_WRITE: bytes 0x0000 to 0x7DDF of the window hold the staged plan; a write while ENABLE reads 1 is
dropped (R107). -/
def execPlnStageWrite (fn : Fn) (off width : Nat) (v : W64) (s : State) : Host.Outcome State Fault Refusal :=
  let d := s.dev
  s.to (
    if !d.reach fn || !isPf fn || d.plan.commit.isSome || off < plnStageBase then d
    else
      let bytes := (leBytes width v.toNat).zipIdx
      d.modPlan fun x => { x with
        staging := bytes.foldl (fun t b =>
          let o := off - plnStageBase + b.2
          if o < planLen then tput 0 t o b.1 else t) x.staging })

/-- PLN_COMMIT: a commit of the staged plan begins with phase A; a write while ENABLE reads 1 is ignored. -/
def execPlnCommit (fn : Fn) (v : W32) (s : State) : Host.Outcome State Fault Refusal :=
  let d := s.dev
  s.to (
    if !d.reach fn || !isPf fn || !v.getLsbD 0 || d.plan.commit.isSome then d
    else d.startCommit false d.plan.staging (planOrder d.plan.staging))

/-- Doorbells kept for changed pitches are tested, in their order (R109). -/
def Dev.ringKept (d : Dev) : Dev :=
  let kept := d.plan.keptDoorbells
  d.forEach kept fun d b =>
    let d := d.modPlan fun x => { x with keptDoorbells := [] }
    d.ringDoorbell b.1 b.2.1 b.2.2.1 b.2.2.2

/-- A token accepted while the commit ran unlocks its pitches, but none that the commit changed (R494). -/
def Dev.applyHeldToken (d : Dev) (changed : List Nat) : Dev :=
  match d.sec.dbgHeld with
  | none => d
  | some t => d.tokenEnd t changed

/-- A SAVE or RESTORE that waited for the commit (R451). -/
def Dev.startWaitingPre (d : Dev) : Dev :=
  match d.host.preWaiting with
  | none => d
  | some (save, p) =>
    let d := d.modHost fun h => { h with preWaiting := none }
    if d.pitchValid p then d.startPre save p else d.modHost fun h => { h with preCode := 1, preElapsed := 0 }

/-- Quads that retired during the commit and that the plan still names (R112). -/
def Dev.recommitQuads (d : Dev) : Dev :=
  let qs := d.plan.recommitDue
  (d.modPlan fun x => { x with recommitDue := [] }).forEach qs fun d q => d.stewardRecommit q

/-- PLAN_COMMIT_END: what is left of the phases, or the refusal, no earlier than the cc after the start; then what the
commit held back. -/
def execPlanCommitEnd (s : State) : Host.Outcome State Fault Refusal :=
  let d := if s.dev.plan.commit.any fun c => c.startAt < s.dev.time then s.dev.commitRun 6 else s.dev
  s.to (match d.plan.commit with
    | none => d
    | some c =>
      if c.reason = 0 && c.phase != 6 then d
      else
        let d := (d.endCommit c).settle
        let d := if c.reason = 0 then d.flushHeld else d
        ((((d.applyHeldToken (if c.reason = 0 then c.changed else [])).ringKept).startWaitingPre).recommitQuads).settle)

end Sys2Proof.Machine
end

