-- ==== Sys2Proof/Machine/Commits.lean ====
section
/-!
DEFINITION. The staged register pairs (R114, R115): writes to the staged halves, and the commits with the conditions of
the chapters that own the pairs (R243, R327, R358, R404, R424, R496, R500, R508, R511, R518).
-/

namespace Sys2Proof.Machine
open Sys2Proof

/-! ## BAR0 offsets of the blocks (R347) -/

def stwBase : Nat := 0x10000
def plnBase : Nat := 0x20000
def xlBase : Nat := 0x40000
def brdBase : Nat := 0x60000
def pegBase : Nat := 0x70000
def evrBase : Nat := 0x80000
def lanBase : Nat := 0x90000
def bivRegBase : Nat := 0xA0000
def lnkBase : Nat := 0xB0000
def ctxBase : Nat := 0x100000
def tileBase : Nat := 0x400000
def msixBase : Nat := 0xF00000
def pbaBase : Nat := 0xF80000
def coreBase : Nat := 0x1000000
def recovBase : Nat := 0x2000000
/-- Where this model puts BAR2, the doorbell pages, in the offsets of a register access (log 14). -/
def bar2Base : Nat := 0x10000000

/-- A function reaches the registers of pitch `p` that are open to its VF (R519). -/
def Dev.reachPitch (d : Dev) (fn : Fn) (p : Nat) : Bool :=
  d.reach fn && p < 64 && (isPf fn || d.pitchOfVf fn == some p)

def Dev.reachPf (d : Dev) (fn : Fn) : Bool := d.reach fn && isPf fn

/-! ## Staged halves -/

/-- A 64-bit register with one 32-bit half replaced. -/
def putHalf (old : Nat) (hi : Bool) (v : Nat) : Nat :=
  if hi then old % 2 ^ 32 + 2 ^ 32 * (v % 2 ^ 32) else old / 2 ^ 32 * 2 ^ 32 + v % 2 ^ 32

/-- Bits [43:12] of a register: reserved bits are not kept (R10). -/
def baseField (v : Nat) : Nat := fld v 12 32 * 4096

/-- A 32-bit write to the staged register of a pair that holds the BAR0 offset. -/
def Dev.stageWord (d : Dev) (fn : Fn) (off v : Nat) : Dev :=
  let hi := off % 8 = 4
  if xlBase + 0x10000 ≤ off && off < xlBase + 0x20000 then
    let c := (off - xlBase - 0x10000) / 16
    if off % 16 < 8 && d.reachPf fn then
      d.modCtx c fun x => { x with rtabShadow := baseField (putHalf x.rtabShadow hi v) }
    else d
  else if brdBase + 0x8000 ≤ off && off < brdBase + 0x10000 then
    let c := (off - brdBase - 0x8000) / 8
    if !hi && d.reachPf fn then d.modCtx c fun x => { x with spillShadow := v } else d
  else if ctxBase + 0x100000 ≤ off && off < ctxBase + 0x200000 then
    let c := (off - ctxBase - 0x100000) / 256
    let o := off % 256
    if 0x10 ≤ o && o < 0x90 && o % 16 < 8 && d.reachCtx fn c then
      d.modQueue c ((o - 0x10) / 16) fun u => { u with
        baseShadow := BitVec.ofNat 64 (putHalf u.baseShadow.toNat hi v / 4096 * 4096) }
    else d
  else if coreBase ≤ off && off < coreBase + 0x100000 then
    let c := (off - coreBase) / 0x1000
    if off % 0x1000 = 0x540 && d.reachCore fn c then
      d.modCore c fun k => { k with seedLoShadow := BitVec.ofNat 32 v }
    else d
  else if 0x1000 ≤ off && off < 0x1800 then
    let p := (off - 0x1000) / 32
    if off % 32 < 8 && d.reachPitch fn p then
      d.modPitchCnt p fun x => { x with pcs := { x.pcs with
        shadow := BitVec.ofNat 64 (baseField (putHalf x.pcs.shadow.toNat hi v)) } }
    else d
  else if 0x2000 ≤ off && off < 0x6000 then
    let p := (off - 0x2000) / 256
    if off % 256 < 0x80 && off % 16 < 8 && d.reachPitch fn p then
      d.modPitchCnt p fun x => { x with watch := tmod {} x.watch (off % 256 / 16) fun w => { w with
        shadow := BitVec.ofNat 64 (putHalf w.shadow.toNat hi v % 2 ^ 61) } }
    else d
  else if lanBase ≤ off && off < lanBase + 0x10000 then
    let p := (off - lanBase) / 0x400
    let o := off % 0x400
    if 0x100 ≤ o && o < 0x200 && o % 32 = 0 && d.reachPitch fn p then
      d.modPitchCnt p fun x => { x with prog := tmod {} x.prog ((o - 0x100) / 32) fun k => { k with selShadow := v % 256 } }
    else d
  else if lnkBase + 0x400 ≤ off && off < lnkBase + 0x700 then
    let n := (off - lnkBase - 0x400) / 64
    if off % 64 < 32 && d.reachPf fn then
      d.modPort n fun q => { q with keyShadow := tset q.keyShadow (off % 64 / 4) (BitVec.ofNat 32 v) }
    else d
  else if off = evrBase + 0x10 then
    if d.reachPf fn then d.modRec fun r => { r with cursorShadow := v % 1024 } else d
  else d

/-- STAGED_WRITE (R114): held in the shadow; nothing else changes. -/
def execStagedWrite (fn : Fn) (off width : Nat) (v : W64) (s : State) : Host.Outcome State Fault Refusal :=
  let d := s.dev.stageWord fn off (v.toNat % 2 ^ 32)
  s.to (if width = 8 then d.stageWord fn (off + 4) (v.toNat / 2 ^ 32) else d)

/-! ## Commits -/

/-- Every byte of an interval of stacked memory lies in granules with a property. -/
def spanIn (a n : Nat) (f : Nat → Bool) : Bool := n == 0 || (a + n ≤ 0x400000000 && allGrans a n f)

/-- The live pair is replaced at the end of the cc of the commit (R114). -/
def Dev.pairDue (d : Dev) (p : Pair) : Dev := { d with due := d.due ++ [p] }

/-- RANGE_TABLE_COMMIT (R327, R328). -/
def execRangeTableCommit (fn : Fn) (cid : Nat) (v : W32) (s : State) : Host.Outcome State Fault Refusal :=
  let d := s.dev
  let base := (d.ctx cid).rtabShadow
  let n := fld v.toNat 0 13
  let ok := base < 0x400000000 && n ≤ 4096 && spanIn base (32 * n) (fun g => d.granKind g == 1) && !d.invalHeld cid
  s.to (
    if !d.reachPf fn || 4096 ≤ cid || !ok then d
    else d.pairDue (.rangeTable cid base n))

/-- QUEUE_RING_COMMIT (R358). -/
def execQueueRingCommit (fn : Fn) (cid q : Nat) (v : W32) (s : State) : Host.Outcome State Fault Refusal :=
  let d := s.dev
  let x := d.ctx cid
  let u := x.queue q
  let n := fld v.toNat 0 5
  let ok := x.exists_ && !x.dying && (n == 0 || (6 ≤ n && n ≤ 16)) && (u.head == u.tail || u.stopped)
  s.to (
    if !d.reachCtx fn cid || 8 ≤ q || !ok then d
    else d.pairDue (.queueRing cid q u.baseShadow n))

/-- EDGE_SPILL_COMMIT (R404, R405). -/
def execEdgeSpillCommit (fn : Fn) (cid : Nat) (v : W32) (s : State) : Host.Outcome State Fault Refusal :=
  let d := s.dev
  let x := d.ctx cid
  let n := fld v.toNat 0 25
  let ok := x.exists_ && !x.dying && n ≤ 2 ^ 24 && d.edgesSpilled cid == 0
    && spanIn (x.spillShadow * 4096) (4 * n) (fun g => d.granOwner g == some x.pitch)
  s.to (
    if !d.reachPf fn || 4096 ≤ cid || !ok then d
    else d.pairDue (.edgeSpill cid x.spillShadow n))

/-- ROUNDING_SEED_COMMIT (R243, R246). -/
def execRoundingSeedCommit (fn : Fn) (core : Nat) (v : W32) (s : State) : Host.Outcome State Fault Refusal :=
  let d := s.dev
  let seed : W64 := v ++ (d.core core).seedLoShadow
  s.to (
    if !d.reachCore fn core || seed = 0 then d
    else d.seedDue core 2 seed)

/-- PC_SAMPLES_COMMIT (R507, R508). -/
def execPcSamplesCommit (fn : Fn) (pitch : Nat) (v : W32) (s : State) : Host.Outcome State Fault Refusal :=
  let d := s.dev
  let base := (d.pitchCnt pitch).pcs.shadow
  let int_ := fld v.toNat 8 5
  let size := fld v.toNat 16 5
  let ok := 8 ≤ int_ && int_ ≤ 24 && 12 ≤ size && size ≤ 30
    && spanIn base.toNat (2 ^ size) (fun g => d.granOwner g == some pitch)
  s.to (
    if !d.reachPitch fn pitch || !ok then d
    else d.pairDue (.samples pitch base (v &&& 0x001F1F07)))

/-- WATCHPOINT_COMMIT (R511). -/
def execWatchpointCommit (fn : Fn) (pitch n : Nat) (v : W64) (s : State) : Host.Outcome State Fault Refusal :=
  let d := s.dev
  let base := (tget {} (d.pitchCnt pitch).watch n).shadow
  let b := base.toNat
  let last_ := fld v.toNat 0 56
  let ok := !bit b 59 || (fld b 0 56 ≤ last_ && fld b 56 3 != 0)
  s.to (
    if !d.reachPitch fn pitch || 8 ≤ n || !ok then d
    else d.pairDue (.watch pitch n base (BitVec.ofNat 64 last_)))

/-- COUNTER_COMMIT (R500). -/
def execCounterCommit (fn : Fn) (pitch n : Nat) (v : W64) (s : State) : Host.Outcome State Fault Refusal :=
  let d := s.dev
  let x := d.ctx (fld v.toNat 36 12)
  let sel := (tget {} (d.pitchCnt pitch).prog n).selShadow
  let ok := sel ≤ 0x1F && (!bit v.toNat 35 || (x.exists_ && x.pitch == pitch))
  s.to (
    if !d.reachPitch fn pitch || 8 ≤ n || !ok then d
    else d.pairDue (.counter pitch n sel (v &&& 0xFFFFFFFFFFFF)))

/-! ## Link keys (R424, R496) -/

/-- The key that the eight staged words spell. -/
def Port.stagedKey (q : Port) : BitVec 256 :=
  BitVec.ofNat 256 ((List.range 8).foldr (fun w acc => (tget 0 q.keyShadow w).toNat + 2 ^ 32 * acc) 0)

/-- The conditions of R424 and R496. ENC names the slot that the transmitter uses after the commit (log 92). -/
def Port.keyCommitOk (q : Port) (v : W32) : Bool :=
  let slot := b2n (v.getLsbD 0)
  let load := v.getLsbD 1
  let use := v.getLsbD 2
  let enc := v.getLsbD 3
  let tx := if use then slot else q.keyUse
  let good (s : Nat) : Bool := (q.key s).matches && !(load && s == slot)
  !(load && (((q.keyUsed || q.keyCtlBit 3) && q.keyUse == slot) || q.keyLastRx == some slot)) && !(use && !good slot) && !(enc && !good tx)

/-- A commit of a link key pair. -/
def Dev.keyCommit (d : Dev) (fn : Fn) (n : Nat) (v : W32) (mine : Bool) : Dev :=
  let q := d.port n
  if !d.reachPf fn || 12 ≤ n || !mine || !q.keyCommitOk v then d else d.pairDue (.linkKey n q.stagedKey v)

/-- A link key pair acts: LOAD, USE and the modes together; KEY_CHECK follows a LOAD. -/
def Dev.keyLive (d : Dev) (n : Nat) (key : BitVec 256) (v : W32) : Dev :=
  let slot := b2n (v.getLsbD 0)
  let load := v.getLsbD 1
  let d := d.modPort n fun q => { q with
    keys := if load then tmod {} q.keys slot fun k => { k with loaded := true, key := key, txCount := 0, rxCount := 0 }
      else q.keys
    keyUse := if v.getLsbD 2 then slot else q.keyUse
    keyUsed := q.keyUsed || v.getLsbD 2
    keyCtl := v &&& 0x1F, keyData := [] }
  if load then
    d.enqueue n 65 (mgmtPacket d.ownId (d.port n).partner.toNat 0x10 0
      ([BitVec.ofNat 8 slot, 0, 0, 0] ++ leBytes 4 (Config.aesZeroBlock key).toNat))
  else d

/-- LINK_KEY_LOAD: a write of LNK_KEYn_CTL with LOAD. -/
def execLinkKeyLoad (fn : Fn) (port : Nat) (v : W32) (s : State) : Host.Outcome State Fault Refusal :=
  s.to (s.dev.keyCommit fn port v (v.getLsbD 1))

/-- LINK_KEY_USE: a write with USE and without LOAD. -/
def execLinkKeyUse (fn : Fn) (port : Nat) (v : W32) (s : State) : Host.Outcome State Fault Refusal :=
  s.to (s.dev.keyCommit fn port v (v.getLsbD 2 && !v.getLsbD 1))

/-- LINK_KEY_MODE_SET: a write with neither, which sets ENC and REQUIRE. -/
def execLinkKeyModeSet (fn : Fn) (port : Nat) (v : W32) (s : State) : Host.Outcome State Fault Refusal :=
  s.to (s.dev.keyCommit fn port v (!v.getLsbD 2 && !v.getLsbD 1))

/-! ## The recorder's window (R518) -/

/-- RECORDER_WINDOW_COMMIT: ignored while DONE is 0. -/
def execRecorderWindowCommit (fn : Fn) (v : W32) (s : State) : Host.Outcome State Fault Refusal :=
  let d := s.dev
  let len := fld v.toNat 0 5
  s.to (
    if !d.reachPf fn || !d.recorder.done || len = 0 || 16 < len then d
    else (d.modRec fun r => { r with done := false }).pairDue (.window d.recorder.cursorShadow (v &&& 0x31F)))

/-- The scan: up to `n` bins of severity `sev` or above from index `i` on; NEXT is the index after the last scanned. -/
def scanBins (sev : Nat) : Tab Bin → Nat → List Bin → List Bin × Nat
  | [], _, acc => (acc, 1024)
  | (k, b) :: rest, n, acc =>
    if b.sev < sev then scanBins sev rest n acc
    else match n with
      | 0 => (acc, 1024)
      | 1 => (acc ++ [b], k + 1)
      | n + 1 => scanBins sev rest n (acc ++ [b])

/-- EVR_SCAN_DONE. -/
def execEvrScanDone (s : State) : Host.Outcome State Fault Refusal :=
  s.to (s.dev.modRec fun r =>
    match r.scan with
    | none => r
    | some bins =>
      let x := scanBins (fld r.winCtl.toNat 8 2) (bins.filter fun b => r.cursor ≤ b.1) (fld r.winCtl.toNat 0 5) []
      { r with window := x.1, found := x.1.length, next := x.2, done := true, scan := none })

/-! ## The end of the commit's cc -/

/-- A pair becomes live, or a core is seeded, as its cc ends (R114, R242). A queue ring starts empty: what a stopped queue
had not admitted is discarded (R358). A counter starts at 0 in both banks (R500). -/
def Dev.applyPair (d : Dev) (p : Pair) : Dev :=
  match p with
  | .rangeTable cid base count =>
    (d.modCtx cid fun x => { x with rtabBase := base, rtabCount := count }).dropCached fun e => e.cid == cid
  | .queueRing cid q base log2 => d.modQueue cid q fun u => { u with
      base := base, log2 := log2, head := 0, tail := 0, stopped := false, stalled := false, cmds := []
      readUpTo := 0, doorbellAt := none, rungAfter := [] }
  | .edgeSpill cid base limit => d.modCtx cid fun x => { x with spillBase := base, spillLimit := limit }
  | .seed core rank v => d.modCore core fun k => { k with
      rng := seedState v, rngAt := d.time, seed := if rank = 1 then k.seed else v }
  | .samples pitch base ctl => d.modPitchCnt pitch fun x => { x with pcs := { x.pcs with
      base := base, ctl := ctl, written := 0, lost := {}, stopped := false } }
  | .watch pitch n base limit => d.modPitchCnt pitch fun x => { x with
      watch := tmod {} x.watch n fun w => { w with base := base, limit := limit } }
  | .counter pitch n sel filt => d.modPitchCnt pitch fun x => { x with
      prog := tmod {} x.prog n fun k => { k with
        sel := sel, filt := filt, value := 0, epoch := 0, closedValue := 0, closedEpoch := 0 } }
  | .linkKey port key ctl => d.keyLive port key ctl
  | .window cursor ctl => d.modRec fun r => { r with cursor := cursor, winCtl := ctl, scan := some r.bins }
  | .evrClear sevs => d.modRec fun r => { r with bins := r.bins.filter fun b => !bit sevs b.2.sev }

/-- A scan takes the bins of the start of the cc (R518), before a CLEAR; of several seedings of a core the pair's is the
last, the plan's the first (R246). -/
def Pair.rank : Pair → Nat
  | .evrClear _ => 1
  | .seed _ rank _ => 1 + rank
  | _ => 0

/-- Everything committed in the cc, in order. -/
def Dev.applyPairs (d : Dev) : Dev :=
  let l := d.due
  let d := { d with due := [] }
  d.forEach ((List.range 4).flatMap fun r => l.filter fun p => p.rank == r) Dev.applyPair

end Sys2Proof.Machine
end

