-- ==== Sys2Proof/Machine/Record.lean ====
section
/-!
DEFINITION. The event recorder (R512 to R517) and programme-counter samples (R504 to R507).
-/

namespace Sys2Proof.Machine
open Sys2Proof

/-! ## The recorder -/

/-- The histogram bucket of a gap in cc (R515). -/
def gapBucket (g : Nat) : Nat :=
  if g < 2 ^ 10 then 0 else if g < 2 ^ 14 then 1 else if g < 2 ^ 18 then 2 else if g < 2 ^ 22 then 3
  else if g < 2 ^ 26 then 4 else if g < 2 ^ 30 then 5 else if g < 2 ^ 34 then 6 else 7

/-- A bin that an event opens (R514). -/
def Event.newBin (e : Event) : Bin :=
  { kind := e.kind, sev := e.sev, unit := e.unit, count := 1, firstT := e.time, lastT := e.time
    dFirst := e.detail, dLast := e.detail, dMin := e.detail, dMax := e.detail }

/-- A later event of the bin (R514). -/
def Bin.add (b : Bin) (e : Event) : Bin :=
  let gap := e.time - b.lastT
  { b with
    count := satAdd 0xFFFFFFFF b.count 1
    hist := tmod 0 b.hist (gapBucket gap) fun n => satAdd 0xFFFF n 1
    minGap := min b.minGap gap
    lastT := e.time, dLast := e.detail, dMin := min b.dMin e.detail, dMax := max b.dMax e.detail }

/-- The lowest-numbered free bin. -/
def freeBin (bins : Tab Bin) : Option Nat := (List.range 1024).find? fun i => (lookup? bins i).isNone

/-- The bin that a full recorder gives up: lowest severity, then oldest LAST_T (R516). -/
def victimBin (bins : Tab Bin) : Option (Nat × Bin) := minBy? (fun b => b.2.sev * 2 ^ 64 + b.2.lastT) bins

/-- An event is applied (R514, R516). -/
def Recorder.apply (r : Recorder) (t : Nat) (e : Event) : Recorder :=
  match r.bins.find? fun b => b.2.kind == e.kind && b.2.unit == e.unit with
  | some (i, b) => { r with bins := tset r.bins i (b.add e) }
  | none =>
    match freeBin r.bins with
    | some i => { r with bins := tset r.bins i e.newBin }
    | none =>
      match victimBin r.bins with
      | some (i, b) =>
        if b.sev ≤ e.sev then
          { r with bins := tset r.bins i e.newBin, evicted := r.evicted.bump 0xFFFF 1 t }
        else { r with dropFull := r.dropFull.bump 0xFFFF 1 t }
      | none => r

/-- The hub cycle that holds a cc: 525 MHz is half of 1.05 GHz. -/
def hubCycle (cc : Nat) : Nat := cc / 2

/-- EVENT_APPLY (R513): one event per hub cycle, in the hub cycle after its detection at the earliest. It is folded into its
bin as the hub cycle ends, after a CLEAR of that hub cycle (R517). -/
def execEventApply (s : State) : Host.Outcome State Fault Refusal :=
  let d := s.dev
  let now := hubCycle d.hubCc
  s.to (match d.recorder.queue with
    | [] => d
    | e :: rest =>
      if now ≤ hubCycle e.time || d.recorder.lastApply == some now then d
      else d.modRec fun r => { r with queue := rest, lastApply := some now, applying := some e })

/-- The event being applied goes into its bin in the last cc of the hub cycle. -/
def Dev.tickRecorder (d : Dev) : Dev :=
  match d.recorder.applying with
  | none => d
  | some e =>
    if d.hubCc % 2 = 0 then d
    else d.modRec fun r => ({ r with applying := none }).apply d.time e

/-- EVR_CLEAR (R517): every bin of a named severity is freed. -/
def execEvrClear (fn : Fn) (v : W32) (s : State) : Host.Outcome State Fault Refusal :=
  let d := s.dev
  s.to (
    if !d.reachPf fn then d
    else d.pairDue (.evrClear (v.toNat % 16)))

/-! ## Programme-counter samples -/

/-- CORE_SEQ_STAT.STATE as it reads: a running program that froze in the last cc reads 6. -/
def Core.seqState (k : Core) : Nat :=
  if k.seq.st == 0 || k.seq.st == 5 then k.seq.st else if k.frzLast != 0 then 6 else k.seq.st

/-- STATE of a thread record (R505). -/
def Dev.threadState (d : Dev) (c slot : Nat) (g : Group) : Nat :=
  let k := d.core c
  let i := parseTg (d.fetchWord c g.pc)
  let waits := (i.sources ++ i.dests).filter fun r => g.notReady.contains r
  let fixed (r : RegRef) : Bool := g.pend.any fun p => p.dests.contains r
  if k.lastIssue == some d.time && k.lastSlot == slot then 0
  else if g.halted then 1
  else if !g.stack.isEmpty && waits.any fun r => !fixed r then 2
  else if !g.stack.isEmpty && !waits.isEmpty then 3
  else if g.stack.isEmpty || g.barriers.any fun b => b.holds i.op then 4
  else if d.time < g.fetchAt || k.bankLocked g.pc then 5
  else 6

/-- The slot that a thread record describes, and its group. -/
def Dev.sampledSlot (d : Dev) (c : Nat) : Option (Nat × Group) :=
  let k := d.core c
  if k.testing then none
  else match (if k.lastIssue == some d.time then k.group? k.lastSlot else none) with
    | some g => some (k.lastSlot, g)
    | none => minBy? (fun x => x.2.age) k.slots

/-- A record (R506). -/
def sampleBytes (t core slot pc cid state layer oper : Nat) : List Byte :=
  leBytes 6 t ++ leBytes 1 core ++ leBytes 1 slot ++ leBytes 2 pc ++ leBytes 2 (cid % 4096 + 4096 * state)
    ++ leBytes 2 layer ++ leBytes 2 oper

def Dev.threadRecord (d : Dev) (c l : Nat) : List Byte :=
  match d.sampledSlot c with
  | none => sampleBytes d.hubCc l 63 0 0 7 0 0
  | some (slot, g) =>
    let s3 := (g.s 3).toNat
    sampleBytes d.hubCc l slot g.pc g.cid (d.threadState c slot g) (s3 / 65536) (s3 % 65536)

def Dev.seqRecord (d : Dev) (c l : Nat) : List Byte :=
  let k := d.core c
  let q := k.seq
  if k.seqState = 0 then sampleBytes d.hubCc l 48 q.pc 0 8 0 0
  else sampleBytes d.hubCc l 48 q.pc q.cid (8 + k.seqState) q.layer.toNat q.oper.toNat

/-- A sample record on its way to memory. -/
def Req.isSample (r : Req) (p : Nat) : Bool :=
  r.org == .board && r.cid.isNone && r.pitch == some p && r.len == 16 && (match r.kind with | .write _ _ => true | _ => false)

/-- The place that a core holds for a stream is occupied: its last record is not yet written (R507). -/
def Dev.samplePending (d : Dev) (p l : Nat) (seq : Bool) : Bool :=
  d.mem.reqs.any fun r => r.2.isSample p && r.2.st != 2 && (match r.2.kind with
    | .write bs _ => tget 0 bs 6 == BitVec.ofNat 8 l && ((tget 0 bs 7 == 48) == seq)
    | _ => false)

/-- One record of a sample cc is numbered and sent, dropped, or ends the run (R507). -/
def Dev.putSample (d : Dev) (p l : Nat) (seq : Bool) (bytes : List Byte) : Dev :=
  let x := (d.pitchCnt p).pcs
  let room := 2 ^ (fld x.ctl.toNat 16 5 - 4)
  let modPcs (f : Pcs → Pcs) (d : Dev) : Dev := d.modPitchCnt p fun c => { c with pcs := f c.pcs }
  if x.stopped then d
  else if d.samplePending p l seq then modPcs (fun y => { y with lost := y.lost.bump 0xFFFF 1 d.time }) d
  else if !x.ctl.getLsbD 1 && x.written = room then modPcs (fun y => { y with stopped := true }) d
  else
    let a := d.ownId * 2 ^ 44 + x.base.toNat + 16 * (x.written % room)
    let r : Req := { kind := .write (withOffsets bytes) [], addr := a, len := 16, org := .board, pitch := some p }
    modPcs (fun y => { y with written := (y.written + 1) % 2 ^ 32 }) (d.send r).1

/-- PC_SAMPLE: the cores of a pitch sample in a cc in which HUB_CC mod 2^LOG2_INT is 0 (R504). -/
def execPcSample (pitch : Nat) (s : State) : Host.Outcome State Fault Refusal :=
  let d := s.dev
  let x := (d.pitchCnt pitch).pcs
  s.to (
    if !d.pitchValid pitch || !x.ctl.getLsbD 0 || x.stopped || d.hubCc % 2 ^ fld x.ctl.toNat 8 5 != 0
        || x.sampledAt == some d.hubCc then d
    else
      let d := d.modMem fun m => { m with reqs := m.reqs.filter fun r => !(r.2.isSample pitch && r.2.st == 2) }
      let d := d.modPitchCnt pitch fun c => { c with pcs := { c.pcs with sampledAt := some d.hubCc } }
      d.forEach (d.coresOf pitch).zipIdx fun d k =>
        if (d.core k.1).saved then d
        else
          let d := d.putSample pitch k.2 false (d.threadRecord k.1 k.2)
          if x.ctl.getLsbD 2 then d.putSample pitch k.2 true (d.seqRecord k.1 k.2) else d)

end Sys2Proof.Machine
end

