-- ==== Sys2Proof/Machine/Clock.lean ====
section
/-!
DEFINITION. The end of a clock cycle (log 2): what R217, R218, R373 and R499 count in it, and the next cc.
-/

namespace Sys2Proof.Machine
open Sys2Proof

/-- The commit in progress goes on; once a new plan is live, accesses of the host that its slots let start go on. -/
def Dev.tickCommit (d : Dev) : Dev :=
  let e := d.commitStep
  if d.plan.commit.any fun c => c.reason == 0 && c.phase == 5 then e.flushHeld else e

/-- One cc passes: nodes dispatched in a hub cycle that ends start, running array programs and working DMA engines are
counted, a context that began to end in it stops its programs, what was committed in
it becomes live, and time goes on. -/
def Dev.tick (d : Dev) : Dev :=
  let d := d.tickBoard.tickArrays.tickDma.tickTeardowns.tickFetches.applyPairs.tickRecorder
  { d with time := d.time + 1 }.tickChain.tickPower.tickFlash.tickCommit

/-- The machine with the command in front of those that wait. -/
def State.push (s : State) (c : Instr) : State := { s with pending := c :: s.pending }

/-- The step on an empty queue: no command waits, and a cc passes. -/
def State.idle (s : State) : State := { s with dev := s.dev.tick }

end Sys2Proof.Machine
end

