-- ==== Sys2Proof/Machine/Attest.lean ====
section
/-!
DEFINITION. Management and attestation: MCTP and PLDM (R374 to R376, R525, R529), SPDM on three transports (R485 to
R489), DOE discovery, IDE key management and ATS invalidation (R343). Message bytes that only a published standard
fixes are opaque functions of the request (log 6); what this manual fixes stands before them.
-/

namespace Sys2Proof.Machine
open Sys2Proof

/-- The firmware serves requests: start-up has started it, and it runs. -/
def Dev.stewardServes (d : Dev) : Bool :=
  d.power.porReleased && 4 ≤ d.boot.stage && !d.boot.recovery && !d.chain.stewardStopped

/-- The module's SMBus target address (R40). -/
def Dev.smbusAddr (d : Dev) : BitVec 7 :=
  BitVec.ofNat 7 (0x58 + 2 * b2n (d.power.straps.getLsbD 3) + b2n (d.power.straps.getLsbD 2))

/-! ## MCTP and PLDM -/

/-- A management message reaches the endpoint (R374): over SMBus at the module's address, or over the PCIe link. -/
def Dev.mctpReach (d : Dev) (via : MctpPort) : Bool :=
  d.stewardServes && match via with
    | .smbus a => a == d.smbusAddr
    | .vdm => d.power.pcieL0

/-- SET_ENDPOINT_ID (R374): the null and broadcast EIDs are refused, as MCTP lays down. -/
def execSetEndpointId (eid : MctpPort × Nat) (s : State) : Host.Outcome State Fault Refusal :=
  let d := s.dev
  let (via, eid) := eid
  s.to (
    if !d.mctpReach via then d
    else
      let d := if 0 < eid && eid < 255 then d.modSec fun x => { x with eid := eid } else d
      d.emit (.mctp (Config.stdResponse 256 (leBytes 1 eid))))

/-- PLDM_DISCOVERY (R375). -/
def execPldmDiscovery (cmd : MctpPort × Nat) (s : State) : Host.Outcome State Fault Refusal :=
  let d := s.dev
  s.to (if d.mctpReach cmd.1 then d.emit (.pldm (Config.stdResponse 257 (leBytes 1 cmd.2))) else d)

/-- Sensor 9: the lowest duty of any pitch in the last 10 ms, in whole percent rounded down (R529). -/
def Dev.dutyPercent (d : Dev) : Nat :=
  ((d.sec.duties.filter fun e => d.time < e.1 + ccUs 10000).map fun e => e.2).foldl min 64 * 100 / 64

/-- What sensor `id` reads: its own setting or duty, or the measured quantity (R375). -/
def Dev.sensorValue (d : Dev) (id : Nat) (reading : Int) : Int :=
  if id = 2 then d.power.vddCoreMv else if id = 9 then d.dutyPercent else reading

/-- Upper warning, critical and fatal thresholds of sensors 1 to 8 (R529), those that there are. -/
def Dev.thresholds (d : Dev) (id : Nat) : List Int :=
  if id = 1 then [(d.setpointWatts : Int), ((d.setpointWatts + d.setpointWatts / 10 : Nat) : Int),
    ((d.capWatts + d.capWatts / 10 : Nat) : Int)]
  else if id = 2 then [800]
  else if id ≤ 7 then [95, 100, 105]
  else if id = 8 then (if d.power.mid == 2 then [35, 40] else [45, 50])
  else []

/-- Present state of a sensor: 0 normal, 1 upper warning, 2 upper critical, 3 upper fatal, 4 lower warning. -/
def Dev.sensorState (d : Dev) (id : Nat) (v : Int) : Nat :=
  if id = 9 then (if v ≤ 50 then 4 else 0) else ((d.thresholds id).filter fun t => decide (t ≤ v)).length

/-- PLDM_SENSOR_READ: the sensor, its value and its state. -/
def execPldmSensorRead (id : MctpPort × Nat) (reading : Int) (s : State) : Host.Outcome State Fault Refusal :=
  let d := s.dev
  let (via, id) := id
  let v := d.sensorValue id reading
  s.to (
    if !d.mctpReach via then d
    else if id = 0 || 9 < id then d.emit (.pldm (Config.stdResponse 258 (leBytes 1 id)))
    else d.emit (.pldm (leBytes 1 id ++ leBytes 4 (uNat 32 v) ++ leBytes 1 (d.sensorState id v))))

/-- PLDM_EFFECTER_SET (R525): 200 W to the ordering number's cap. -/
def execPldmEffecterSet (id : MctpPort × Nat) (watts : Nat) (s : State) : Host.Outcome State Fault Refusal :=
  let d := s.dev
  let (via, id) := id
  s.to (
    if !d.mctpReach via then d
    else
      let ok := id == 10 && 200 ≤ watts && watts ≤ d.capWatts
      let d := if ok then d.modSec fun x => { x with setpoint := some watts } else d
      d.emit (.pldm (leBytes 1 (b2n ok))))

/-- PLDM_FW_UPDATE (R70, R376): an image that passes every check of R68, or a plan that passes phase A, is programmed
into its flash region, which is erased first, and runs from the next start-up. Programming takes a time that the manual
leaves open (log 96); power lost meanwhile leaves the region empty. -/
def execPldmFwUpdate (component : MctpPort × Nat) (image : List Byte) (s : State) : Host.Outcome State Fault Refusal :=
  let d := s.dev
  let (via, component) := component
  let img := tabAt 0 image
  s.to (
    if !d.mctpReach via || !d.fullService then d
    else
      let ok := d.boot.fwProg.isNone && ((component == 1 && image.length ≤ flashImageLen && (d.imageCheck img).isNone)
        || (component == 2 && image.length ≤ 0x800000 && (d.planPhaseA img).isNone))
      let d := if ok then
          let (t, d) := d.takeFree
          d.modBoot fun b => { b with
            flash := b.flash.filter fun x => !inFlashRegion component x.1
            fwProg := some (component, image, d.time + t.toNat) }
        else d
      d.emit (.pldm (leBytes 1 (b2n ok))))

/-! ## SPDM (R485) -/

def spdmIdx : SpdmPort → Nat | .doe => 0 | .smbus _ => 1 | .vdm => 2

/-- The transport reaches the responder: SMBus at the module's address, DOE and vendor-defined messages over PCIe. -/
def Dev.spdmReach (d : Dev) (p : SpdmPort) : Bool :=
  d.stewardServes && match p with
    | .smbus a => a == d.smbusAddr
    | .doe | .vdm => d.power.pcieL0

def Dev.conn (d : Dev) (p : SpdmPort) : SpdmConn := tget {} d.sec.spdm (spdmIdx p)
def Dev.modConn (d : Dev) (p : SpdmPort) (f : SpdmConn → SpdmConn) : Dev :=
  d.modSec fun x => { x with spdm := tmod {} x.spdm (spdmIdx p) f }

/-- ERROR with an error code: 0x01 InvalidRequest, 0x02 InvalidSession, 0x04 UnexpectedRequest, 0x06 DecryptError, 0x07
UnsupportedRequest, 0x0A SessionLimitExceeded (SPDM 1.2). -/
def Dev.spdmError (d : Dev) (p : SpdmPort) (code : Nat) : Dev := d.emit (.spdm p 0x7F (leBytes 1 code))

/-- A request that needs the connection to have come so far (SPDM 1.2): otherwise UnexpectedRequest. -/
def Dev.spdmAfter (d : Dev) (p : SpdmPort) (need : SpdmConn → Bool) (body : Dev) : Dev :=
  if !d.spdmReach p then d else if need (d.conn p) then body else d.spdmError p 4

/-- A response signed by the RSA identity key: the message that the signature covers is kept for GET_PQ_SIG (R486).
The responder's 32 B nonce is drawn anew. -/
def Dev.spdmSigned (d : Dev) (p : SpdmPort) (code : Nat) (body : List Byte) : Dev :=
  let (a, d) := d.takeFree
  let (b, d) := d.takeFree
  let (c, d) := d.takeFree
  let (e, d) := d.takeFree
  let nonce := leBytes 8 a.toNat ++ leBytes 8 b.toNat ++ leBytes 8 c.toNat ++ leBytes 8 e.toNat
  let msg := leBytes 1 code ++ Config.spdmResponse code (body ++ nonce)
  (d.modConn p fun x => { x with lastSigned := msg }).emit
    (.spdm p code (body ++ nonce ++ Config.rsaIdentitySign msg))

/-- GET_VERSION: 1.2 only; the connection starts over. -/
def execGetVersion (p : SpdmPort) (s : State) : Host.Outcome State Fault Refusal :=
  let d := s.dev
  s.to (if !d.spdmReach p then d else (d.modConn p fun _ => { versionDone := true }).emit (.spdm p 0x04 [0x12]))

/-- GET_CAPABILITIES: CTExponent 22 and the flags of R485. -/
def execGetCapabilities (p : SpdmPort) (s : State) : Host.Outcome State Fault Refusal :=
  let d := s.dev
  s.to (d.spdmAfter p (fun c => c.versionDone) ((d.modConn p fun c => { c with capsDone := true }).emit
    (.spdm p 0x61 ([22] ++ Config.spdmResponse 0x61 []))))

/-- NEGOTIATE_ALGORITHMS: of the algorithms offered, those of R485, numbered 1 RSASSA-PSS 3072, 2 SHA-384, 3 secp384r1,
4 AES-256-GCM; without signature and hash nothing is negotiated. -/
def execNegotiateAlgorithms (p : SpdmPort) (offered : List Byte) (s : State) : Host.Outcome State Fault Refusal :=
  let d := s.dev
  let chosen := [1, 2, 3, 4].filter fun a : Byte => offered.contains a
  s.to (d.spdmAfter p (fun c => c.capsDone) (
    if offered.contains 1 && offered.contains 2 then
      (d.modConn p fun c => { c with algsDone := true }).emit (.spdm p 0x63 chosen)
    else d.spdmError p 1))

/-- GET_DIGESTS: slot 0 only. -/
def execGetDigests (p : SpdmPort) (s : State) : Host.Outcome State Fault Refusal :=
  let d := s.dev
  s.to (d.spdmAfter p (fun c => c.algsDone)
    (d.emit (.spdm p 0x01 ([1] ++ leBytes 48 (Config.sha384 Config.rsaCertChain).toNat))))

/-- GET_CERTIFICATE: a portion of the RSA identity chain. -/
def execGetCertificate (p : SpdmPort) (slot off len : Nat) (s : State) : Host.Outcome State Fault Refusal :=
  let d := s.dev
  s.to (d.spdmAfter p (fun c => c.algsDone) (
    if slot != 0 then d.spdmError p 7
    else if Config.rsaCertChain.length ≤ off then d.spdmError p 1
    else d.emit (.spdm p 0x02 ((Config.rsaCertChain.drop off).take len))))

/-- CHALLENGE: slot 0. -/
def execChallenge (p : SpdmPort) (slot : Nat) (req : List Byte) (s : State) : Host.Outcome State Fault Refusal :=
  let d := s.dev
  s.to (d.spdmAfter p (fun c => c.algsDone) (
    if slot != 0 then d.spdmError p 7
    else d.spdmSigned p 0x03 (leBytes 48 (Config.sha384 Config.rsaCertChain).toNat ++ req)))

/-- Block 9 (R487). -/
def Dev.debugBlock (d : Dev) : List Byte :=
  leBytes 1 d.boot.image.pair ++ leBytes 1 d.boot.revoked.toNat ++ leBytes 1 d.boot.svnFuse
    ++ leBytes 1 (b2n d.sec.jtagOpen + 2 * b2n d.sec.jtagEver + 4 * b2n (d.sec.unlocked != 0))
    ++ leBytes 4 d.boot.image.svn ++ leBytes 8 d.sec.unlocked.toNat

/-- Measurement block `i`, 1 to 9. -/
def Dev.measBlock (d : Dev) (i : Nat) : List Byte := if i = 9 then d.debugBlock else d.measBytes (i - 1)

/-- The blocks that an index names, all taken at one instant (R488): 0 their number, 0xFF all of them. -/
def Dev.measBlocks (d : Dev) (index : Nat) : Option (List Byte) :=
  if index = 0 then some [9]
  else if index = 0xFF then some ((List.range 9).flatMap fun i => leBytes 1 (i + 1) ++ d.measBlock (i + 1))
  else if index ≤ 9 then some (leBytes 1 index ++ d.measBlock index)
  else none

/-- GET_MEASUREMENTS. -/
def execGetMeasurements (p : SpdmPort) (index : Nat) (signed : Bool) (req : List Byte) (s : State) :
    Host.Outcome State Fault Refusal :=
  let d := s.dev
  s.to (d.spdmAfter p (fun c => c.algsDone) (
    match d.measBlocks index with
    | none => d.spdmError p 1
    | some bs => if signed then d.spdmSigned p 0x60 (bs ++ req) else d.emit (.spdm p 0x60 bs)))

/-- Sessions of a kind of transport: two over DOE, two over MCTP. -/
def Dev.sessionsOf (d : Dev) (doe : Bool) : Nat := (d.sec.sessions.filter fun x => x.2.doe == doe).length

/-- KEY_EXCHANGE opens a session, numbered with the lowest free number. -/
def execKeyExchange (p : SpdmPort) (req : List Byte) (s : State) : Host.Outcome State Fault Refusal :=
  let d := s.dev
  s.to (d.spdmAfter p (fun c => c.algsDone) (
    if 2 ≤ d.sessionsOf (p == .doe) then d.spdmError p 0x0A
    else
      let id := ((List.range 4).find? fun i => (lookup? d.sec.sessions i).isNone).getD 0
      (d.modSec fun x => { x with sessions := tset x.sessions id { doe := p == .doe } }).spdmSigned p 0x64
        (leBytes 2 id ++ req)))

/-- A session of the transport. -/
def Dev.session? (d : Dev) (p : SpdmPort) (id : Nat) : Option SpdmSession :=
  (lookup? d.sec.sessions id).filter fun x => x.doe == (p == .doe)

/-- A request within a session that has been set up. -/
def Dev.inSession (d : Dev) (p : SpdmPort) (id : Nat) (body : Dev) : Dev :=
  if !d.spdmReach p then d
  else match d.session? p id with
    | none => d.spdmError p 2
    | some x => if x.established then body else d.spdmError p 4

def Dev.modSession (d : Dev) (id : Nat) (f : SpdmSession → SpdmSession) : Dev :=
  d.modSec fun x => { x with sessions := tmodIf x.sessions id f }

/-- FINISH: the session is set up if the requester's message authentication holds, which the response function shows
by answering. -/
def execFinish (p : SpdmPort) (session : Nat) (req : List Byte) (s : State) : Host.Outcome State Fault Refusal :=
  let d := s.dev
  let resp := Config.spdmResponse 0x65 (leBytes 2 session ++ req)
  s.to (
    if !d.spdmReach p then d
    else match d.session? p session with
      | none => d.spdmError p 2
      | some x =>
        if x.established then d.spdmError p 4
        else if resp.isEmpty then d.spdmError p 6
        else (d.modSession session fun x => { x with established := true }).emit (.spdm p 0x65 resp))

def execKeyUpdate (p : SpdmPort) (session : Nat) (s : State) : Host.Outcome State Fault Refusal :=
  let d := s.dev
  s.to (d.inSession p session ((d.modSession session fun x => { x with keyEpoch := x.keyEpoch + 1 }).emit
    (.spdm p 0x69 (leBytes 2 session))))

def execSpdmHeartbeat (p : SpdmPort) (session : Nat) (s : State) : Host.Outcome State Fault Refusal :=
  let d := s.dev
  s.to (d.inSession p session (d.emit (.spdm p 0x68 (leBytes 2 session))))

def execEndSession (p : SpdmPort) (session : Nat) (s : State) : Host.Outcome State Fault Refusal :=
  let d := s.dev
  s.to (d.inSession p session ((d.modSec fun x => { x with sessions := tdel x.sessions session }).emit
    (.spdm p 0x6C (leBytes 2 session))))

/-! ## Vendor-defined requests (R486) -/

/-- A piece of up to 1,024 B named by offset. -/
def Dev.piece (d : Dev) (p : SpdmPort) (code : Nat) (all : List Byte) (off len : Nat) : Dev :=
  if all.length ≤ off then d.spdmError p 1
  else d.emit (.spdm p 0x7E (leBytes 1 code ++ (all.drop off).take (min len 1024)))

/-- GET_PQ_SIG: over the message that the last RSA signature of the connection covered. -/
def execGetPqSig (p : SpdmPort) (off len : Nat) (s : State) : Host.Outcome State Fault Refusal :=
  let d := s.dev
  let msg := (d.conn p).lastSigned
  s.to (d.spdmAfter p (fun c => c.algsDone) (
    if msg.isEmpty then d.spdmError p 4
    else d.piece p 1 ((Config.slhIdentitySign msg ++ zeros 16224).take 16224) off len))

def execGetPqCert (p : SpdmPort) (off len : Nat) (s : State) : Host.Outcome State Fault Refusal :=
  let d := s.dev
  s.to (d.spdmAfter p (fun c => c.algsDone) (d.piece p 2 Config.slhCertChain off len))

/-- GET_CHAIN_FP: on the head up to 64 fingerprints from a device ID on, 0 where there is none. -/
def execGetChainFp (p : SpdmPort) (first : Nat) (s : State) : Host.Outcome State Fault Refusal :=
  let d := s.dev
  let n := min 64 (4096 - first)
  let fps := (List.range n).flatMap fun i => leBytes 8 (tget 0 d.chain.fingerprints (first + i)).toNat
  s.to (d.spdmAfter p (fun c => c.algsDone) (
    if d.isHead then d.emit (.spdm p 0x7E ([3] ++ fps)) else d.spdmError p 7))

/-- SPDM_UNSUPPORTED: a message or option that R485 does not list. -/
def execSpdmUnsupported (p : SpdmPort) (_code : Nat) (s : State) : Host.Outcome State Fault Refusal :=
  s.to (if s.dev.spdmReach p then s.dev.spdmError p 7 else s.dev)

/-! ## DOE, IDE and ATS (R343) -/

/-- DOE_DISCOVERY: discovery, CMA/SPDM and secured CMA/SPDM of the PCI-SIG, and the next index. -/
def execDoeDiscovery (index : Nat) (s : State) : Host.Outcome State Fault Refusal :=
  let d := s.dev
  let resp : List Byte := if index ≤ 2 then [1, 0] ++ leBytes 1 index ++ leBytes 1 (if index = 2 then 0 else index + 1)
    else [0xFF, 0xFF, 0, 0]
  s.to (if d.spdmReach .doe then d.emit (.doe resp) else d)

/-- IDE_KEY_MANAGEMENT: in a DOE session that has been set up; other transports carry none (R485). -/
def execIdeKeyManagement (p : SpdmPort) (session : Nat) (req : List Byte) (s : State) :
    Host.Outcome State Fault Refusal :=
  let d := s.dev
  s.to (d.inSession p session (
    if p != .doe then d.spdmError p 7
    else (d.modSec fun x => { x with ideMsgs := req :: x.ideMsgs }).emit (.spdm p 0x7E (Config.stdResponse 259 req))))

/-- ATS_INVALIDATE_REQUEST: the device keeps no translation of host memory between accesses, so the request leaves the
queue at once with its completion. -/
def execAtsInvalidateRequest (fn : Fn) (itag : Nat) (s : State) : Host.Outcome State Fault Refusal :=
  let d := s.dev
  s.to (if d.configReach fn && !d.boot.recovery then d.emit (.atsComplete fn itag) else d)

end Sys2Proof.Machine
end

