-- ==== Sys2Proof/Machine/Registers.lean ====
section
/-!
DEFINITION. Register accesses (R9 to R11, R25, R64, R114, R155, R254, R347, R405, R492, R503, R519, R537, R538): the
32-bit word that a read of an offset returns, what a read clears, and the writes that no other command covers. A
64-bit access is two words in one cc. Offsets are those of BAR0; BAR2 stands at `bar2Base` (log 14).
-/

namespace Sys2Proof.Machine
open Sys2Proof

/-- A word made of fields: lowest bit, value. -/
def packed (l : List (Nat × Nat)) : Nat := l.foldl (fun a f => a + f.2 * 2 ^ f.1) 0

/-- The half of a 64-bit register that an offset names. -/
def half (off v : Nat) : Nat := fld v (32 * (off / 4 % 2)) 32

/-! ## Who reads (R64, R347, R405, R492, R519, R537) -/

/-- A CORE_DBG_ register, CTL to RDATA. -/
def isDbgReg (off : Nat) : Bool := 0x440 ≤ off && off < 0x458

/-- The offsets open to a virtual function at full service. -/
def Dev.vfOpen (d : Dev) (fn : Fn) (off : Nat) : Bool :=
  let mine (p : Nat) : Bool := d.pitchOfVf fn == some p
  if off < 0x1000 then off < 0x18 || (0x50 ≤ off && off < 0x58)
  else if off < 0x1800 then mine ((off - 0x1000) / 32)
  else if 0x2000 ≤ off && off < 0x6000 then mine ((off - 0x2000) / 256)
  else if xlBase ≤ off && off < brdBase then off < xlBase + 0x10
  else if brdBase ≤ off && off < pegBase then
    if off < brdBase + 0x400 then off % 16 < 8 && mine ((off - brdBase) / 16)
    else brdBase + 0x8000 ≤ off && d.reachCtx fn ((off - brdBase - 0x8000) / 8)
  else if pegBase ≤ off && off < evrBase then off < pegBase + 0x10
  else if lanBase ≤ off && off < bivRegBase then mine ((off - lanBase) / 0x400)
  else if ctxBase ≤ off && off < ctxBase + 0x100000 then off < ctxBase + 0x60
  else if ctxBase + 0x100000 ≤ off && off < ctxBase + 0x200000 then d.reachCtx fn ((off - ctxBase - 0x100000) / 256)
  else msixBase ≤ off && off < recovBase

/-- A function's read at an offset reaches a register. -/
def Dev.canRead (d : Dev) (fn : Fn) (off : Nat) : Bool :=
  let stw := stwBase ≤ off && off < plnBase
  let core := (off - coreBase) / 0x1000
  if fn != 65 && !d.power.pcieL0 then false
  else if d.boot.recovery && fn != 65 then fn == 0 && (stw || (recovBase ≤ off && off < bar2Base))
  else if bar2Base ≤ off then fn != 65 && d.reachCtx fn ((off - bar2Base) / 0x10000)
  else if coreBase ≤ off && off < recovBase then
    if isDbgReg (off % 0x1000) then d.reachDbg fn core else d.reachCore fn core
  else if fn == 65 then d.reach fn
  else if d.fullService then d.reach fn && (fn == 0 || d.vfOpen fn off)
  else fn == 0 && 4 ≤ d.boot.stage && (off < 0x18 || off == 0x40 || off == 0x44 || stw)

/-! ## Values, block by block -/

def Dev.hubWord (d : Dev) (off : Nat) : Nat :=
  let x := d.power
  let h := d.host
  if off = 0x00 then packed [(24, 1), (16, 1), (12, 1), (0, if x.mid == 2 then 2 else if x.mid == 1 then 1 else 0)]
  else if off = 0x04 then 0xFFF
  else if off = 0x08 then packed [(16, 12), (9, 64), (0, 256)]
  else if off = 0x0C then 1
  else if off = 0x10 then 0x01000100
  else if off = 0x14 then packed [(17, b2n h.refused), (16, b2n h.accepted), (0, h.ifverSel.toNat)]
  else if off = 0x40 then packed [(16, b2n x.outEn), (8, d.statusOut), (5, x.mid.toNat), (0, x.straps.toNat)]
  else if off = 0x44 then
    packed [(8, (x.pcieUnlock.read d.time).1), (4, b2n (x.straps.getLsbD 1)), (3, b2n x.bivLock), (2, b2n x.lnkLock),
      (1, b2n x.pcieLock), (0, b2n x.mainLock)]
  else if off / 8 = 9 then half off h.bar4Win
  else if off / 8 = 10 then half off d.hubCc
  else if 0x1000 ≤ off && off < 0x1800 then
    let y := (d.pitchCnt ((off - 0x1000) / 32)).pcs
    match off % 32 / 8 with
    | 0 => half off y.base.toNat
    | 1 => if off % 8 = 0 then y.ctl.toNat else 0
    | 2 => half off (packed [(32, y.written), (16, (y.lost.read d.time).1), (0, b2n y.stopped)])
    | _ => 0
  else if 0x2000 ≤ off && off < 0x6000 then
    let c := d.pitchCnt ((off - 0x2000) / 256)
    let o := off % 256
    if o < 0x80 then
      let w := tget {} c.watch (o / 16)
      half off (if o % 16 < 8 then w.base.toNat else w.limit.toNat)
    else if o < 0x88 then
      half off (packed ((List.range 8).map fun n => (8 * n, ((tget {} c.watch n).hits.read d.time).1)))
    else 0
  else 0

/-- STW_BOOT_STAT (R87). -/
def Dev.bootStat (d : Dev) : Nat :=
  packed [(20, d.chain.devId.toNat), (19, b2n d.chain.idValid), (18, b2n (d.power.straps.getLsbD 4)),
    (17, b2n d.chain.chainErr), (16, b2n d.planRunning), (8, d.boot.result),
    (0, if d.boot.recovery then 0xF else d.boot.stage)]

/-- Byte `t` of STW_DICE_STAT.UNDER_TEST. -/
def Dev.underTest (d : Dev) (t : Nat) : Nat :=
  match d.cores.find? fun x => x.2.testing && tileOf x.1 == t with
  | some x => 0x80 + x.1 % 64
  | none => 0

def Dev.stwWord (d : Dev) (o : Nat) : Nat :=
  let c := d.chain
  let b := d.boot
  let s := d.sec
  let rd (r : Rc) : Nat := (r.read d.time).1
  if o = 0x100 then d.bootStat
  else if o = 0x104 then packed [(16, b.svnFuse), (4, b.image.pair), (0, b.revoked.toNat)]
  else if o = 0x10C then packed [(16, b.recovAttempts), (8, b.recovCause), (0, b.recovState)]
  else if 0x124 ≤ o && o < 0x14C then fld (tget 0 b.stageEnd ((o - 0x120) / 4)) 0 32
  else if o = 0x200 then
    packed [(24, rd c.drop), (16, rd c.foreign), (8, rd c.glitch), (4, b2n c.upLost), (3, b2n (d.power.straps.getLsbD 4)),
      (0, c.phase)]
  else if o / 8 = 0x42 then
    half o (packed [(32, d.packVersion.toNat), (0, d.underTest 0), (8, d.underTest 1), (16, d.underTest 2),
      (24, d.underTest 3)])
  else if o = 0x220 then packed [(31, b2n s.packBusy), (0, s.packCode)]
  else if o = 0x238 then packed [(31, b2n s.dbgBusy), (30, b2n s.jtagOpen), (29, b2n s.jtagEver), (0, s.dbgCode)]
  else if o / 8 = 0x48 then half o s.unlocked.toNat
  else if 0x248 ≤ o && o < 0x258 then fld s.nonce.toNat (32 * ((o - 0x248) / 4)) 32
  else 0

/-- PLN_STATUS.PHASE: the phase that the commit in progress has reached. -/
def Dev.planPhase (d : Dev) : Nat :=
  match d.plan.commit with
  | none => 0
  | some c => c.phase

def Dev.plnWord (d : Dev) (o : Nat) : Nat :=
  let p := d.plan
  if o = 0 then b2n p.commit.isSome
  else if o = 4 then
    packed [(31, b2n p.bySteward), (12, p.index), (11, b2n d.planRunning), (8, d.planPhase), (0, p.reason)]
  else if o / 8 = 1 then half o (if d.planRunning then planId d.pl else 0)
  else if o = 0x10 then fld p.commitT 0 32
  else if 0x10000 ≤ o && o < 0x10000 + planLen then planNat p.staging (o - 0x10000) 4
  else 0

def Dev.xlWord (d : Dev) (f : Fn) (o : Nat) : Nat :=
  let g := d.func f
  if o = 8 then packed [(31, b2n g.xlBusy), (8, g.xlElapsed), (0, g.xlCode)]
  else if 0x100 ≤ o && o < 0x140 then half o (tget 0 d.xl.granKind ((o - 0x100) / 8)).toNat
  else if 0x10000 ≤ o && o < 0x20000 then
    let x := d.ctx ((o - 0x10000) / 16)
    match o % 16 / 4 with
    | 0 | 1 => half o x.rtabBase
    | 2 => x.rtabCount
    | _ => 0
  else 0

def Dev.brdWord (d : Dev) (o : Nat) : Nat :=
  if o < 0x400 then
    let p := o / 16
    let ns := d.board.nodes.filter fun n => n.2.pitch == p
    if o % 16 < 8 then
      half o (packed [(48, b2n (d.commitChanges p)), (32, (ns.filter fun n => n.2.st == 1).length),
        (16, d.edgesOnChip p), (0, ns.length)])
    else 0
  else if 0x8000 ≤ o && o < 0x10000 then
    let x := d.ctx ((o - 0x8000) / 8)
    if o % 8 = 0 then x.spillBase else x.spillLimit
  else 0

/-- A bin in the window (R514). -/
def Bin.bytes (b : Bin) : List Byte :=
  leBytes 1 b.kind ++ leBytes 1 b.sev ++ leBytes 2 b.unit ++ leBytes 4 b.count ++ leBytes 8 b.firstT ++ leBytes 8 b.lastT
    ++ leBytes 4 b.dFirst ++ leBytes 4 b.dLast ++ leBytes 4 b.dMin ++ leBytes 4 b.dMax
    ++ (List.range 8).flatMap (fun k => leBytes 2 (tget 0 b.hist k)) ++ leBytes 4 b.minGap ++ leBytes 4 0

def Dev.evrWord (d : Dev) (o : Nat) : Nat :=
  let r := d.recorder
  let rd (x : Rc) : Nat := (x.read d.time).1
  if o < 8 then half o (packed [(48, rd r.dropQ), (32, rd r.dropFull), (16, rd r.evicted), (0, r.bins.length)])
  else if o = 0x10 then r.cursor
  else if o = 0x14 then r.winCtl.toNat
  else if o = 0x18 then packed [(31, b2n r.done), (16, r.next), (0, r.found)]
  else if 0x1000 ≤ o && o < 0x1400 then
    match r.window[(o - 0x1000) / 64]? with
    | some b => leNat ((b.bytes.drop (o % 64)).take 4)
    | none => 0
  else 0

/-- LAN_ registers: the banks as they stood at the start of the cc (R503); a pitch that is not valid reads 0 in its
lantern counters (R499). -/
def Dev.lanWord (d : Dev) (o : Nat) : Nat :=
  let p := o / 0x400
  let c := d.pitchCnt p
  let x := o % 0x400
  if x < 0x80 then (if d.pitchValid p then half o (tget 0 c.lant (x / 8)) else 0)
  else if 0x100 ≤ x && x < 0x200 then
    let k := tget {} c.prog ((x - 0x100) / 32)
    let v := if k.chgAt = d.time then k.prev else (k.value, k.epoch, k.closedValue, k.closedEpoch)
    match x % 32 / 8 with
    | 0 => if x % 8 = 0 then k.sel else 0
    | 1 => half o k.filt.toNat
    | 2 => half o (packed [(48, v.2.1), (0, v.1)])
    | _ => half o (packed [(48, v.2.2.2), (0, v.2.2.1)])
  else 0

def Dev.bivWord (d : Dev) (o : Nat) : Nat :=
  let b := d.biv (o / 32)
  if 0x40 ≤ o then 0
  else if o % 32 = 0 then
    packed [(24, (b.timeout.read d.time).1), (16, (b.poisonRx.read d.time).1), (8, b.width), (3, b.rate), (0, b.st)]
  else if o % 32 = 4 then b.gib
  else 0

/-- LNK_TRAIN_STATp. -/
def Port.trainStat (q : Port) : Nat :=
  packed [(20, q.partner.toNat), (19, b2n q.partnerValid), (10, q.rxFail.toNat), (9, b2n q.rxSpare.isSome),
    (6, q.rxSpare.getD 0), (5, b2n q.txSpare.isSome), (2, q.txSpare.getD 0), (0, q.trainSt)]

def Dev.lnkWord (d : Dev) (o : Nat) : Nat :=
  let rd (x : Rc) : Nat := (x.read d.time).1
  let f := d.fab
  if 0x100 ≤ o && o < 0x400 then
    let q := d.port ((o - 0x100) / 64)
    match o % 64 / 4 with
    | 0 => q.trainStat
    | 1 => packed [(24, rd q.retrains), (16, rd q.deaths), (7, b2n (q.keyCtlBit 3)), (6, q.keyUse), (0, q.st)]
    | 2 => packed [(24, rd q.authFail), (16, rd q.fecUncorr), (0, q.laneAlarm.toNat)]
    | 3 => packed [(16, rd q.fecCorr), (0, rd q.replay)]
    | _ => 0
  else if 0x400 ≤ o && o < 0x700 then
    let q := d.port ((o - 0x400) / 64)
    match o % 64 / 4 with
    | 8 => q.keyCtl.toNat
    | 9 => packed [(3, b2n (q.key 1).matches), (2, b2n (q.key 0).matches), (1, b2n (q.key 1).loaded),
        (0, b2n (q.key 0).loaded)]
    | w => if w < 8 then (tget 0 q.keyData w).toNat else 0
  else if o = 0x800 then packed [(24, rd f.discard), (0, (f.tracks.filter fun t => t.held.isSome).length)]
  else if o / 8 = 0x102 then
    half o (packed [(48, rd f.refused), (32, rd f.retrySent), (16, rd f.hopDrop), (0, rd f.unreachSent)])
  else if o = 0x818 then packed [(16, rd f.noShare)]
  else if 0x1000 ≤ o && o < 0x1200 then
    maskOf ((List.range 32).filter fun i => (tget {} f.unreach ((o - 0x1000) * 8 + i)).bit)
  else 0

/-- The per-context registers of a context. -/
def Ctx.word (x : Ctx) (o : Nat) : Nat :=
  if o = 0 then packed [(1, b2n x.audit), (0, b2n x.compat)]
  else if o = 4 then
    packed [(31, b2n x.exists_), (30, b2n x.dying), (29, b2n x.slot.isSome), (18, x.pitch % 64), (8, x.slot.getD 0),
      (0, x.fault)]
  else if o / 8 = 1 then
    half o (packed [(52, x.elapsed), (36, x.cancelled), (26, min 512 x.orphanBiv), (18, x.orphanRemote),
      (9, x.pegAbandoned), (1, x.pegSkip), (0, b2n (x.zeroPend != 0))])
  else if 0x10 ≤ o && o < 0x90 then
    let u := x.queue ((o - 0x10) / 16)
    match o % 16 / 4 with
    | 0 | 1 => half o u.base.toNat
    | 2 => u.log2
    | _ => 0
  else if 0x90 ≤ o && o < 0xD0 then
    let u := x.queue ((o - 0x90) / 8)
    if o % 8 = 0 then u.head.toNat else u.tail.toNat
  else 0

def Dev.ctxWord (d : Dev) (f : Fn) (o : Nat) : Nat :=
  let g := d.func f
  let h := d.host
  if 0x100000 ≤ o then (d.ctx ((o - 0x100000) / 256)).word (o % 256)
  else if o = 4 then packed [(31, b2n g.ctxBusy), (16, g.ctxCid), (0, g.ctxCode)]
  else if o = 0x14 then packed [(31, b2n g.qryBusy), (0, g.qryCode)]
  else if 0x20 ≤ o && o < 0x60 then half o (tget 0 g.qryRes ((o - 0x20) / 8)).toNat
  else if o = 0x84 then packed [(31, b2n h.preBusy.isSome), (8, h.preElapsed), (0, h.preCode)]
  else if o / 8 = 0x11 then half o h.preSaved.toNat
  else 0

def Dev.tileWord (d : Dev) (o : Nat) : Nat :=
  let m := d.tileMem (o / 0x100000)
  let rd (x : Rc) : Nat := (x.read d.time).1
  let x := o % 0x100000
  if x / 8 = 0x10000 / 8 then
    half o (packed [(48, rd m.canCe), (40, rd m.canUeClean), (32, rd m.canUeDirty), (24, rd m.canTagCe)])
  else if x / 8 = 0x20000 / 8 then half o (packed [(48, rd m.corr), (32, rd m.poisoned), (16, m.scrubs)])
  else if x / 8 = 0x20008 / 8 then half o (packed [(63, b2n m.eccAddrValid.bit), (6, m.eccSector)])
  else if x / 8 = 0x20018 / 8 then
    let t := o / 0x100000
    half o (packed [(63, b2n m.clearing.isSome),
      (32, (d.mem.repl.filter fun e => e.2.quarantined && e.1 / 0x10000 == t).length), (16, rd m.repairCnt),
      (0, m.quarLast)])
  else 0

/-- A release point of some group of the core waits (R305, R309). -/
def Core.relWait (k : Core) : Bool :=
  (k.slots.any fun g => g.2.stack.isEmpty || g.2.barriers.any fun b => match b with
    | .fence kind _ _ => kind != 0
    | _ => false)
    || (k.wb.any fun w => w.release.isSome && w.tag.isNone)
    || k.atoms.any fun a => 2 ≤ a.2.mark && !a.2.sent

/-- Writes of a core to other devices that await acknowledgement. -/
def Dev.remoteOut (d : Dev) (c : Nat) : Nat :=
  min 0x1FF (d.mem.reqs.filter fun r => r.2.dev.isSome && r.2.st != 2 && match r.2.org with
    | .drain k _ | .atom k _ => k == c
    | _ => false).length

/-- Why the slot last named in CORE_DBG_CTL is halted. -/
def Core.haltCode (k : Core) : Nat :=
  if k.dbgSlot = 48 then (if k.seq.st == 5 then k.seq.haltCode else 0)
  else match k.group? k.dbgSlot with
    | some g => if g.halted then g.haltCode else 0
    | none => 0

/-- CORE_ARR_STAT. -/
def Core.arrStat (k : Core) : Nat :=
  let psn (t : Nat) : Bool := (List.range 64).any fun r => (k.tileRow t r).pois
  packed [(16, k.block.fmt), (15, b2n k.block.pois), (14, b2n k.block.trans),
    (8, maskOf ((List.range 4).filter psn)), (0, if k.seq.st == 0 then 0 else k.frzLast)]

def Dev.coreWord (d : Dev) (o : Nat) : Nat :=
  let c := o / 0x1000
  let k := d.core c
  let f := k.flt
  let q := k.seq
  let x := o % 0x1000
  let rd (r : Rc) : Nat := (r.read d.time).1
  if x = 0x400 then
    packed [(24, (k.slots.filter fun g => g.2.halted).length), (16, (k.slots.filter fun g => g.2.latency).length),
      (8, min 0x3F k.waiting.length), (0, k.slots.length)]
  else if x = 0x410 then packed [(31, b2n f.valid.bit), (16, f.sub), (8, f.slot), (0, f.code)]
  else if x = 0x414 then packed [(16, f.cid), (8, rd f.more), (0, b2n f.compat)]
  else if x = 0x418 then packed [(16, f.resumePc % 65536), (0, f.pc % 65536)]
  else if x = 0x41C then f.lanes.toNat
  else if x / 8 = 0x420 / 8 then half o f.va
  else if x = 0x444 then packed [(16, k.dbgResult), (8, k.dbgSlot), (0, k.haltCode)]
  else if x / 8 = 0x448 / 8 then
    half o (packed [(48, b2n (q.st == 5)), (0, maskOf (tkeys (k.slots.filter fun g => g.2.halted)))])
  else if x = 0x450 then (k.dbgRsel &&& 0x1F3F07).toNat
  else if x = 0x454 then (d.dbgRead c).toNat
  else if x = 0x480 then
    packed [(16, q.pc % 65536), (12, maskOf (tkeys q.loops)), (6, b2n (q.st != 0 && q.compat)),
      (5, b2n (q.st != 0 && q.audit)), (0, k.seqState)]
  else if x / 8 = 0x488 / 8 then half o q.ac
  else if x = 0x490 then
    packed [(31, b2n k.auditValid.bit), (24, k.auditTile), (16, k.auditRow), (0, k.auditShort)]
  else if x = 0x4A0 then
    packed [(16, b2n k.halted), (8, rd k.imemBusy), (4, maskOf ((List.range 4).filter fun b => tget 0 k.locked b != 0)),
      (0, k.touchNow.toNat)]
  else if x = 0x4B0 then k.arrStat
  else if 0x4C0 ≤ x && x < 0x4E8 then half o (tget 0 k.frz ((x - 0x4C0) / 8 + 1))
  else if 0x500 ≤ x && x < 0x520 then
    half o (maskOf ((List.range 64).filter fun r => (k.tileRow ((x - 0x500) / 8) r).pois))
  else if x / 8 = 0x540 / 8 then half o k.seed.toNat
  else if x = 0x550 then
    packed [(24, rd k.resCnt), (23, b2n k.resValid.bit), (18, k.resTile), (12, k.resRow), (6, k.resCol), (2, k.resBlock),
      (1, b2n k.resPath)]
  else if x / 8 = 0x580 / 8 then
    half o (packed [(48, rd k.l1Ce), (40, rd k.l1Ue), (32, rd k.tagPar), (24, rd k.wbUe), (16, rd k.spadUe),
      (0, rd k.spadCe)])
  else if x = 0x5A0 then packed [(24, rd k.lost), (16, b2n k.relWait), (0, d.remoteOut c)]
  else if x = 0x5C0 then
    packed [(31, b2n (k.testDue && k.testSeg == 0 && !k.testing)), (16, k.watchMism), (8, k.clean), (0, k.health)]
  else if x / 8 = 0x5C8 / 8 then
    half o (packed [(48, rd k.chkSelected), (32, rd k.chkCompared), (16, rd k.chkSkipped), (8, rd k.chkMismatch),
      (6, d.selFrac c), (0, k.captures.length)])
  else 0

/-- The doorbell page of a queue: Q_PTR and Q_STAT. -/
def Dev.pageWord (d : Dev) (o : Nat) : Nat :=
  let x := d.ctx (o / 0x10000)
  let u := x.queue (o / 0x2000 % 8)
  match o % 0x2000 / 4 with
  | 2 => u.head.toNat
  | 3 => u.tail.toNat
  | 4 => packed [(24, (u.dbRej.read d.time).1), (3, b2n (x.live && x.slot.isNone && u.waits)), (2, b2n u.stalled),
      (1, b2n u.stopped), (0, b2n (x.exists_ && u.log2 != 0))]
  | _ => 0

/-- The MSI-X entries of a function: 64 for the PF, 31 for a VF (R348). -/
def msixCount (f : Fn) : Nat := if f = 0 then 64 else 31

def Dev.msixEntry (d : Dev) (f : Fn) (v : Nat) : BitVec 128 := tget ((1 : BitVec 128) <<< 96) (d.func f).msix v

/-- The word at an offset, for a function that reaches it; a place with no register reads 0 (R254, R347). -/
def Dev.word (d : Dev) (fn : Fn) (off : Nat) : Nat :=
  let f := regFn fn
  if !d.canRead fn off then 0
  else if off < stwBase then d.hubWord off
  else if off < plnBase then d.stwWord (off - stwBase)
  else if off < xlBase then d.plnWord (off - plnBase)
  else if off < brdBase then d.xlWord f (off - xlBase)
  else if off < pegBase then d.brdWord (off - brdBase)
  else if off < evrBase then (if off = pegBase + 8 then (d.func f).pegCode else 0)
  else if off < lanBase then d.evrWord (off - evrBase)
  else if off < bivRegBase then d.lanWord (off - lanBase)
  else if off < lnkBase then d.bivWord (off - bivRegBase)
  else if off < ctxBase then (if off < lnkBase + 0x10000 then d.lnkWord (off - lnkBase) else 0)
  else if off < ctxBase + 0x200000 then d.ctxWord f (off - ctxBase)
  else if off < tileBase then 0
  else if off < tileBase + 0x400000 then d.tileWord (off - tileBase)
  else if off < msixBase then 0
  else if off < msixBase + 16 * msixCount f then fld (d.msixEntry f ((off - msixBase) / 16)).toNat (8 * (off % 16)) 32
  else if off < pbaBase then 0
  else if off < pbaBase + 8 then half off (maskOf (d.func f).msixPend)
  else if off < coreBase then 0
  else if off < coreBase + 0x100000 then d.coreWord (off - coreBase)
  else if off < recovBase then 0
  else if off < bar2Base then
    (if d.boot.recovery && off < recovBase + 0x2000000 then planNat d.boot.recovWindow (off - recovBase) 4 else 0)
  else d.pageWord (off - bar2Base)

/-! ## What a read clears (R9, R11) -/

/-- A read in the cc `t` leaves only that cc's events. -/
def Rc.drain (t : Nat) (r : Rc) : Rc := (r.read t).2

def Dev.clearHub (d : Dev) (off : Nat) : Dev :=
  let r (x : Rc) : Rc := x.drain d.time
  if off = 0x44 then d.modPower fun p => { p with pcieUnlock := r p.pcieUnlock }
  else if 0x1000 ≤ off && off < 0x1800 then
    if off % 32 = 0x10 then d.modPitchCnt ((off - 0x1000) / 32) fun c => { c with pcs := { c.pcs with lost := r c.pcs.lost } }
    else d
  else if 0x2000 ≤ off && off < 0x6000 && off % 256 / 8 = 0x10 then
    let lo := off / 4 % 2 * 4
    d.modPitchCnt ((off - 0x2000) / 256) fun c => { c with
      watch := c.watch.map fun w => if lo ≤ w.1 && w.1 < lo + 4 then (w.1, { w.2 with hits := r w.2.hits }) else w }
  else d

def Dev.clearLnk (d : Dev) (o : Nat) : Dev :=
  let r (x : Rc) : Rc := x.drain d.time
  if 0x100 ≤ o && o < 0x400 then
    let n := (o - 0x100) / 64
    match o % 64 / 4 with
    | 1 => d.modPort n fun q => { q with retrains := r q.retrains, deaths := r q.deaths }
    | 2 => d.modPort n fun q => { q with authFail := r q.authFail, fecUncorr := r q.fecUncorr }
    | 3 => d.modPort n fun q => { q with fecCorr := r q.fecCorr, replay := r q.replay }
    | _ => d
  else if o = 0x800 then d.modFab fun f => { f with discard := r f.discard }
  else if o = 0x810 then d.modFab fun f => { f with hopDrop := r f.hopDrop, unreachSent := r f.unreachSent }
  else if o = 0x814 then d.modFab fun f => { f with refused := r f.refused, retrySent := r f.retrySent }
  else if o = 0x818 then d.modFab fun f => { f with noShare := r f.noShare }
  else d

def Dev.clearTile (d : Dev) (o : Nat) : Dev :=
  let r (x : Rc) : Rc := x.drain d.time
  let t := o / 0x100000
  match o % 0x100000 with
  | 0x10000 => d.modTileMem t fun m => { m with canTagCe := r m.canTagCe }
  | 0x10004 => d.modTileMem t fun m => { m with
      canCe := r m.canCe, canUeClean := r m.canUeClean, canUeDirty := r m.canUeDirty }
  | 0x20004 => d.modTileMem t fun m => { m with corr := r m.corr, poisoned := r m.poisoned }
  | 0x20018 => d.modTileMem t fun m => { m with repairCnt := r m.repairCnt }
  | _ => d

def Dev.clearCoreRc (d : Dev) (o : Nat) : Dev :=
  let r (x : Rc) : Rc := x.drain d.time
  let c := o / 0x1000
  match o % 0x1000 with
  | 0x414 => d.modCore c fun k => { k with flt := { k.flt with more := r k.flt.more } }
  | 0x4A0 => d.modCore c fun k => { k with imemBusy := r k.imemBusy }
  | 0x550 => d.modCore c fun k => { k with resCnt := r k.resCnt }
  | 0x580 => d.modCore c fun k => { k with wbUe := r k.wbUe, spadUe := r k.spadUe, spadCe := r k.spadCe }
  | 0x584 => d.modCore c fun k => { k with l1Ce := r k.l1Ce, l1Ue := r k.l1Ue, tagPar := r k.tagPar }
  | 0x5A0 => d.modCore c fun k => { k with lost := r k.lost }
  | 0x5C8 => d.modCore c fun k => { k with chkSkipped := r k.chkSkipped, chkMismatch := r k.chkMismatch }
  | 0x5CC => d.modCore c fun k => { k with chkSelected := r k.chkSelected, chkCompared := r k.chkCompared }
  | _ => d

/-- What a read of the word at an offset clears, for a function that reaches it. -/
def Dev.clearRc (d : Dev) (fn : Fn) (off : Nat) : Dev :=
  let r (x : Rc) : Rc := x.drain d.time
  if !d.canRead fn off then d
  else if off < stwBase then d.clearHub off
  else if off = stwBase + 0x200 then
    d.modChain fun c => { c with drop := r c.drop, foreign := r c.foreign, glitch := r c.glitch }
  else if off = evrBase then d.modRec fun x => { x with evicted := r x.evicted }
  else if off = evrBase + 4 then d.modRec fun x => { x with dropQ := r x.dropQ, dropFull := r x.dropFull }
  else if off = bivRegBase || off = bivRegBase + 0x20 then
    d.modBiv ((off - bivRegBase) / 32) fun b => { b with timeout := r b.timeout, poisonRx := r b.poisonRx }
  else if lnkBase ≤ off && off < lnkBase + 0x10000 then d.clearLnk (off - lnkBase)
  else if tileBase ≤ off && off < tileBase + 0x400000 then d.clearTile (off - tileBase)
  else if coreBase ≤ off && off < coreBase + 0x100000 then d.clearCoreRc (off - coreBase)
  else if bar2Base ≤ off && off % 0x2000 = 0x10 then
    d.modQueue ((off - bar2Base) / 0x10000) ((off - bar2Base) / 0x2000 % 8) fun u => { u with dbRej := r u.dbRej }
  else d

/-- The value that a read of 4 or 8 B returns. -/
def Dev.readReg (d : Dev) (fn : Fn) (off width : Nat) : Nat :=
  d.word fn off + (if width = 8 then d.word fn (off + 4) * 2 ^ 32 else 0)

/-- RC_READ (R9, R11): a register read; the answer leaves the device, and RC fields are cleared. -/
def execRcRead (fn : Fn) (off width : Nat) (s : State) : Host.Outcome State Fault Refusal :=
  let d := s.dev
  let v := d.readReg fn off width
  let d := d.clearRc fn off
  let d := if width = 8 then d.clearRc fn (off + 4) else d
  s.to (d.emit (.regData (BitVec.ofNat 64 v)))

/-! ## Writes (R9, R10) -/

/-- A 32-bit write to an MSI-X table entry. An entry that is no longer masked sends what was held for it. -/
def Dev.writeMsix (d : Dev) (f : Fn) (o v : Nat) : Dev :=
  let n := o / 16
  let sh := 8 * (o % 16)
  let v := if o % 16 = 12 then v % 2 else v
  let e := (d.msixEntry f n).toNat
  let e' := BitVec.ofNat 128 (e - fld e sh 32 * 2 ^ sh + v * 2 ^ sh)
  let d := d.modFunc f fun g => { g with msix := tset g.msix n e' }
  if !e'.getLsbD 96 && (d.func f).msixPend.contains n then
    (d.modFunc f fun g => { g with msixPend := g.msixPend.filter fun x => x != n }).msix f n
  else d

/-- A 32-bit write to a register that has no command of its own: W1C bits, CORE_DBG_RSEL, XL_GRAN_KIND, the MSI-X table and the
recovery window. Every other place ignores it (R9, R254, R347). -/
def Dev.writeWord (d : Dev) (fn : Fn) (off v : Nat) : Dev :=
  let t := d.time
  let f := regFn fn
  if !d.canRead fn off || !(d.reach fn || d.boot.recovery) then d
  else if coreBase ≤ off && off < coreBase + 0x100000 then
    let c := (off - coreBase) / 0x1000
    match off % 0x1000 with
    | 0x410 => if bit v 31 then d.modCore c fun k => { k with flt := { k.flt with valid := k.flt.valid.clear t } } else d
    | 0x490 => if bit v 31 then d.modCore c fun k => { k with auditValid := k.auditValid.clear t } else d
    | 0x450 => if d.reachDbg fn c then d.modCore c fun k => { k with dbgRsel := BitVec.ofNat 32 v } else d
    | 0x550 => if bit v 23 then d.modCore c fun k => { k with resValid := k.resValid.clear t } else d
    | _ => d
  else if tileBase ≤ off && off < tileBase + 0x400000 then
    if off % 0x100000 = 0x2000C && bit v 31 then
      d.modTileMem ((off - tileBase) / 0x100000) fun m => { m with eccAddrValid := m.eccAddrValid.clear t }
    else d
  else if xlBase + 0x100 ≤ off && off < xlBase + 0x140 then
    if isPf fn then d.modXl fun x => { x with
      granKind := tmod 0 x.granKind ((off - xlBase - 0x100) / 8) fun w => BitVec.ofNat 64 (putHalf w.toNat (off % 8 = 4) v) }
    else d
  else if msixBase ≤ off && off < msixBase + 16 * msixCount f then d.writeMsix f (off - msixBase) v
  else if recovBase ≤ off && off < recovBase + 0x2000000 && d.boot.recovery then
    d.modBoot fun b => { b with
      recovWindow := ((leBytes 4 v).zipIdx).foldl (fun w x => tput 0 w (off - recovBase + x.2) x.1) b.recovWindow }
  else d

/-- REG_WRITE (R9, R10). -/
def execRegWrite (fn : Fn) (off width : Nat) (v : W64) (s : State) : Host.Outcome State Fault Refusal :=
  let d := s.dev.writeWord fn off (v.toNat % 2 ^ 32)
  s.to (if width = 8 then d.writeWord fn (off + 4) (v.toNat / 2 ^ 32) else d)

/-- A function reaches a 64-bit command register: the PF and the steward each, a VF its own XL_CMD and PEG_CMD. -/
def Dev.reachCmd (d : Dev) (fn : Fn) (r : CmdReg) : Bool :=
  d.reach fn && (isPf fn || match r with | .xl | .peg => true | _ => false)

/-- CMD_HALF_WRITE (R538): bits [31:0] are held for the writing function. -/
def execCmdHalfWrite (fn : Fn) (reg : CmdReg) (lo : W32) (s : State) : Host.Outcome State Fault Refusal :=
  let d := s.dev
  s.to (
    if !d.reachCmd fn reg then d
    else d.modFunc fn fun f => { f with held := tset f.held (cmdRegIdx reg) lo })

/-- IFVER_SEL_WRITE (R22, R24, R25, R65). A context made resident later in the same cc undoes it (`Dev.keepIfver`). -/
def execIfverSelWrite (fn : Fn) (v : W32) (s : State) : Host.Outcome State Fault Refusal :=
  let d := s.dev
  let sel : W16 := v.truncate 16
  s.to (
    if !d.reachPf fn || !d.fullService || d.host.ctxs.any fun x => x.2.slot.isSome then d
    else d.modHost fun h => { h with
      ifverSel := sel, accepted := sel == 0x100, refused := sel != 0x100
      ifverBefore := match h.ifverBefore with
        | some b => if b.1 = d.time then some b else some (d.time, h.ifverSel, h.accepted, h.refused)
        | none => some (d.time, h.ifverSel, h.accepted, h.refused) })

end Sys2Proof.Machine
end

