-- ==== Sys2Proof/Machine/Dispatch.lean ====
section
/-!
DEFINITION. The dispatch of a command to its meaning: one arm for each constructor of `Instr`, in the order of
spec/opcode_table.json.
-/

namespace Sys2Proof.Machine
open Sys2Proof

def exec (i : Instr) (s : State) : Host.Outcome State Fault Refusal :=
  match i with
  | .regWrite fn off width v => Sys2Proof.Machine.execRegWrite fn off width v s
  | .rcRead fn off width => Sys2Proof.Machine.execRcRead fn off width s
  | .cmdHalfWrite fn reg lo => Sys2Proof.Machine.execCmdHalfWrite fn reg lo s
  | .ifverSelWrite fn v => Sys2Proof.Machine.execIfverSelWrite fn v s
  | .pwrEnAssert => Sys2Proof.Machine.execPwrEnAssert s
  | .railRegulated => Sys2Proof.Machine.execRailRegulated s
  | .pwrEnDeassert => Sys2Proof.Machine.execPwrEnDeassert s
  | .vinLoss => Sys2Proof.Machine.execVinLoss s
  | .railFault => Sys2Proof.Machine.execRailFault s
  | .thermTrip => Sys2Proof.Machine.execThermTrip s
  | .tempWarning die celsius => Sys2Proof.Machine.execTempWarning die celsius s
  | .porRelease straps mid => Sys2Proof.Machine.execPorRelease straps mid s
  | .strapOutputEnable => Sys2Proof.Machine.execStrapOutputEnable s
  | .mainPllUnlock => Sys2Proof.Machine.execMainPllUnlock s
  | .pciePllUnlock => Sys2Proof.Machine.execPciePllUnlock s
  | .pciePllRelock => Sys2Proof.Machine.execPciePllRelock s
  | .perstAssert => Sys2Proof.Machine.execPerstAssert s
  | .perstDeassert => Sys2Proof.Machine.execPerstDeassert s
  | .configRequest fn off => Sys2Proof.Machine.execConfigRequest fn off s
  | .vfEnableWrite v => Sys2Proof.Machine.execVfEnableWrite v s
  | .chnInHigh => Sys2Proof.Machine.execChnInHigh s
  | .headTokenStart => Sys2Proof.Machine.execHeadTokenStart s
  | .chnPulseRx widthNs => Sys2Proof.Machine.execChnPulseRx widthNs s
  | .levelFault => Sys2Proof.Machine.execLevelFault s
  | .tokenFrameRx f => Sys2Proof.Machine.execTokenFrameRx f s
  | .tokenSend => Sys2Proof.Machine.execTokenSend s
  | .enumTimeout => Sys2Proof.Machine.execEnumTimeout s
  | .sideFrameRx f => Sys2Proof.Machine.execSideFrameRx f s
  | .faultFrameRx f => Sys2Proof.Machine.execFaultFrameRx f s
  | .downFrameRx f => Sys2Proof.Machine.execDownFrameRx f s
  | .chnFrameSend => Sys2Proof.Machine.execChnFrameSend s
  | .chnBufferedForward => Sys2Proof.Machine.execChnBufferedForward s
  | .chnHeartbeatSend => Sys2Proof.Machine.execChnHeartbeatSend s
  | .upstreamLost => Sys2Proof.Machine.execUpstreamLost s
  | .upLostClear => Sys2Proof.Machine.execUpLostClear s
  | .serviceTimeout => Sys2Proof.Machine.execServiceTimeout s
  | .stewardRom flashAnswers => Sys2Proof.Machine.execStewardRom flashAnswers s
  | .firmwareImage flashAnswers => Sys2Proof.Machine.execFirmwareImage flashAnswers s
  | .measuredBoot => Sys2Proof.Machine.execMeasuredBoot s
  | .sramRepairBist r => Sys2Proof.Machine.execSramRepairBist r s
  | .ageingMarginReplan readings => Sys2Proof.Machine.execAgeingMarginReplan readings s
  | .linkTraining ports biv => Sys2Proof.Machine.execLinkTraining ports biv s
  | .sitePlanLoad readable => Sys2Proof.Machine.execSitePlanLoad readable s
  | .hostVisible => Sys2Proof.Machine.execHostVisible s
  | .stwRecovGo fn v => Sys2Proof.Machine.execStwRecovGo fn v s
  | .recovCheckDone => Sys2Proof.Machine.execRecovCheckDone s
  | .recovProgramDone => Sys2Proof.Machine.execRecovProgramDone s
  | .ageingRemeasure readings => Sys2Proof.Machine.execAgeingRemeasure readings s
  | .plnStageWrite fn off width v => Sys2Proof.Machine.execPlnStageWrite fn off width v s
  | .plnCommit fn v => Sys2Proof.Machine.execPlnCommit fn v s
  | .stagedWrite fn off width v => Sys2Proof.Machine.execStagedWrite fn off width v s
  | .rangeTableCommit fn cid v => Sys2Proof.Machine.execRangeTableCommit fn cid v s
  | .queueRingCommit fn cid q v => Sys2Proof.Machine.execQueueRingCommit fn cid q v s
  | .edgeSpillCommit fn cid v => Sys2Proof.Machine.execEdgeSpillCommit fn cid v s
  | .roundingSeedCommit fn core v => Sys2Proof.Machine.execRoundingSeedCommit fn core v s
  | .pcSamplesCommit fn pitch v => Sys2Proof.Machine.execPcSamplesCommit fn pitch v s
  | .watchpointCommit fn pitch n v => Sys2Proof.Machine.execWatchpointCommit fn pitch n v s
  | .counterCommit fn pitch n v => Sys2Proof.Machine.execCounterCommit fn pitch n v s
  | .linkKeyLoad fn port v => Sys2Proof.Machine.execLinkKeyLoad fn port v s
  | .linkKeyUse fn port v => Sys2Proof.Machine.execLinkKeyUse fn port v s
  | .linkKeyModeSet fn port v => Sys2Proof.Machine.execLinkKeyModeSet fn port v s
  | .recorderWindowCommit fn v => Sys2Proof.Machine.execRecorderWindowCommit fn v s
  | .evrScanDone => Sys2Proof.Machine.execEvrScanDone s
  | .groupPlace core => Sys2Proof.Machine.execGroupPlace core s
  | .groupEnd core slot => Sys2Proof.Machine.execGroupEnd core slot s
  | .resultWriteback core slot => Sys2Proof.Machine.execResultWriteback core slot s
  | .nop core slot => Sys2Proof.Machine.execNop core slot s
  | .mov core slot => Sys2Proof.Machine.execMov core slot s
  | .movi core slot => Sys2Proof.Machine.execMovi core slot s
  | .sel core slot => Sys2Proof.Machine.execSel core slot s
  | .iadd core slot => Sys2Proof.Machine.execIadd core slot s
  | .isub core slot => Sys2Proof.Machine.execIsub core slot s
  | .imul core slot => Sys2Proof.Machine.execImul core slot s
  | .imulh core slot => Sys2Proof.Machine.execImulh core slot s
  | .imad core slot => Sys2Proof.Machine.execImad core slot s
  | .imin core slot => Sys2Proof.Machine.execImin core slot s
  | .imax core slot => Sys2Proof.Machine.execImax core slot s
  | .and core slot => Sys2Proof.Machine.execAnd core slot s
  | .or core slot => Sys2Proof.Machine.execOr core slot s
  | .xor core slot => Sys2Proof.Machine.execXor core slot s
  | .shl core slot => Sys2Proof.Machine.execShl core slot s
  | .shr core slot => Sys2Proof.Machine.execShr core slot s
  | .sar core slot => Sys2Proof.Machine.execSar core slot s
  | .fadd core slot => Sys2Proof.Machine.execFadd core slot s
  | .fmul core slot => Sys2Proof.Machine.execFmul core slot s
  | .ffma core slot => Sys2Proof.Machine.execFfma core slot s
  | .fmin core slot => Sys2Proof.Machine.execFmin core slot s
  | .fmax core slot => Sys2Proof.Machine.execFmax core slot s
  | .isetp core slot => Sys2Proof.Machine.execIsetp core slot s
  | .fsetp core slot => Sys2Proof.Machine.execFsetp core slot s
  | .plop core slot => Sys2Proof.Machine.execPlop core slot s
  | .cvt core slot => Sys2Proof.Machine.execCvt core slot s
  | .sfn core slot => Sys2Proof.Machine.execSfn core slot s
  | .ballot core slot => Sys2Proof.Machine.execBallot core slot s
  | .bcast core slot => Sys2Proof.Machine.execBcast core slot s
  | .shfl core slot => Sys2Proof.Machine.execShfl core slot s
  | .bra core slot => Sys2Proof.Machine.execBra core slot s
  | .brx core slot => Sys2Proof.Machine.execBrx core slot s
  | .exit core slot => Sys2Proof.Machine.execExit core slot s
  | .ld core slot ecc => Sys2Proof.Machine.execLd core slot ecc s
  | .st core slot => Sys2Proof.Machine.execSt core slot s
  | .atom core slot => Sys2Proof.Machine.execAtom core slot s
  | .pf core slot => Sys2Proof.Machine.execPf core slot s
  | .l1inv core slot => Sys2Proof.Machine.execL1inv core slot s
  | .fence core slot => Sys2Proof.Machine.execFence core slot s
  | .flgset core slot => Sys2Proof.Machine.execFlgset core slot s
  | .flgwait core slot => Sys2Proof.Machine.execFlgwait core slot s
  | .flgrd core slot => Sys2Proof.Machine.execFlgrd core slot s
  | .loadDataReturn core tag => Sys2Proof.Machine.execLoadDataReturn core tag s
  | .atomReturn core tag => Sys2Proof.Machine.execAtomReturn core tag s
  | .groupLivelock core slot => Sys2Proof.Machine.execGroupLivelock core slot s
  | .flgwaitSatisfied core slot => Sys2Proof.Machine.execFlgwaitSatisfied core slot s
  | .fenceComplete core slot => Sys2Proof.Machine.execFenceComplete core slot s
  | .releaseSend core slot => Sys2Proof.Machine.execReleaseSend core slot s
  | .wbEntryTimeout core entry ecc => Sys2Proof.Machine.execWbEntryTimeout core entry ecc s
  | .wbDrainAck core entry => Sys2Proof.Machine.execWbDrainAck core entry s
  | .dbgSelect fn core v => Sys2Proof.Machine.execDbgSelect fn core v s
  | .dbgStep fn core v => Sys2Proof.Machine.execDbgStep fn core v s
  | .dbgResume fn core v => Sys2Proof.Machine.execDbgResume fn core v s
  | .dbgKill fn core v => Sys2Proof.Machine.execDbgKill fn core v s
  | .dbgStepEnd core slot => Sys2Proof.Machine.execDbgStepEnd core slot s
  | .dbgRdataWrite fn core v => Sys2Proof.Machine.execDbgRdataWrite fn core v s
  | .ctxFlagsWrite fn cid v => Sys2Proof.Machine.execCtxFlagsWrite fn cid v s
  | .arrayProgramStart core => Sys2Proof.Machine.execArrayProgramStart core s
  | .seqNop core => Sys2Proof.Machine.execSeqNop core s
  | .wait core => Sys2Proof.Machine.execWait core s
  | .waitExpiry core => Sys2Proof.Machine.execWaitExpiry core s
  | .setb core => Sys2Proof.Machine.execSetb core s
  | .addb core => Sys2Proof.Machine.execAddb core s
  | .loop core => Sys2Proof.Machine.execLoop core s
  | .ldw core => Sys2Proof.Machine.execLdw core s
  | .ldwt core => Sys2Proof.Machine.execLdwt core s
  | .stationaryLoadDone core => Sys2Proof.Machine.execStationaryLoadDone core s
  | .pass core => Sys2Proof.Machine.execPass core s
  | .passRowEnter core seen => Sys2Proof.Machine.execPassRowEnter core seen s
  | .passRowWrite core upsets => Sys2Proof.Machine.execPassRowWrite core upsets s
  | .aclr core => Sys2Proof.Machine.execAclr core s
  | .adrn core => Sys2Proof.Machine.execAdrn core s
  | .convertedRowWrite core => Sys2Proof.Machine.execConvertedRowWrite core s
  | .setf core => Sys2Proof.Machine.execSetf core s
  | .waitf core => Sys2Proof.Machine.execWaitf core s
  | .waitfSatisfied core => Sys2Proof.Machine.execWaitfSatisfied core s
  | .seqUnitFree core => Sys2Proof.Machine.execSeqUnitFree core s
  | .end_ core => Sys2Proof.Machine.execEnd core s
  | .programComplete core => Sys2Proof.Machine.execProgramComplete core s
  | .portReadDone line err0 err1 => Sys2Proof.Machine.execPortReadDone line err0 err1 s
  | .sectorRewrite tile => Sys2Proof.Machine.execSectorRewrite tile s
  | .patrolScrub tile err => Sys2Proof.Machine.execPatrolScrub tile err s
  | .homeRead tag ecc => Sys2Proof.Machine.execHomeRead tag ecc s
  | .homeWrite tag => Sys2Proof.Machine.execHomeWrite tag s
  | .homeAtomic tag => Sys2Proof.Machine.execHomeAtomic tag s
  | .homeAddWrite tag => Sys2Proof.Machine.execHomeAddWrite tag s
  | .homePegSignal tag => Sys2Proof.Machine.execHomePegSignal tag s
  | .bivResponse line pois0 pois1 => Sys2Proof.Machine.execBivResponse line pois0 pois1 s
  | .bivPortTimeout port => Sys2Proof.Machine.execBivPortTimeout port s
  | .map fn w => Sys2Proof.Machine.execMap fn w s
  | .inval fn w => Sys2Proof.Machine.execInval fn w s
  | .invalDrainDone fn => Sys2Proof.Machine.execInvalDrainDone fn s
  | .rangeWalkRead walk => Sys2Proof.Machine.execRangeWalkRead walk s
  | .pfFlr => Sys2Proof.Machine.execPfFlr s
  | .vfFlr vf => Sys2Proof.Machine.execVfFlr vf s
  | .bar4Resize fn log2 => Sys2Proof.Machine.execBar4Resize fn log2 s
  | .bar4WinWrite fn v => Sys2Proof.Machine.execBar4WinWrite fn v s
  | .bar4Read fn off len => Sys2Proof.Machine.execBar4Read fn off len s
  | .bar4Write fn off data ep => Sys2Proof.Machine.execBar4Write fn off data ep s
  | .create fn v => Sys2Proof.Machine.execCreate fn v s
  | .destroy fn v => Sys2Proof.Machine.execDestroy fn v s
  | .teardownDrainEnd cid => Sys2Proof.Machine.execTeardownDrainEnd cid s
  | .pageZeroised page => Sys2Proof.Machine.execPageZeroised page s
  | .contextEvict pitch => Sys2Proof.Machine.execContextEvict pitch s
  | .contextLoad pitch => Sys2Proof.Machine.execContextLoad pitch s
  | .queueDoorbell fn cid q tail => Sys2Proof.Machine.execQueueDoorbell fn cid q tail s
  | .queueSlotRead cid q cmd => Sys2Proof.Machine.execQueueSlotRead cid q cmd s
  | .nopCmd cid q => Sys2Proof.Machine.execNopCmd cid q s
  | .graphCmd cid q => Sys2Proof.Machine.execGraphCmd cid q s
  | .kernelCmd cid q => Sys2Proof.Machine.execKernelCmd cid q s
  | .copyCmd cid q => Sys2Proof.Machine.execCopyCmd cid q s
  | .remoteCmd cid q => Sys2Proof.Machine.execRemoteCmd cid q s
  | .pegSignalCmd cid q => Sys2Proof.Machine.execPegSignalCmd cid q s
  | .pegWaitCmd cid q => Sys2Proof.Machine.execPegWaitCmd cid q s
  | .hostNotifyCmd cid q => Sys2Proof.Machine.execHostNotifyCmd cid q s
  | .pegWaitQueuePoll cid q => Sys2Proof.Machine.execPegWaitQueuePoll cid q s
  | .pegRegister fn w => Sys2Proof.Machine.execPegRegister fn w s
  | .pegWithdraw fn w => Sys2Proof.Machine.execPegWithdraw fn w s
  | .contextQuery fn v => Sys2Proof.Machine.execContextQuery fn v s
  | .queryComplete fn => Sys2Proof.Machine.execQueryComplete fn s
  | .nodeAdmit pitch => Sys2Proof.Machine.execNodeAdmit pitch s
  | .kernelNodeDispatch pitch => Sys2Proof.Machine.execKernelNodeDispatch pitch s
  | .copyNodeDispatch pitch => Sys2Proof.Machine.execCopyNodeDispatch pitch s
  | .remoteNodeDispatch pitch => Sys2Proof.Machine.execRemoteNodeDispatch pitch s
  | .pegSignalNodeDispatch pitch => Sys2Proof.Machine.execPegSignalNodeDispatch pitch s
  | .hostNotifyNodeDispatch pitch => Sys2Proof.Machine.execHostNotifyNodeDispatch pitch s
  | .pegWaitNodePoll pitch => Sys2Proof.Machine.execPegWaitNodePoll pitch s
  | .kernelNodeComplete node => Sys2Proof.Machine.execKernelNodeComplete node s
  | .descriptorBegin engine => Sys2Proof.Machine.execDescriptorBegin engine s
  | .dmaChunk engine seen => Sys2Proof.Machine.execDmaChunk engine seen s
  | .orderedSignalSend engine => Sys2Proof.Machine.execOrderedSignalSend engine s
  | .descriptorComplete desc => Sys2Proof.Machine.execDescriptorComplete desc s
  | .flitRx port f => Sys2Proof.Machine.execFlitRx port f s
  | .packetTransit port => Sys2Proof.Machine.execPacketTransit port s
  | .readRx port => Sys2Proof.Machine.execReadRx port s
  | .readRespRx port => Sys2Proof.Machine.execReadRespRx port s
  | .writeRx port => Sys2Proof.Machine.execWriteRx port s
  | .writeFinalRx port => Sys2Proof.Machine.execWriteFinalRx port s
  | .addRx port => Sys2Proof.Machine.execAddRx port s
  | .addFinalRx port => Sys2Proof.Machine.execAddFinalRx port s
  | .signalRx port => Sys2Proof.Machine.execSignalRx port s
  | .ackRx port => Sys2Proof.Machine.execAckRx port s
  | .retryResend tag => Sys2Proof.Machine.execRetryResend tag s
  | .unreachRx port => Sys2Proof.Machine.execUnreachRx port s
  | .holdRx port => Sys2Proof.Machine.execHoldRx port s
  | .echoRx port => Sys2Proof.Machine.execEchoRx port s
  | .echoReplyRx port => Sys2Proof.Machine.execEchoReplyRx port s
  | .seqQueryRx port => Sys2Proof.Machine.execSeqQueryRx port s
  | .seqReplyRx port => Sys2Proof.Machine.execSeqReplyRx port s
  | .keyCheckRx port => Sys2Proof.Machine.execKeyCheckRx port s
  | .holdSend tag => Sys2Proof.Machine.execHoldSend tag s
  | .echoSend dev => Sys2Proof.Machine.execEchoSend dev s
  | .unreachTimeout dev => Sys2Proof.Machine.execUnreachTimeout dev s
  | .unreachClear fn k v => Sys2Proof.Machine.execUnreachClear fn k v s
  | .laneAlarm port lane => Sys2Proof.Machine.execLaneAlarm port lane s
  | .flitLossTimeout port => Sys2Proof.Machine.execFlitLossTimeout port s
  | .retrainEnd port r => Sys2Proof.Machine.execRetrainEnd port r s
  | .deadPortRetry port => Sys2Proof.Machine.execDeadPortRetry port s
  | .pitchSave fn v => Sys2Proof.Machine.execPitchSave fn v s
  | .pitchRestore fn v => Sys2Proof.Machine.execPitchRestore fn v s
  | .saveComplete => Sys2Proof.Machine.execSaveComplete s
  | .restoreComplete => Sys2Proof.Machine.execRestoreComplete s
  | .carriedReply core tag => Sys2Proof.Machine.execCarriedReply core tag s
  | .repairComplete tile => Sys2Proof.Machine.execRepairComplete tile s
  | .repairTimeout tile => Sys2Proof.Machine.execRepairTimeout tile s
  | .quarantineClear fn tile v => Sys2Proof.Machine.execQuarantineClear fn tile v s
  | .stewardWatchdog => Sys2Proof.Machine.execStewardWatchdog s
  | .stewardRestartDone => Sys2Proof.Machine.execStewardRestartDone s
  | .partnerCheck core => Sys2Proof.Machine.execPartnerCheck core s
  | .checkCompare core err => Sys2Proof.Machine.execCheckCompare core err s
  | .diceTestDue core => Sys2Proof.Machine.execDiceTestDue core s
  | .diceSegmentStart core => Sys2Proof.Machine.execDiceSegmentStart core s
  | .diceSegmentEnd core pass => Sys2Proof.Machine.execDiceSegmentEnd core pass s
  | .diceSegmentAbandon core => Sys2Proof.Machine.execDiceSegmentAbandon core s
  | .packGo fn w => Sys2Proof.Machine.execPackGo fn w s
  | .packVerifyDone => Sys2Proof.Machine.execPackVerifyDone s
  | .dbgUnlock fn w => Sys2Proof.Machine.execDbgUnlock fn w s
  | .tokenVerifyDone nonce => Sys2Proof.Machine.execTokenVerifyDone nonce s
  | .dbgRelock fn w => Sys2Proof.Machine.execDbgRelock fn w s
  | .eventApply => Sys2Proof.Machine.execEventApply s
  | .evrClear fn v => Sys2Proof.Machine.execEvrClear fn v s
  | .pcSample pitch => Sys2Proof.Machine.execPcSample pitch s
  | .powerCapWindow est => Sys2Proof.Machine.execPowerCapWindow est s
  | .setEndpointId eid => Sys2Proof.Machine.execSetEndpointId eid s
  | .pldmDiscovery cmd => Sys2Proof.Machine.execPldmDiscovery cmd s
  | .pldmSensorRead id reading => Sys2Proof.Machine.execPldmSensorRead id reading s
  | .pldmEffecterSet id watts => Sys2Proof.Machine.execPldmEffecterSet id watts s
  | .pldmFwUpdate component image => Sys2Proof.Machine.execPldmFwUpdate component image s
  | .getVersion p => Sys2Proof.Machine.execGetVersion p s
  | .getCapabilities p => Sys2Proof.Machine.execGetCapabilities p s
  | .negotiateAlgorithms p offered => Sys2Proof.Machine.execNegotiateAlgorithms p offered s
  | .getDigests p => Sys2Proof.Machine.execGetDigests p s
  | .getCertificate p slot off len => Sys2Proof.Machine.execGetCertificate p slot off len s
  | .challenge p slot req => Sys2Proof.Machine.execChallenge p slot req s
  | .getMeasurements p index signed req => Sys2Proof.Machine.execGetMeasurements p index signed req s
  | .keyExchange p req => Sys2Proof.Machine.execKeyExchange p req s
  | .finish p session req => Sys2Proof.Machine.execFinish p session req s
  | .keyUpdate p session => Sys2Proof.Machine.execKeyUpdate p session s
  | .spdmHeartbeat p session => Sys2Proof.Machine.execSpdmHeartbeat p session s
  | .endSession p session => Sys2Proof.Machine.execEndSession p session s
  | .getPqSig p off len => Sys2Proof.Machine.execGetPqSig p off len s
  | .getPqCert p off len => Sys2Proof.Machine.execGetPqCert p off len s
  | .getChainFp p first => Sys2Proof.Machine.execGetChainFp p first s
  | .spdmUnsupported p code => Sys2Proof.Machine.execSpdmUnsupported p code s
  | .planCommitEnd => Sys2Proof.Machine.execPlanCommitEnd s
  | .quarantineClearDone tile => Sys2Proof.Machine.execQuarantineClearDone tile s
  | .pcieLinkL0 => Sys2Proof.Machine.execPcieLinkL0 s
  | .scratchpadBankAccess core bank ecc => Sys2Proof.Machine.execScratchpadBankAccess core bank ecc s
  | .flitSlot port => Sys2Proof.Machine.execFlitSlot port s
  | .stewardStop => Sys2Proof.Machine.execStewardStop s
  | .atsInvalidateRequest fn itag => Sys2Proof.Machine.execAtsInvalidateRequest fn itag s
  | .doeDiscovery index => Sys2Proof.Machine.execDoeDiscovery index s
  | .ideKeyManagement p session req => Sys2Proof.Machine.execIdeKeyManagement p session req s

end Sys2Proof.Machine
end

