-- ==== Sys2Proof/Safety.lean ====
section
/-!
DEFINITION. The terms in which the statements speak: what it means that a command answers a next state, that a core
issues an instruction for a group or for its array sequencer, and the invariants of the module.
-/

namespace Sys2Proof.Machine
open Sys2Proof

/-- The command answers a next state: the module becomes `d`, and the waiting commands stay as they are. -/
def Gives (c : Instr) (s : State) (d : Dev) : Prop := exec c s = .next { s with dev := d }

/-- The command answers a next state whose module satisfies `P`, and the waiting commands stay as they are. -/
def Leads (c : Instr) (s : State) (P : Dev → Prop) : Prop := ∃ d, Gives c s d ∧ P d

/-- The command commits a staged pair: the pair waits for the end of the cc, and the module in which it is live then
satisfies `P` (R114). -/
def Commits (c : Instr) (s : State) (p : Pair) (P : Dev → Prop) : Prop :=
  Gives c s { s.dev with due := s.dev.due ++ [p] } ∧ P (s.dev.applyPair p)

/-- No command of the cc goes before this one, and none of them waits (R354). -/
def Unheld (c : Instr) (s : State) : Prop := s.dev.host.later = [] ∧ s.dev.waitsBehind c s.pending = false

/-! ## Losses of power and of the host -/

/-- `d'` is the module of `d` after its rails fell (R32, R33), the last in R30's order first: the flash keeps at least
everything beyond the firmware slot, fuses and trim record stay, the pins keep their levels, and every other part is as
after power-on. -/
def Dark (d d' : Dev) : Prop :=
  d'.power.railsUp = 0
  ∧ d'.power.falling = d.power.falling ++ (List.range (d.power.railsUp + b2n d.power.raising)).reverse
  ∧ d'.power.raising = false ∧ d'.power.pwrGood = false ∧ d'.power.porReleased = false
  ∧ d'.power.mainLock = false ∧ d'.power.pcieL0 = false ∧ d'.power.perstLow = d.power.perstLow
  ∧ d'.cores = [] ∧ d'.mem = {} ∧ d'.xl = {} ∧ d'.host = {} ∧ d'.board = {} ∧ d'.fab = {} ∧ d'.recorder = {}
  ∧ d'.cnt = [] ∧ d'.plan = {} ∧ d'.sec = {} ∧ d'.due = []
  ∧ d'.chain = { chnInHigh := d.chain.chnInHigh, chnInHighAt := d.chain.chnInHighAt } ∧ d'.boot.stage = 0 ∧ d'.boot.revoked = d.boot.revoked
  ∧ d'.boot.svnFuse = d.boot.svnFuse ∧ d'.boot.trimMv = d.boot.trimMv ∧ d'.boot.trimRetired = d.boot.trimRetired
  ∧ (∀ a, flashImageLen ≤ a → (∀ x ∈ d.boot.flash, x.1 = a → x ∈ d'.boot.flash))
  ∧ (d.boot.recovState ≠ 2 → d'.boot.flash = d.boot.flash) ∧ d'.time = d.time ∧ d'.out = d.out

/-- The host port is at its reset values (R62, R345). -/
def HostPortReset (d : Dev) : Prop :=
  d.host.vfEnable = false ∧ d.host.ifverSel = 0 ∧ d.host.accepted = false ∧ d.host.bar4Win = 0 ∧ d.host.hostHeld = []
  ∧ ∀ f, (d.func f).bar4Log2 = 28 ∧ (d.func f).msix = [] ∧ (d.func f).msixPend = []

/-! ## Issue -/

/-- The core issues, in this cc and for the group in a slot, an instruction of opcode `op` that is assigned and consumes
no poison (R124 to R127, R160). -/
def Issues (d : Dev) (core slot op : Nat) (g : Group) (i : TgInst) : Prop :=
  d.chosen core = some slot ∧ d.group? core slot = some g ∧ i = parseTg (d.fetchWord core g.pc)
    ∧ tgOp? (d.fetchWord core g.pc) = some op ∧ tgAssigned (d.fetchWord core g.pc) = true ∧ g.consumes i = []

/-- What the issue of an instruction with the given results leaves (R126, R129): the results are due after the opcode's
latency and their registers are not ready until then; the group goes on at the next word; registers, memory, other
groups, other cores and the rest of the module but the counters stay. -/
def Retires (d d' : Dev) (core slot : Nat) (g : Group) (i : TgInst) (vals : List RegVal) : Prop :=
  (∃ g', d'.group? core slot = some g'
    ∧ g'.stack = popStack (setTopPc (g.pc + 8) g.stack) ∧ g'.fetchAt = d.time + 1
    ∧ g'.pend = (if i.dests = [] then g.pend
        else g.pend ++ [{ vals := vals, dests := i.dests, due := d.time + tgLatency i.op }])
    ∧ g'.notReady = g.notReady ++ i.dests
    ∧ g'.treg = g.treg ∧ g'.sreg = g.sreg ∧ g'.preg = g.preg ∧ g'.tpois = g.tpois ∧ g'.spois = g.spois
    ∧ g'.ppois = g.ppois ∧ g'.accs = g.accs ∧ g'.barriers = g.barriers)
  ∧ (d'.core core).lastIssue = some d.time
  ∧ (∀ n, n ≠ slot → d'.group? core n = d.group? core n) ∧ (∀ c, c ≠ core → d'.core c = d.core c)
  ∧ d'.mem = d.mem ∧ d'.power = d.power ∧ d'.chain = d.chain ∧ d'.boot = d.boot ∧ d'.sec = d.sec ∧ d'.plan = d.plan
  ∧ d'.xl = d.xl ∧ d'.board = d.board ∧ d'.fab = d.fab ∧ d'.recorder = d.recorder ∧ d'.out = d.out

/-- The sequencer of a core issues, in this ac, the instruction word `w` of opcode `op`: it is assigned and its unit is
free (R175, R181, R183). -/
def SeqIssues (d : Dev) (core op w : Nat) : Prop :=
  let q := (d.core core).seq
  d.seqMay core = true ∧ w = d.fetchWord core q.pc ∧ seqOp? w = some op ∧ seqWordOk q.pc w = true ∧ q.unitFree w = true

/-- The module in which the sequencer's fetch has touched its bank (R195). -/
def fetched (d : Dev) (core : Nat) : Dev := d.modCore core fun k => k.touch k.seq.pc

/-- The sequencer that an issue takes from `q` to `q'`: where the PC moves, the next word is fetched in this ac (R158). -/
def Seq.issued (q q' : Seq) (t : Nat) : Seq := if q'.pc = q.pc then q' else { q' with issuedAt := some t }

/-- What a read meets of the codes of its units can be corrected (R256). -/
def Mild (seen : EccSeen) : Prop := ∀ x ∈ seen, x.2 ≠ .uncorrectable

/-- The banks grant the array's access `key` all the units it needs in this cc (R255, R257). -/
def Granted (d : Dev) (core cls key : Nat) (us : List Nat) : Prop := (d.takeUnits core cls key us).2 = true

/-- Every lane of a memory instruction is aligned, its address is in the core's range cache with the right that the
instruction needs, and its bytes lie in one 128 B line; no watchpoint is set, and no request is outstanding. -/
def InLine (d : Dev) (core : Nat) (g : Group) (i : TgInst) (line : Nat) (pa : Nat → Nat) : Prop :=
  let pitch := (d.pitchOfCore core).getD 64
  g.memLanes i ≠ [] ∧ (d.pitchCnt pitch).watch = [] ∧ d.mem.reqs = [] ∧ ∀ l ∈ g.memLanes i,
    g.laneVa i l % i.accBytes = 0 ∧ pa l / 128 = line ∧ (pa l + i.accBytes - 1) / 128 = line
    ∧ ∃ e, d.cacheGet (tileOf core) pitch g.cid (g.laneVa i l) = some e ∧ d.allowed i e (g.laneVa i l) = true
      ∧ d.direct (e.target (g.laneVa i l)) = pa l

/-- The line is stacked or bivouac memory of this device. -/
def HomeLine (d : Dev) (line : Nat) : Prop :=
  d.isLocal (line * 128) = true ∧ (regionOf (localOf (line * 128))).cached = true

/-! ## Invariants -/

/-- The order in which power, clocks and the PCIe link come up (R30, R32, R37, R38, R58): what has come up stands on
what came up before it. -/
def PowerOrder (p : Power) : Prop :=
  p.railsUp ≤ 5 ∧ (p.pwrGood = true → p.pwrEn = true ∧ p.railsUp = 5 ∧ p.raising = false) ∧ (p.porReleased = true → p.pwrGood = true)
  ∧ (p.outEn = true → p.porReleased = true) ∧ (p.mainLock = true → p.porReleased = true)
  ∧ (p.pcieL0 = true → p.pcieLock = true ∧ p.perstLow = false)

/-- VDD_CORE and the trim record's setting lie on the grid of R76 and R77. -/
def TrimRange (d : Dev) : Prop :=
  (680 ≤ d.power.vddCoreMv ∧ d.power.vddCoreMv ≤ 800 ∧ 5 ∣ d.power.vddCoreMv)
  ∧ ∀ mv, d.boot.trimMv = some mv → 680 ≤ mv ∧ mv ≤ 800 ∧ 5 ∣ mv

/-- The invariant of every step: memory in its canonical form, the order of power, and the range of VDD_CORE. -/
def Inv (d : Dev) : Prop := Memory.wf d.mem.bytes = true ∧ PowerOrder d.power ∧ TrimRange d

end Sys2Proof.Machine
end

