-- ==== Sys2Proof/Certificates/Slice0/Obligations.lean ====
section
/-!
DEFINITION. The statements for the provers. `Gives` and `Leads` say that a command answers a next state; a command's
clause holds for every state and operands that meet the clause's hypotheses.
-/

open Sys2Proof Sys2Proof.Machine

/-! ## The machine as a whole -/

/-- A step with a command in front runs that command on the state with the rest of the queue (log 2), and every command
answers a next state, which keeps the waiting commands as they are: no row of the table stops. -/
def Obligations.StepRunsTheFrontCommand : Prop :=
  ∀ (s : State) (c : Instr), step (s.push c) = exec c s ∧ ∃ d, Gives c s d

/-- The model's choice (log 2, log 107): the step on an empty queue is one cc in which no command comes. It answers a
next state, no command appears, time goes on by one cc, the next of the falling rails is down, and the other pins and
clocks stay. Where no pair waits to become live and no commit of a plan is in progress, neither the plan nor the links,
the recorder nor anything sent changes, and the security state only as the programming of an update ends; the chain and
the start-up stage change only where the stop bit of a resent TOKEN frame has left, with which phase 2 begins (R81). A
pair that waits becomes live (R114). -/
def Obligations.EmptyQueueIsOneCycle : Prop :=
  ∀ s : State, s.pending = [] → ∃ t, step s = .next t ∧ t.pending = [] ∧ t.dev.time = s.dev.time + 1
    ∧ t.dev.power = { s.dev.power with falling := s.dev.power.falling.tail }
    ∧ (s.dev.plan.commit = none → t.dev.due = [])
    ∧ (∀ p, s.dev.due = [p] → s.dev.plan.commit = none → s.dev.cores = [] → s.dev.board.engines = [] →
      (∀ c, (s.dev.ctx c).dying = false) → let d := s.dev.applyPair p
      t.dev.host = d.host ∧ t.dev.xl = d.xl ∧ t.dev.fab = d.fab ∧ t.dev.recorder = d.recorder ∧ t.dev.cnt = d.cnt)
    ∧ (s.dev.due = [] → s.dev.plan.commit = none → t.dev.plan = s.dev.plan ∧ t.dev.fab = s.dev.fab
      ∧ t.dev.recorder = s.dev.recorder ∧ t.dev.out = s.dev.out
      ∧ (s.dev.boot.fwProg = none → t.dev.sec = s.dev.sec)
      ∧ (∀ n image e, s.dev.boot.fwProg = some (n, image, e) → s.dev.time + 1 < e → t.dev.boot.fwProg = s.dev.boot.fwProg)
      ∧ let c := s.dev.chain
       let sent := c.phase = 1 ∧ c.tokenEnters2 = true ∧ c.tokenDue = none ∧ c.busyUntil ≤ s.dev.time + 1
       (¬ sent → t.dev.chain = c ∧ (s.dev.boot.fwProg = none → t.dev.boot = s.dev.boot))
       ∧ (sent → t.dev.chain.phase = 2 ∧ t.dev.chain.tokenEnters2 = false ∧ t.dev.chain.devId = c.devId
          ∧ (s.dev.boot.stage = 6 → t.dev.boot.stage = 7)))

/-! ## Rails, straps and clocks -/

/-- PWR_EN_ASSERT, RAIL_REGULATED, POR_RELEASE, STRAP_OUTPUT_ENABLE: the rails rise in order after PWR_EN, which R34
holds off for 100 ms after a fatal shutdown; PWR_GOOD rises with the fifth; the straps are sampled and stage 1 ends no
earlier than 2 ms after it; the outputs drive 1 ms later. -/
def Obligations.RailsComeUp : Prop :=
  ∀ s : State, let p := s.dev.power
    (p.pwrEn = false → (p.lockedOut = true → ∃ t, p.pwrEnLowAt = some t ∧ t + ccUs 100000 ≤ s.dev.time) →
      Gives .pwrEnAssert s (s.dev.modPower fun p => { p with
        pwrEn := true, pwrEnLowAt := none, lockedOut := false, raising := true }))
    ∧ (p.pwrEn = false → p.lockedOut = true → (∀ t, p.pwrEnLowAt = some t → s.dev.time < t + ccUs 100000) →
      Gives .pwrEnAssert s (s.dev.modPower fun p => { p with pwrEn := true, pwrEnLowAt := none }))
    ∧ (p.pwrEn = true → p.raising = true → p.railsUp < 4 →
      Gives .railRegulated s (s.dev.modPower fun p => { p with railsUp := p.railsUp + 1 }))
    ∧ (p.pwrEn = true → p.raising = true → p.railsUp = 4 →
      Gives .railRegulated s (s.dev.modPower fun p => { p with
        railsUp := 5, raising := false, pwrGood := true, pwrGoodAt := s.dev.time }))
    ∧ (∀ straps mid, p.pwrGood = true → p.porReleased = false → p.pwrGoodAt + ccUs 2000 ≤ s.dev.time →
      Gives (.porRelease straps mid) s { s.dev with
        power := { p with porReleased := true, porAt := s.dev.time, straps := straps, mid := mid }
        boot := { s.dev.boot with stage := 1, stageEnd := tset s.dev.boot.stageEnd 1 s.dev.rootCc } })
    ∧ (p.porReleased = true → tget 0 s.dev.boot.stageEnd 1 + 50000 ≤ s.dev.rootCc →
      Gives .strapOutputEnable s (s.dev.modPower fun p => { p with outEn := true }))

/-- PWR_EN_DEASSERT, VIN_LOSS, RAIL_FAULT, THERM_TRIP, MAIN_PLL_UNLOCK: the rails fall in reverse order and everything
is lost but flash, fuses and the trim record; a rail fault, an over-temperature trip and a lost main PLL assert
FATAL_N, which AER reports over a link in L0 (R343), and lock the rails out, and the deassertion of PWR_EN clears
FATAL_N. -/
def Obligations.RailsFall : Prop :=
  ∀ s : State, let p := s.dev.power
    (p.pwrEn = true → Leads .pwrEnDeassert s fun d => Dark s.dev d ∧ d.power.fatal = false ∧ d.power.thermTrip = false
      ∧ d.power.pwrEn = false ∧ d.power.pwrEnLowAt = some s.dev.time ∧ d.power.lockedOut = p.lockedOut)
    ∧ (p.pwrEn = true → Leads .vinLoss s fun d => Dark s.dev d ∧ d.power.fatal = p.fatal
      ∧ d.power.lockedOut = p.lockedOut)
    ∧ (p.pwrGood = true → Leads .railFault s fun d => Dark s.dev.uie d ∧ d.power.fatal = true
      ∧ d.power.thermTrip = p.thermTrip ∧ d.power.lockedOut = true)
    ∧ (p.railsUp ≠ 0 ∨ p.raising = true → Leads .thermTrip s fun d => Dark s.dev.uie d ∧ d.power.fatal = true
      ∧ d.power.thermTrip = true ∧ d.power.lockedOut = true)
    ∧ (p.mainLock = true → Leads .mainPllUnlock s fun d => Dark s.dev.uie d ∧ d.power.fatal = true
      ∧ d.power.lockedOut = true)

/-- TEMP_WARNING: a reading of one of the five dies is kept; the warning is set while any die is at 95 °C or above,
cleared when all are below 90 °C, and stays as it was between; nothing else changes. A reading of 105 °C or more is the
thermal trip: both outputs are asserted and the rails are removed (R35). -/
def Obligations.TemperatureWarningHasHysteresis : Prop :=
  ∀ (s : State) (die : Nat) (c : Int), s.dev.power.pwrGood = true → die < 5 →
    (105 ≤ c → Leads (.tempWarning die c) s fun d => Dark s.dev.uie d ∧ d.power.fatal = true ∧ d.power.thermTrip = true
      ∧ d.power.lockedOut = true)
    ∧ (c < 105 → Leads (.tempWarning die c) s fun d =>
      let temp (i : Nat) := tget 0 d.power.dieTemp i
      temp die = c ∧ (∀ i, i ≠ die → temp i = tget 0 s.dev.power.dieTemp i)
      ∧ ((∃ i, i < 5 ∧ 95 ≤ temp i) → d.power.tempWarn = true)
      ∧ ((∀ i, i < 5 → temp i < 90) → d.power.tempWarn = false)
      ∧ ((∀ i, i < 5 → temp i < 95) → (∃ i, i < 5 ∧ 90 ≤ temp i) → d.power.tempWarn = s.dev.power.tempWarn)
      ∧ d = s.dev.modPower fun _ => d.power)

/-- PCIE_PLL_UNLOCK, PCIE_PLL_RELOCK, PERST_DEASSERT, PERST_ASSERT before any function or context exists, PCIE_LINK_L0,
STEWARD_STOP. A lost PCIe PLL takes the link down and is counted; with the link, what waited for it goes to the host in
its order; PERST_N returns the port to its reset values. -/
def Obligations.LinkGoesDownAndUp : Prop :=
  ∀ s : State, let p := s.dev.power
    (p.pcieLock = true → Gives .pciePllUnlock s (s.dev.modPower fun p => { p with
      pcieLock := false, pcieL0 := false, pcieUnlock := p.pcieUnlock.bump 0xFF 1 s.dev.time }))
    ∧ (p.mainLock = true → Gives .pciePllRelock s (s.dev.modPower fun p => { p with pcieLock := true }))
    ∧ Gives .perstDeassert s (s.dev.modPower fun p => { p with perstLow := false })
    ∧ (p.perstLow = false → s.dev.host.ctxs = [] → s.dev.mem.reqs = [] → Leads .perstAssert s fun d =>
        d.power.perstLow = true ∧ d.power.pcieL0 = false ∧ HostPortReset d)
    ∧ (p.pcieL0 = true → s.dev.configServed = true → s.dev.host.ctxs = [] → s.dev.mem.reqs = [] →
      Leads .pfFlr s fun d => d.power = p ∧ HostPortReset d)
    ∧ (p.perstLow = false → p.pcieLock = true → p.pcieL0 = false → Leads .pcieLinkL0 s fun d =>
        d.power = { p with pcieL0 := true } ∧ d.host = { s.dev.host with hostHeld := [] }
        ∧ d.out = s.dev.host.hostHeld.reverse ++ s.dev.out ∧ d.mem = s.dev.mem ∧ d.cores = s.dev.cores)
    ∧ Gives .stewardStop s (s.dev.modChain fun c => { c with stewardStopped := true, chnOutHigh := false })

/-- CONFIG_REQUEST, VF_ENABLE_WRITE, BAR4_RESIZE, BAR4_WIN_WRITE: a configuration request is answered once
configuration space is served, and before it is retried without any other effect, whatever it asks; VF Enable is held
until full service, and neither it nor BAR4's size is there in recovery; a resize clears every bit of BASE below the new
size, and BASE is only written as a multiple of the size. -/
def Obligations.ConfigurationRequests : Prop :=
  ∀ (s : State) (fn : Fn), let d := s.dev
    (∀ off, d.configReach fn = true → d.configServed = true →
      Gives (.configRequest fn off) s (d.emit (.cfgData fn (d.configWord fn off))))
    ∧ (∀ off, d.configReach fn = true → d.configServed = false → Gives (.configRequest fn off) s (d.emit .cfgRetry))
    ∧ (∀ n, d.configReach fn = true → d.configServed = false → Gives (.bar4Resize fn n) s (d.emit .cfgRetry))
    ∧ (∀ v, d.power.pcieL0 = true → d.configServed = false →
      Gives (.vfEnableWrite v) s (d.emit .cfgRetry) ∧ Gives .pfFlr s (d.emit .cfgRetry))
    ∧ (∀ v, d.power.pcieL0 = true → d.boot.recovery = true → Gives (.vfEnableWrite v) s d)
    ∧ (∀ n, d.configReach fn = true → d.boot.recovery = true → Gives (.bar4Resize fn n) s d)
    ∧ (∀ v, d.power.pcieL0 = true → d.boot.recovery = false → d.boot.stage = 10 →
      Gives (.vfEnableWrite v) s (d.modHost fun h => { h with vfEnable := v }))
    ∧ (∀ v, d.power.pcieL0 = true → d.boot.recovery = false → 4 ≤ d.boot.stage → d.boot.stage < 10 →
      Gives (.vfEnableWrite v) s (d.modHost fun h => { h with vfHeld := some v }))
    ∧ (∀ n, d.configReach fn = true → d.boot.recovery = false → 4 ≤ d.boot.stage → 28 ≤ n → n ≤ 34 →
      Leads (.bar4Resize fn n) s fun d' =>
        d'.func fn = { d.func fn with bar4Log2 := n }
        ∧ d'.host.bar4Win = (if fn = 0 then d.host.bar4Win / 2 ^ n * 2 ^ n else d.host.bar4Win))
    ∧ (∀ v : W64, d.reach fn = true → isPf fn = true → let base := v.toNat / 2 ^ 28 % 2 ^ 6 * 2 ^ 28
        (base % 2 ^ (d.func 0).bar4Log2 = 0 →
          Gives (.bar4WinWrite fn v) s (d.modHost fun h => { h with bar4Win := base }))
        ∧ (base % 2 ^ (d.func 0).bar4Log2 ≠ 0 → Gives (.bar4WinWrite fn v) s d))

/-! ## The chain -/

/-- CHN_IN_HIGH, HEAD_TOKEN_START, TOKEN_FRAME_RX, TOKEN_SEND, ENUM_TIMEOUT: phase 1 begins, the head takes ID 0 and
names 1 for the next module, a module takes the ID that the TOKEN names and sends one more 8 µs later, and a module
that waited 1,300 ms gives its ID up and goes on with CHAIN_ERR. -/
def Obligations.TokenEnumeration : Prop :=
  ∀ s : State, let d := s.dev; let c := s.dev.chain
    (c.phase = 0 → d.isHead = false → d.atStage7 = true →
      Gives .chnInHigh s (d.modChain fun c => { c with
        chnInHigh := true, chnInHighAt := d.time, phase := 1, phase1At := d.time, chnOutHigh := !d.chnSilent }))
    ∧ (c.phase ≠ 0 → Gives .chnInHigh s (d.modChain fun c => { c with chnInHigh := true, chnInHighAt := d.time }))
    ∧ (d.isHead = true → c.phase = 1 → c.chnInHigh = true → c.headTokenSent = false →
      d.chnSilent = false → c.chnInHighAt + ccUs 100 ≤ d.time → c.phase1At + ccUs 100 ≤ d.time →
        Leads .headTokenStart s fun d' =>
        d'.chain = { c with devId := 0, idValid := true, headTokenSent := true, headTokenAt := d.time
                            busyUntil := d.time + ccUs 52, ownBusy := true, bufBusy := false }
        ∧ ∃ f, d'.out = .chain f :: d.out ∧ f.typ = 1 ∧ f.dest = 1 ∧ f.src = 0 ∧ f.payload = [] ∧ frameOk f = true)
    ∧ (∀ f : ChainFrame, c.phase = 1 → d.isHead = false → c.idValid = false → c.chainErr = false → f.typ = 1 →
      f.dest ≠ 0 → frameOk f = true → Leads (.tokenFrameRx f) s fun d' =>
        d'.chain.devId = f.dest ∧ d'.chain.idValid = true ∧ d'.chain.upId = f.src ∧ d'.chain.heardAt = d.time
        ∧ (∃ g, d'.chain.tokenDue = some (g, d.time + ccUs 8) ∧ g.typ = 1 ∧ g.dest = f.dest + 1 ∧ g.src = f.dest
          ∧ frameOk g = true)
        ∧ d' = d.modChain fun _ => d'.chain)
    ∧ (∀ f t, c.tokenDue = some (f, t) → c.phase = 1 → t ≤ d.time → d.chnSilent = false →
      Leads .tokenSend s fun d' => d'.out = .chain f :: d.out ∧ d'.chain = { c with
        tokenDue := none, closingSent := c.closingSent || d.isHead, busyUntil := d.time + frameCc f, ownBusy := true
        bufBusy := false })
    ∧ (d.chnSilent = true → Gives .headTokenStart s d ∧ Gives .tokenSend s d)
    ∧ (c.phase = 1 → c.phase1At + ccUs 1300000 ≤ d.time → d.boot.recovery = false → Leads .enumTimeout s fun d' =>
        d'.chain = { c with chainErr := true, idValid := false, phase := 2, tokenDue := none, tokenEnters2 := false }
        ∧ d'.boot.result = 0xA ∧ (d.boot.stage = 6 → d'.boot.stage = 7) ∧ d'.out = d.out)

/-- SIDE_FRAME_RX, FAULT_FRAME_RX, DOWN_FRAME_RX, CHN_BUFFERED_FORWARD, CHN_FRAME_SEND: a correct frame of another
module goes on unchanged 2 µs later while the line is free and is kept if it is addressed here; one that begins to
arrive while a frame of the module's own or of the buffer is being sent waits in a buffer of two, from which it goes
before the module's next own frame; a frame that finds both places full is dropped and counted; the module's own frame
is removed; a frame of a reserved TYPE, or of one that the phase does not allow, goes on and is counted; the head's
own SIDE frame SERVICE brings phase 3; an own frame waits until no frame is being forwarded and the line has been idle
for 2 µs. -/
def Obligations.FramesGoOn : Prop :=
  ∀ (s : State) (f : ChainFrame), let d := s.dev; let c := s.dev.chain
    let passes (d' : Dev) : Prop :=
      d'.out = .chain f :: d.out ∧ d'.chain.heardAt = d.time ∧ d'.chain.drop = c.drop
      ∧ d'.chain.busyUntil = d.time + ccUs 2 ∧ d'.chain.kept = (if d.chnMine f then f :: c.kept else c.kept)
    let waits (d' : Dev) : Prop :=
      d'.out = d.out ∧ d'.chain.heardAt = d.time
      ∧ (c.buffered.length < 2 → d'.chain.buffered = c.buffered ++ [f] ∧ d'.chain.drop = c.drop)
      ∧ (2 ≤ c.buffered.length → d'.chain.buffered = c.buffered ∧ d'.chain.drop = c.drop.bump 0xFF 1 d.time)
    let busy := c.ownBusy = true ∧ d.time < c.busyUntil ∨ c.bufBusy = true ∧ d.time < c.busyUntil ∨ c.buffered ≠ []
    (frameOk f = true → d.chnOwn f = false → d.chnSilent = false →
      (c.rxHold = false → ¬ busy →
        (c.phase = 2 → f.typ = 2 → Leads (.sideFrameRx f) s passes)
        ∧ (c.phase = 3 → f.typ = 3 → Leads (.faultFrameRx f) s passes)
        ∧ (c.phase = 3 → f.typ = 4 → Leads (.downFrameRx f) s passes))
      ∧ (c.rxHold = true ∨ busy →
        (c.phase = 2 → f.typ = 2 → Leads (.sideFrameRx f) s waits)
        ∧ (c.phase = 3 → f.typ = 3 → Leads (.faultFrameRx f) s waits)
        ∧ (c.phase = 3 → f.typ = 4 → Leads (.downFrameRx f) s waits)))
    ∧ (∀ rest, c.buffered = f :: rest → d.chnSilent = false → d.chnBusy = false →
      Leads .chnBufferedForward s fun d' => d'.out = .chain f :: d.out
        ∧ d'.chain = { c with buffered := rest, busyUntil := d.time + frameCc f, ownBusy := false, bufBusy := true })
    ∧ (f.typ = 2 → d.chnOwn f = true → frameOk f = true → d.isHead = true → c.phase = 2 → c.serviceSent = true →
      leNat (f.payload.take 4) % 256 = 2 → Leads (.sideFrameRx f) s fun d' => d'.out = d.out ∧ d'.chain = { c with
        phase := 3, heardAt := d.time, heartbeatAt := d.time + ccUs 100, frameStart := false })
    ∧ (d.chnOwn f = true → frameOk f = true → 2 ≤ c.phase → (f.typ = 3 → Leads (.faultFrameRx f) s fun d' =>
          d'.out = d.out ∧ d'.chain = { c with heardAt := d.time, frameStart := false })
        ∧ (f.typ = 4 → Leads (.downFrameRx f) s fun d' =>
          d'.out = d.out ∧ d'.chain = { c with heardAt := d.time, frameStart := false }))
    ∧ (frameOk f = true → d.chnOwn f = false → c.phase ≠ 0 → d.chnSilent = false → c.rxHold = false → ¬ busy →
      let foreign (d' : Dev) : Prop := d'.out = .chain f :: d.out ∧ d'.chain.foreign = c.foreign.bump 0xFF 1 d.time
        ∧ d'.chain.kept = c.kept
      let reserved := f.typ = 0 ∨ 5 ≤ f.typ.toNat
      (reserved ∨ f.typ = 1 ∧ c.phase ≠ 1 → Leads (.tokenFrameRx f) s foreign)
      ∧ (reserved ∨ f.typ = 2 ∧ c.phase ≠ 2 → Leads (.sideFrameRx f) s foreign)
      ∧ (reserved ∨ f.typ = 3 ∧ c.phase ≠ 3 → Leads (.faultFrameRx f) s foreign)
      ∧ (reserved ∨ f.typ = 4 ∧ c.phase ≠ 3 → Leads (.downFrameRx f) s foreign))
    ∧ (∀ rest, c.own = f :: rest → 2 ≤ c.phase → d.chnSilent = false → c.buffered = [] → d.chnFollows = false →
      c.busyUntil + ccUs 2 ≤ d.time → Leads .chnFrameSend s fun d' => d'.out = .chain f :: d.out
        ∧ d'.chain = { c with own := rest, busyUntil := d.time + frameCc f, ownBusy := true, bufBusy := false })
    ∧ (c.own ≠ [] → c.buffered ≠ [] ∨ (c.busyUntil ≠ 0 ∧ d.time < c.busyUntil + ccUs 2) ∨ d.chnFollows = true →
      Gives .chnFrameSend s d)

/-- CHN_PULSE_RX, LEVEL_FAULT, CHN_HEARTBEAT_SEND, UPSTREAM_LOST, UP_LOST_CLEAR, SERVICE_TIMEOUT: pulses are told apart
by their width; the upstream neighbour is declared lost once, with one DOWN frame that names it, after 300 µs of silence
or at a level fault, and again found after 1 ms of heartbeats; the head sends SERVICE 1,000 ms after its stage 10. -/
def Obligations.GuyLine : Prop :=
  ∀ s : State, let d := s.dev; let c := s.dev.chain
    let lost (d' : Dev) : Prop :=
      d'.chain.upLost = true ∧ d'.chain.goodSince = none
      ∧ d'.chain.own = c.own ++ [ownFrame d 4 0xFFF (leBytes 4 c.upId.toNat)] ∧ d'.out = d.out ∧ d'.mem = d.mem
    (∀ ns, c.phase ≠ 0 → 500 ≤ ns → ns ≤ 1400 → Leads (.chnPulseRx ns) s fun d' =>
        d'.chain.heardAt = d.time ∧ d'.chain.glitch = c.glitch ∧ d'.chain.frameStart = false)
    ∧ (∀ ns, c.phase ≠ 0 → 1600 ≤ ns → ns ≤ 2400 →
      Gives (.chnPulseRx ns) s (d.modChain fun c => { c with frameStart := true, frameAt := d.time, rxHold := d.chnHolds }))
    ∧ (∀ ns, c.phase ≠ 0 → (ns < 500 ∨ (1400 < ns ∧ ns < 1600) ∨ (2400 < ns ∧ ns < 20000)) →
      Gives (.chnPulseRx ns) s (d.modChain fun c => { c with glitch := c.glitch.bump 0xFF 1 d.time }))
    ∧ (c.phase = 3 → c.upLost = false → Leads .levelFault s lost)
    ∧ (∀ ns, c.phase = 3 → c.upLost = false → 20000 ≤ ns → Leads (.chnPulseRx ns) s lost)
    ∧ (c.phase = 3 → c.upLost = false → c.frameStart = false → c.heardAt + ccUs 300 ≤ d.time →
      Leads .upstreamLost s lost)
    ∧ (c.phase = 3 → d.chnSilent = false → c.heartbeatAt ≤ d.time → d.chnBusy = false → d.chnFollows = false →
      c.busyUntil ≤ c.heartbeatAt ∨ c.busyUntil + ccUs 2 ≤ d.time →
      Gives .chnHeartbeatSend s ((d.emit .heartbeat).modChain fun c => { c with heartbeatAt := d.time + ccUs 100 }))
    ∧ (c.phase = 3 → d.chnSilent = false → c.heartbeatAt < c.busyUntil → d.time < c.busyUntil + ccUs 2 →
      c.heartbeatAt ≤ d.time → d.chnFollows = false →
      Gives .chnHeartbeatSend s (d.modChain fun c => { c with heartbeatAt := c.busyUntil + ccUs 2 }))
    ∧ (∀ t, c.upLost = true → c.goodSince = some t → t + ccUs 1000 ≤ c.goodLast → d.time ≤ c.goodLast + ccUs 300 →
      Gives .upLostClear s (d.modChain fun c => { c with upLost := false, goodSince := none }))
    ∧ (d.isHead = true → c.phase = 2 → d.boot.stage = 10 → c.serviceSent = false →
      tget 0 d.boot.stageEnd 10 + 50000000 ≤ d.rootCc → Leads .serviceTimeout s fun d' =>
        d'.chain = { c with serviceSent := true, own := c.own ++ [ownFrame d 2 0xFFF (leBytes 4 0x02)] })

/-! ## Start-up -/

/-- STEWARD_ROM, FIRMWARE_IMAGE, MEASURED_BOOT: stage 2 locks the main PLL and measures ROM and fuses; the recovery
strap, a flash that does not answer and an image that fails a check lead to recovery with their codes; an image that
passes every check is taken, and stages 3 and 4 extend M1 to M3. -/
def Obligations.FirmwareStages : Prop :=
  ∀ s : State, let d := s.dev
    let recovers (k : Instr) (code : Nat) : Prop := Leads k s fun d' =>
      d'.boot.recovery = true ∧ d'.boot.result = code ∧ d'.boot.stage = 2 ∧ d'.boot.image = d.boot.image
    let locked (p : Power) : Prop := p = { d.power with mainLock := true, mainLockAt := d.time, pcieLock := true }
    (d.mayRun 2 = true → d.power.straps.getLsbD 0 = false → Leads (.stewardRom true) s fun d' =>
        locked d'.power ∧ d'.boot.stage = 2 ∧ d'.boot.recovery = false ∧ d'.boot.result = d.boot.result
        ∧ d'.boot.meas = (d.extend 0 (Config.sha384
            (Config.romBytes ++ leBytes 48 Config.manifestDigest.toNat ++ d.fuseBytes))).boot.meas)
    ∧ (∀ a, d.mayRun 2 = true → d.power.straps.getLsbD 0 = true → recovers (.stewardRom a) 1)
    ∧ (d.mayRun 2 = true → d.power.straps.getLsbD 0 = false → recovers (.stewardRom false) 2)
    ∧ (d.mayRun 3 = true → recovers (.firmwareImage false) 2)
    ∧ (d.mayRun 3 = true → match d.imageCheck d.flashImage with
      | some code => recovers (.firmwareImage true) code
      | none => Leads (.firmwareImage true) s fun d' => d'.boot.image = imageInfo d.flashImage
        ∧ d'.boot.stage = 3 ∧ d'.boot.recovery = false
        ∧ d'.boot.meas = (d.extend 1 (Config.sha384 (imgManifest d.flashImage))).boot.meas)
    ∧ (d.mayRun 4 = true → Leads .measuredBoot s fun d' => d'.boot.stage = 4
        ∧ d'.boot.meas = ((d.extend 2 d.boot.image.digest).extend 3 (Config.sha384
            [BitVec.ofNat 8 d.power.straps.toNat, BitVec.ofNat 8 d.power.mid.toNat])).boot.meas)

/-- SRAM_REPAIR_BIST, AGEING_MARGIN_REPLAN, LINK_TRAINING, SITE_PLAN_LOAD, HOST_VISIBLE: stages 5 to 10. -/
def Obligations.ServiceStages : Prop :=
  ∀ s : State, let d := s.dev
    (∀ r : BistResult, d.mayRun 5 = true → r.quads = [] → d.boot.trimRetired = [] → r.hubBad = false →
      Leads (.sramRepairBist r) s fun d' => d'.boot.stage = 5 ∧ d'.boot.oosGranules = r.granules
        ∧ d'.boot.disabledWays = r.ways ∧ d'.cores = [] ∧ d'.plan.lastOwner = [] ∧ d'.recorder = d.recorder
        ∧ (r.granules ≠ [] ∨ r.ways ≠ [] → d'.boot.result = 9)
        ∧ ∀ a, (regionOf a).isBiv = false → byteAt d'.mem.bytes a = 0)
    ∧ (∀ readings, d.mayRun 6 = true → Leads (.ageingMarginReplan readings) s fun d' =>
        let r := replanLoop (readings.take 26) 1 0 d.quadsInService { mv := d.boot.trimMv.getD 720 }
        d'.power = { d.power with vddCoreMv := r.mv } ∧ d'.boot.trimMv = some r.mv)
    ∧ (∀ ports biv, d.mayRun 8 = true → d.rootCc < tget 0 d.boot.stageEnd 7 + 5000000 →
      Gives (.linkTraining ports biv) s d)
    ∧ (∀ ports biv, d.mayRun 8 = true → tget 0 d.boot.stageEnd 7 + 5000000 ≤ d.rootCc →
      Leads (.linkTraining ports biv) s fun d' => d'.boot.stage = 8
        ∧ d'.power = { d.power with lnkLock := true, bivLock := true }
        ∧ (∀ n, n < 12 → d'.port n = (d.trainPort n (ports[n]?.getD noTrain)).port n)
        ∧ ∀ n t, n < 2 → biv[n]? = some t → t.width ≠ 0 →
          (d'.biv n).st = 1 ∧ (d'.biv n).width = t.width ∧ (d'.biv n).rate = t.rate ∧ (d'.biv n).gib = min t.gib 1024)
    ∧ (d.mayRun 9 = true → Leads (.sitePlanLoad false) s fun d' => d'.boot.stage = 9 ∧ d'.boot.result = 0xB
        ∧ d'.plan = d.plan)
    ∧ (d.mayRun 9 = true → d.flashPlan = [] → Leads (.sitePlanLoad true) s fun d' => d'.boot.stage = 9
        ∧ d'.boot.result = d.boot.result ∧ d'.plan = d.plan)
    ∧ (d.mayRun 9 = true → d.flashPlan ≠ [] → Leads (.sitePlanLoad true) s fun d' =>
        let pl := d.flashPlan.filter fun b => b.1 < planLen
        let x := ((d.modPlan fun p => { p with staging := pl }).startCommit false pl (planOrder pl)).commitRun 5
        d'.boot.stage = 9 ∧ ∀ c, x.plan.commit = some c → d'.plan = (x.endCommit c).plan
          ∧ (c.reason = 0 → d'.boot.result = x.boot.result) ∧ (c.reason ≠ 0 → d'.boot.result = 0xB))
    ∧ (d.mayRun 10 = true → Leads .hostVisible s fun d' => d'.boot.stage = 10 ∧ d'.host.vfHeld = none
        ∧ d'.host.vfEnable = d.host.vfHeld.getD d.host.vfEnable
        ∧ d'.boot.svnFuse = max d.boot.svnFuse (min 64 d.boot.image.svn)
        ∧ d'.boot.remeasureAt = d.time + ccUs 86400000000)

/-- STW_RECOV_GO, RECOV_CHECK_DONE, RECOV_PROGRAM_DONE, AGEING_REMEASURE, STEWARD_WATCHDOG, STEWARD_RESTART_DONE: the
recovery image is checked and programmed, and start-up goes on at stage 3; the daily measurement raises VDD_CORE by
5 mV up to 0.80 V; the watchdog restarts a stopped steward. -/
def Obligations.RecoveryAndUpkeep : Prop :=
  ∀ s : State, let d := s.dev; let b := s.dev.boot
    (∀ v : W32, d.power.pcieL0 = true → b.recovery = true → v.getLsbD 0 = true → b.recovState ≠ 1 → b.recovState ≠ 2 →
      Gives (.stwRecovGo 0 v) s (d.modBoot fun b => { b with
        recovState := 1, recovAttempts := satAdd 0xFFFF b.recovAttempts 1 }))
    ∧ (b.recovery = true → b.recovState = 1 → match d.imageCheck b.recovWindow with
      | none => Gives .recovCheckDone s (d.modBoot fun b => { b with recovState := 2 })
      | some code => Leads .recovCheckDone s fun d' =>
        d'.boot = { b with recovState := 4, recovCause := code } ∧ d'.chain = d.chain)
    ∧ (b.recovery = true → b.recovState = 2 → Leads .recovProgramDone s fun d' =>
        d'.boot.recovState = 3 ∧ d'.boot.recovery = false ∧ d'.boot.stage = 2 ∧ d'.chain = d.chain
        ∧ d'.boot.flash = (b.recovWindow.filter fun x => x.1 < flashImageLen) ++ b.flash.filter fun x => flashImageLen ≤ x.1)
    ∧ (∀ r, b.stage = 10 → d.chain.stewardStopped = false → b.remeasureAt ≤ d.time →
      guardPs ≤ minSlack r d.quadsInService → Gives (.ageingRemeasure r) s (d.modBoot fun b => { b with
        remeasureAt := b.remeasureAt + ccUs 86400000000 }))
    ∧ (∀ r, b.stage = 10 → d.chain.stewardStopped = false → b.remeasureAt ≤ d.time →
      minSlack r d.quadsInService < guardPs → d.power.vddCoreMv < 800 → Leads (.ageingRemeasure r) s fun d' =>
        d'.power = { d.power with vddCoreMv := d.power.vddCoreMv + 5 })
    ∧ (∀ r, b.stage = 10 → d.chain.stewardStopped = false → b.remeasureAt ≤ d.time →
      minSlack r d.quadsInService < guardPs → 800 ≤ d.power.vddCoreMv → Leads (.ageingRemeasure r) s fun d' =>
        d'.power = d.power ∧ ∀ q ∈ d.quadsInService, quadSlack r q < guardPs → q ∈ d'.boot.trimRetired)
    ∧ (d.chain.stewardStopped = true → b.stewardRestarting = false → Leads .stewardWatchdog s fun d' =>
        d'.boot = { b with stewardRestarting := true } ∧ (d.recorder.queue.length < 256 →
          ∃ e, e ∈ d'.recorder.queue ∧ e.kind = 0x15 ∧ e.time = d.hubCc))
    ∧ (b.stewardRestarting = true → match d.imageCheck d.flashImage with
      | none => Leads .stewardRestartDone s fun d' =>
        d'.boot = { b with stewardRestarting := false, fwProg := none }
        ∧ d'.chain.stewardStopped = false ∧ d'.chain.heartbeatAt = d.time + ccUs 100
      | some code => Leads .stewardRestartDone s fun d' =>
        d'.boot.stewardRestarting = false ∧ d'.boot.recovery = true ∧ d'.boot.result = code)

/-! ## Thread groups -/

/-- GROUP_PLACE, GROUP_END, RESULT_WRITEBACK: the core's oldest waiting group takes the lowest free slot, with the
registers that R120 names, one group in a cc; a group that has ended and whose stores and atomics are performed leaves
its slot; the results that are due are written to their registers, which are ready again. -/
def Obligations.GroupsComeAndGo : Prop :=
  (
    ∀ (s : State) (core n : Nat) (w : WaitGroup) (rest : List WaitGroup) (nd : Node),
      let d := s.dev; let k := s.dev.core core
      k.waiting = w :: rest → k.freeSlot d.time = some n → d.node? w.node = some nd → k.lastPlace ≠ some d.time →
      k.saved = false → k.testing = false → (d.ctx nd.cid).live = true →
      Leads (.groupPlace core) s fun d' => ∃ g, d'.group? core n = some g
        ∧ g.pc = nd.field 0x1E 2 ∧ g.active = List.range 32 ∧ g.cid = nd.cid ∧ g.node = w.node
        ∧ g.s 0 = BitVec.ofNat 32 w.num ∧ g.s 1 = BitVec.ofNat 32 (nd.field 0x30 4)
        ∧ g.s 2 = BitVec.ofNat 32 ((d.logicalOf nd.pitch core).getD 0) ∧ g.s 3 = nd.layer ++ nd.oper
        ∧ g.s 4 = BitVec.ofNat 32 (nd.field 0x20 4) ∧ g.s 5 = BitVec.ofNat 32 (nd.field 0x24 2) ∧ (∀ l, l < 32 →
          g.t 0 l = BitVec.ofNat 32 l)
        ∧ (∀ r l, 0 < r → l < 32 → g.t r l = 0) ∧ (∀ r l, r < 7 → l < 32 → g.p r l = false)
        ∧ (d'.core core).waiting = rest ∧ (d'.core core).lastPlace = some d.time
        ∧ (∀ m, m ≠ n → d'.group? core m = d.group? core m) ∧ (∀ c, c ≠ core → d'.core c = d.core c)
        ∧ { d' with cores := d.cores } = d)
  ∧ (
    ∀ (s : State) (core slot : Nat) (g : Group), let d := s.dev
      d.group? core slot = some g →
      (g.stack = [] → g.halted = false → g.stepping ≠ 2 → d.groupDrained g = true →
        Leads (.groupEnd core slot) s fun d' => d'.group? core slot = none
          ∧ (∀ n, n ≠ slot → d'.group? core n = d.group? core n)
          ∧ ∀ nd, d.node? g.node = some nd → d'.node? g.node = some { nd with groupsLeft := nd.groupsLeft - 1 })
      ∧ (∀ p : PendWrite, g.pend = [p] → p.due ≤ d.time → Leads (.resultWriteback core slot) s fun d' =>
          ∃ g', d'.group? core slot = some g' ∧ g'.pend = [] ∧ (∀ r, r ∈ p.dests → r ∉ g'.notReady)
            ∧ (∀ r, r ∉ p.dests → r ∈ g.notReady → r ∈ g'.notReady)
            ∧ g'.treg = (g.wrAll p.vals).treg ∧ g'.sreg = (g.wrAll p.vals).sreg ∧ g'.preg = (g.wrAll p.vals).preg
            ∧ g'.stack = g.stack ∧ g'.accs = g.accs ∧ d'.mem = d.mem))

/-- MOV, MOVI, IADD, ISUB, IMUL, IMULH, IMAD, IMIN, IMAX, AND, OR, XOR, SHL, SHR, SAR: issued, each leaves one result
per written lane that is due after the opcode's latency, and nothing else of the group changes but its PC. -/
def Obligations.IntegerInstructions : Prop :=
  ∀ (s : State) (core slot : Nat) (g : Group) (i : TgInst),
    let runs (k : Nat → Nat → Instr) (op : Nat) (f : W32 → W32 → W32 → W32) : Prop :=
      Issues s.dev core slot op g i → Leads (k core slot) s fun d' =>
        Retires s.dev d' core slot g i (g.results i fun l => f (g.srcA i l) (g.srcB i l) (g.srcC i l))
    let signed := i.mod_ % 2 = 1
    let less (a b : W32) : Prop := if signed then a.toInt < b.toInt else a.toNat < b.toNat
    runs .mov 0x01 (fun a _ _ => a) ∧ runs .movi 0x02 (fun _ _ _ => BitVec.ofNat 32 i.imm32)
    ∧ runs .iadd 0x08 (fun a b _ => BitVec.ofNat 32 (a.toNat + b.toNat))
    ∧ runs .isub 0x09 (fun a b _ => BitVec.ofInt 32 (a.toNat - b.toNat))
    ∧ runs .imul 0x0A (fun a b _ => BitVec.ofNat 32 (a.toNat * b.toNat))
    ∧ runs .imulh 0x0B (fun a b _ => if signed then BitVec.ofInt 32 (a.toInt * b.toInt / 2 ^ 32)
        else BitVec.ofNat 32 (a.toNat * b.toNat / 2 ^ 32))
    ∧ runs .imad 0x0C (fun a b c => BitVec.ofNat 32 (a.toNat * b.toNat + c.toNat))
    ∧ (Issues s.dev core slot 0x0D g i → Leads (.imin core slot) s fun d' => ∃ f : Nat → W32,
        Retires s.dev d' core slot g i (g.results i f)
        ∧ ∀ l, (less (g.srcB i l) (g.srcA i l) → f l = g.srcB i l) ∧ (¬ less (g.srcB i l) (g.srcA i l) →
          f l = g.srcA i l))
    ∧ (Issues s.dev core slot 0x0E g i → Leads (.imax core slot) s fun d' => ∃ f : Nat → W32,
        Retires s.dev d' core slot g i (g.results i f)
        ∧ ∀ l, (less (g.srcA i l) (g.srcB i l) → f l = g.srcB i l) ∧ (¬ less (g.srcA i l) (g.srcB i l) →
          f l = g.srcA i l))
    ∧ runs .and 0x10 (fun a b _ => a &&& b) ∧ runs .or 0x11 (fun a b _ => a ||| b)
    ∧ runs .xor 0x12 (fun a b _ => a ^^^ b)
    ∧ runs .shl 0x14 (fun a b _ => BitVec.ofNat 32 (a.toNat * 2 ^ (b.toNat % 32)))
    ∧ runs .shr 0x15 (fun a b _ => BitVec.ofNat 32 (a.toNat / 2 ^ (b.toNat % 32)))
    ∧ runs .sar 0x16 (fun a b _ => BitVec.ofInt 32 (a.toInt / 2 ^ (b.toNat % 32)))

/-- FADD, FMUL, FFMA, FMIN, FMAX, CVT, SFN: the binary32 instructions take their sources after absolute value and then
negation; SFN's result is one of those within its error bound, picked by a free value, and holds the pipe for 4 cc. -/
def Obligations.FloatInstructions : Prop :=
  ∀ (s : State) (core slot : Nat) (g : Group) (i : TgInst),
    let src (k : Nat) (x : W32) : W32 := BitVec.ofNat 32
      (let m := if i.mod_ / 2 ^ (3 + k) % 2 = 1 then x.toNat % 2 ^ 31 else x.toNat
       if i.mod_ / 2 ^ k % 2 = 1 then m ^^^ 2 ^ 31 else m)
    let runs (k : Nat → Nat → Instr) (op : Nat) (f : W32 → W32 → W32 → W32) : Prop :=
      Issues s.dev core slot op g i → Leads (k core slot) s fun d' =>
        Retires s.dev d' core slot g i (g.results i fun l => f (g.srcA i l) (g.srcB i l) (g.srcC i l))
    runs .fadd 0x18 (fun a b _ => fadd32 (src 0 a) (src 1 b)) ∧ runs .fmul 0x19 (fun a b _ => fmul32 (src 0 a) (src 1 b))
    ∧ runs .ffma 0x1A (fun a b c => ffma32 (src 0 a) (src 1 b) (src 2 c))
    ∧ runs .fmin 0x1B (fun a b _ => fminmax32 false (src 0 a) (src 1 b))
    ∧ runs .fmax 0x1C (fun a b _ => fminmax32 true (src 0 a) (src 1 b))
    ∧ runs .cvt 0x24 (fun a _ _ => BitVec.ofNat 32 (cvt (i.mod_ % 16) (i.mod_ / 16) a.toNat))
    ∧ (Issues s.dev core slot 0x28 g i → Leads (.sfn core slot) s fun d' => ∃ pick : Nat → Nat,
        Retires s.dev d' core slot g i (g.results i fun l => sfn (i.mod_ % 4) (pick l) (g.srcA i l))
        ∧ (d'.core core).sfnUntil = s.dev.time + 4)

/-- NOP, SEL, ISETP, FSETP, PLOP, BALLOT, BCAST, SHFL: predicates and exchanges between lanes. -/
def Obligations.PredicateAndLaneInstructions : Prop :=
  ∀ (s : State) (core slot : Nat) (g : Group) (i : TgInst),
    let runs (k : Nat → Nat → Instr) (op : Nat) (vals : List RegVal) : Prop :=
      Issues s.dev core slot op g i → Leads (k core slot) s fun d' => Retires s.dev d' core slot g i vals
    let pred (f : Nat → Bool) : List RegVal :=
      (g.lanesOf i).map fun l => { reg := .p i.d, lane := l, val := if f l then 1 else 0, pois := false }
    runs .nop 0x00 []
    ∧ (i.ds = false → runs .sel 0x03 (g.results i fun l => if g.p (i.mod_ % 8) l then g.srcA i l else g.srcB i l))
    ∧ (i.ds = true → Issues s.dev core slot 0x03 g i → Leads (.sel core slot) s fun d' => ∃ v pois,
        Retires s.dev d' core slot g i [{ reg := .s i.d, lane := 32, val := v, pois := pois }]
        ∧ ((∀ l ∈ g.active, g.p (i.mod_ % 8) l = true) → g.active ≠ [] → v = g.srcA i 0)
        ∧ ((∀ l ∈ g.active, g.p (i.mod_ % 8) l = false) → v = g.srcB i 0)
        ∧ (v = g.srcA i 0 ∨ v = g.srcB i 0))
    ∧ runs .isetp 0x20 (pred fun l =>
        let lt := if i.mod_ / 8 % 2 = 1 then decide ((g.srcA i l).toInt < (g.srcB i l).toInt)
          else decide ((g.srcA i l).toNat < (g.srcB i l).toNat)
        cmpOf (i.mod_ % 8) lt (g.srcA i l == g.srcB i l))
    ∧ runs .fsetp 0x21 (pred fun l => fcmp (i.mod_ % 8) (g.srcA i l) (g.srcB i l))
    ∧ runs .plop 0x22 (pred fun l => plopOf i.mod_ (g.p i.a l) (g.p i.b l))
    ∧ runs .ballot 0x2C [{ reg := .s i.d, lane := 32, val := laneMask ((g.lanesOf i).filter fun l => g.p i.a l)
                           pois := (g.lanesOf i).any fun l => g.pPois i.a l }]
    ∧ runs .bcast 0x2D [{ reg := .s i.d, lane := 32, val := g.t i.a ((g.s i.b).toNat % 32)
                          pois := g.rdPois false i.a ((g.s i.b).toNat % 32) || g.rdPois true i.b 0 }]
    ∧ (i.ds = false → runs .shfl 0x2E ((g.lanesOf i).map fun l =>
        let m := match shflLane (i.mod_ % 4) l (g.srcB i l).toNat with
          | some k => if (g.lanesOf i).contains k then k else l
          | none => l
        { reg := .t i.d, lane := l, val := g.srcA i m, pois := g.rdPois i.as_ i.a m || g.rdPois i.bs i.b l }))
    ∧ (i.ds = true → runs .shfl 0x2E (g.results i fun l => g.srcA i l))

/-- BRA, BRX, EXIT: a uniform branch sets the PC; a divergent BRA leaves the reconvergence point below the two paths,
the taken one on top; EXIT takes its lanes out of every entry. The next instruction is fetched 4 cc later. -/
def Obligations.BranchInstructions : Prop :=
  ∀ (s : State) (core slot : Nat) (g : Group) (i : TgInst),
    let taken := g.active.filter fun l => g.guard i l
    let others := g.active.filter fun l => !g.guard i l
    let goes (k : Instr) (st : List StackEntry) : Prop := Leads k s fun d' => ∃ g',
      d'.group? core slot = some g' ∧ g'.stack = popStack st ∧ g'.fetchAt = s.dev.time + 4
      ∧ g'.treg = g.treg ∧ g'.sreg = g.sreg ∧ g'.preg = g.preg ∧ g'.pend = g.pend ∧ d'.mem = s.dev.mem
    let target := (g.s i.d).toNat
    (Issues s.dev core slot 0x38 g i →
      (others = [] → goes (.bra core slot) (setTopPc i.target g.stack))
      ∧ (others ≠ [] → taken = [] → goes (.bra core slot) (setTopPc (g.pc + 8) g.stack))
      ∧ (others ≠ [] → taken ≠ [] → g.stack.length + 2 ≤ 32 → goes (.bra core slot)
          ({ pc := i.target, rpc := i.rpc, mask := laneMask taken } ::
            { pc := g.pc + 8, rpc := i.rpc, mask := laneMask others } :: setTopPc i.rpc g.stack)))
    ∧ (Issues s.dev core slot 0x39 g i →
      (taken = [] → goes (.brx core slot) (setTopPc (g.pc + 8) g.stack))
      ∧ (taken ≠ [] → others = [] → target ≤ 0xFFFF → target % 8 = 0 → goes (.brx core slot) (setTopPc target g.stack)))
    ∧ (Issues s.dev core slot 0x3A g i →
      goes (.exit core slot) (dropLanes (laneMask taken) (setTopPc (g.pc + 8) g.stack)))

/-- An unassigned encoding faults: FLT_ILLEGAL with subcause 1 fills an empty fault record with the slot, the context
and the PC, under any opcode command of a thread group, and in native mode the context starts to die. -/
def Obligations.UnassignedEncodingFaults : Prop :=
  ∀ (s : State) (core slot : Nat) (g : Group), let d := s.dev
    d.chosen core = some slot → d.group? core slot = some g → tgOp? (d.fetchWord core g.pc) = none → g.compat = false →
    (d.core core).flt.valid.bit = false → (d.ctx g.cid).live = true → (d.ctx g.cid).fault = 0 →
    ∀ k ∈ [Instr.nop core slot, .iadd core slot, .fadd core slot, .isetp core slot, .bra core slot, .fence core slot],
      Leads k s fun d' => let f := (d'.core core).flt
        f.valid.bit = true ∧ f.code = 1 ∧ f.sub = 1 ∧ f.slot = slot ∧ f.cid = g.cid ∧ f.pc = g.pc
        ∧ f.lanes = laneMask g.active ∧ (d'.ctx g.cid).dying = true ∧ (d'.ctx g.cid).fault = 1

/-! ## Memory instructions -/

/-- LD that hits the L1: the lanes whose addresses the range cache translates into one held line get the line's bytes,
extended as MOD asks; the registers are due 8 cc after the issue. ST to a local line that no entry of the write buffer
holds, with room in it: a new entry takes the lanes' bytes; no byte of memory changes before the entry drains. -/
def Obligations.LoadsAndStores : Prop :=
  (
    ∀ (s : State) (core slot line : Nat) (g : Group) (i : TgInst) (pa : Nat → Nat) (x : L1Line), let d := s.dev
      Issues d core slot 0x40 g i → InLine d core g i line pa → HomeLine d line → i.mod_ / 16 % 4 = 0 →
      ((d.core core).l1.find? fun y => y.line == line % 2 ^ 37) = some x → (∀ w ∈ (d.core core).wb, w.line ≠ line) →
      Leads (.ld core slot .clean) s fun d' =>
        let value (l : Nat) : W64 :=
          let v := leNat ((List.range i.accBytes).map fun o => tget 0 x.data ((pa l + o) % 128))
          if i.mod_ / 8 % 2 = 1 then BitVec.ofInt 64 (sInt (8 * i.accBytes) v) else BitVec.ofNat 64 v
        ∃ g' vals, d'.group? core slot = some g' ∧ g'.treg = g.treg ∧ g'.sreg = g.sreg
          ∧ g'.stack = popStack (setTopPc (g.pc + 8) g.stack)
          ∧ g'.pend = g.pend ++ [{ vals := vals, dests := destRefs i.ds i.d (i.accBytes == 8), due := d.time + 8 }]
          ∧ vals.map (fun v => (v.reg, v.lane, v.val)) = (g.memLanes i).flatMap (fun l =>
              (destVals i.ds i.d l (i.accBytes == 8) (value l) false).map fun v => (v.reg, v.lane, v.val))
          ∧ d'.mem.bytes = d.mem.bytes ∧ d'.mem.reqs = d.mem.reqs)
  ∧ (
    ∀ (s : State) (core slot line : Nat) (g : Group) (i : TgInst) (pa : Nat → Nat) (ecc : EccObs), let d := s.dev
      Issues d core slot 0x41 g i → InLine d core g i line pa → HomeLine d line → i.mod_ / 16 % 4 = 0 →
      (∀ w ∈ (d.core core).wb, w.line ≠ line) → (d.core core).wb.length < 16 →
      (∀ l ∈ g.memLanes i, ∀ m ∈ g.memLanes i, l ≠ m → pa l + i.accBytes ≤ pa m ∨ pa m + i.accBytes ≤ pa l) →
      Leads (.st core (slot, ecc)) s fun d' =>
        let byte (l o : Nat) : Byte := if i.accBytes = 8 then ((g.rd64 i.bs i.b l) >>> (8 * o)).truncate 8
          else ((g.srcB i l) >>> (8 * o)).truncate 8
        (∃ w ∈ (d'.core core).wb, w.line = line ∧ w.cid = g.cid ∧ w.lastWrite = d.time
          ∧ ∀ l ∈ g.memLanes i, ∀ o, o < i.accBytes → lookup? w.bytes ((pa l + o) % 128) = some (byte l o))
        ∧ d'.mem.bytes = d.mem.bytes ∧ d'.mem.canopy = d.mem.canopy
        ∧ ∃ g', d'.group? core slot = some g' ∧ g'.stack = popStack (setTopPc (g.pc + 8) g.stack) ∧ g'.treg = g.treg)

/-- ATOM on one local line, relaxed, with nothing outstanding on the line: the line leaves the L1, and one request with
a sub-operation for each distinct address goes to its home. PF of the canopy sends a hint for the line. L1INV of the
whole L1 empties it and cancels its fills. -/
def Obligations.AtomicsPrefetchesAndInvalidations : Prop :=
  ∀ (s : State) (core slot line : Nat) (g : Group) (i : TgInst) (pa : Nat → Nat), let d := s.dev; let k := s.dev.core core
    let goesOn (d' : Dev) : Prop := ∃ g', d'.group? core slot = some g'
      ∧ g'.stack = popStack (setTopPc (g.pc + 8) g.stack) ∧ g'.treg = g.treg ∧ g'.sreg = g.sreg
    (Issues d core slot 0x42 g i → InLine d core g i line pa → HomeLine d line → i.mod_ / 64 % 4 = 0 → k.mregs = [] →
      k.atoms = [] → k.wb = [] → (regionOf (localOf (line * 128))).isBiv = false →
      Leads (.atom core slot) s fun d' => goesOn d' ∧ (∀ y ∈ (d'.core core).l1, y.line ≠ line % 2 ^ 37)
        ∧ ∃ t r subs, d'.mem.reqs = [(t, r)] ∧ r.kind = .atomic (i.mod_ % 8) (i.mod_ / 8 % 8) subs ∧ r.addr = line * 128
          ∧ (∀ l ∈ g.memLanes i, ∃ sub ∈ subs, sub.addr = localOf (pa l) ∧ l ∈ sub.lanes.map fun x => x.1)
          ∧ (subs.map fun x => x.addr).Nodup)
    ∧ (Issues d core slot 0x43 g i → InLine d core g i line pa → HomeLine d line → i.mod_ % 2 = 1 →
      Leads (.pf core slot) s fun d' => goesOn d' ∧ ∃ t r, d'.mem.reqs = [(t, r)] ∧ r.kind = .read ∧ r.org = .hint
        ∧ r.addr = line * 128)
    ∧ (Issues d core slot 0x44 g i → i.mod_ % 2 = 1 → d.mem.reqs = [] → lookup? k.loads 0 = none →
      Leads (.l1inv core slot) s fun d' => goesOn d' ∧ (d'.core core).l1 = []
        ∧ (∀ m ∈ (d'.core core).mregs, m.2.cancelled = true) ∧ d'.mem.bytes = d.mem.bytes)

/-- FENCE, FENCE_COMPLETE, FLGSET, FLGWAIT, FLGWAIT_SATISFIED, FLGRD: a fence notes what it waits for and is over when
nothing of it is left, which invalidates the L1 unless it is a release fence; the local flags are written and read at
their bank, and a FLGWAIT receives the flag once it is at its threshold and its bank grants the read. -/
def Obligations.FencesAndFlags : Prop :=
  ∀ (s : State) (core slot : Nat) (g : Group) (i : TgInst), let d := s.dev; let k := s.dev.core core
    (Issues d core slot 0x45 g i → d.mem.reqs = [] → k.wb = [] → Leads (.fence core slot) s fun d' => ∃ g',
      d'.group? core slot = some g' ∧ g'.stack = popStack (setTopPc (g.pc + 8) g.stack)
      ∧ g'.barriers = g.barriers ++ [.fence (i.mod_ % 4)
          ((g.accs.filter fun a => i.mod_ % 4 != 0 || a.kind != 1).map fun a => a.id) []])
    ∧ (∀ kind accs wbs, d.group? core slot = some g → g.barriers = [.fence kind accs wbs] →
      d.fenceClear core g kind accs wbs = true → Leads (.fenceComplete core slot) s fun d' =>
        (∃ g', d'.group? core slot = some g' ∧ g'.barriers = [] ∧ g'.stack = g.stack)
        ∧ (kind ≠ 1 → (d'.core core).l1 = []) ∧ (kind = 1 → (d'.core core).l1 = k.l1))
    ∧ (Issues d core slot 0x48 g i → Leads (.flgset core slot) s fun d' => ∃ a,
        (d'.core core).spadQ = k.spadQ ++ [SpadReq.mk
          (.flgset slot a (i.imm16 % 64) (i.mod_ % 2 == 1) (g.s i.b) (g.rdPois true i.b 0))
          (flagOffset (i.imm16 % 64) / 64 * 64) true d.time]
        ∧ ∃ g', d'.group? core slot = some g' ∧ g'.accs = g.accs ++ [{ id := a, kind := 1 }])
    ∧ (Issues d core slot 0x49 g i → Leads (.flgwait core slot) s fun d' => ∃ g', d'.group? core slot = some g'
        ∧ g'.barriers = g.barriers ++ [.flgwait (i.imm16 % 64) (g.s i.b) i.d] ∧ g'.notReady = g.notReady ++ [.s i.d])
    ∧ (∀ f th dest ecc, d.group? core slot = some g → g.barriers = [.flgwait f th dest] →
      th.toNat ≤ (d.flagSeen core f).1.toNat →
      let bank := bankOfUnit (flagOffset f / 64 * 64)
      (d.bankOk core bank 6 = true → Leads (.flgwaitSatisfied core (slot, ecc)) s fun d' => (∃ g',
        d'.group? core slot = some g' ∧ g'.barriers = [] ∧ g'.s dest = (d.flagSeen core f).1 ∧ .s dest ∉ g'.notReady
        ∧ g'.treg = g.treg ∧ g'.preg = g.preg) ∧ lookup? (d'.core core).bankAt bank = some d.time
        ∧ d'.mem.bytes = d.mem.bytes ∧ (ecc = .clean → d'.mem = d.mem))
      ∧ (d.bankOk core bank 6 = false → Gives (.flgwaitSatisfied core (slot, ecc)) s d))
    ∧ (Issues d core slot 0x4A g i → Leads (.flgrd core slot) s fun d' => ∃ id op,
        lookup? (d'.core core).loads id = some op ∧ op.dest = i.d ∧ op.scalar = true ∧ op.minLat = 6 ∧ op.width = 4
        ∧ (d'.core core).spadQ = k.spadQ ++ [SpadReq.mk (.load core id) (flagOffset (i.imm16 % 64) / 64 * 64) true
          d.time]
        ∧ ∃ g', d'.group? core slot = some g' ∧ g'.notReady = g.notReady ++ [.s i.d])

/-- WB_ENTRY_TIMEOUT, RELEASE_SEND, WB_DRAIN_ACK: an entry drains 64 cc after its last write, as one write with its
mask; a release store drains when what it waited for is gone; the acknowledgement frees the entry and performs its
stores. -/
def Obligations.WriteBufferDrains : Prop :=
  ∀ (s : State) (core : Nat) (w : WbEntry), let d := s.dev; let k := s.dev.core core
    let sent (d' : Dev) : Prop :=
      (∃ w', (d'.core core).wb = [w'] ∧ w'.id = w.id ∧ w'.draining = true ∧ w'.tag = some d.mem.nextTag
        ∧ w'.bytes = w.bytes)
      ∧ ∃ r, d'.mem.reqs = [(d.mem.nextTag, r)] ∧ r.addr = w.line * 128 ∧ r.org = .drain core w.id
        ∧ r.cid = some w.cid ∧ ∃ ps, r.kind = .write w.bytes ps
    (∀ ecc, k.wb = [w] → w.draining = false → w.release = none → w.tag = none → w.lastWrite + 64 ≤ d.time →
      d.mem.reqs = [] → devOf (w.line * 128) = d.ownId → Leads (.wbEntryTimeout core w.id ecc) s sent)
    ∧ (∀ slot accs wbs g, k.wb = [w] → w.release = some (slot, accs, wbs) → w.tag = none → d.group? core slot = some g →
      (∀ a ∈ g.accs, a.id ∉ accs) → w.id ∉ wbs → (d.ctx g.cid).carriedWrites = 0 → k.atoms = [] → d.mem.reqs = [] →
      devOf (w.line * 128) = d.ownId → Leads (.releaseSend core slot) s sent)
    ∧ (∀ t r, k.wb = [w] → w.tag = some t → d.mem.reqs = [(t, r)] → r.st = 2 → r.status = 0 → r.orphan = false →
      k.stage = none → k.atoms = [] → Leads (.wbDrainAck core w.id) s fun d' => (d'.core core).wb = []
        ∧ d'.mem.reqs = [] ∧ d'.mem.bytes = d.mem.bytes
        ∧ ∀ n g, d.group? core n = some g → ∃ g', d'.group? core n = some g' ∧ g'.accs = g.accs.filter fun a =>
            a.wb != some w.id)

/-- LOAD_DATA_RETURN, ATOM_RETURN, GROUP_LIVELOCK, SCRATCHPAD_BANK_ACCESS: answers reach the registers, except of a core
that is saved, where they wait for CARRIED_REPLY; a group whose
repeats reached 2^20 faults with FLT_GROUP_LIVELOCK; a bank grants one request in a cc, and a granted store is in the
scratchpad, every other byte of memory as before. -/
def Obligations.ReturnsAndBankGrants : Prop :=
  ∀ (s : State) (core slot : Nat) (g : Group), let d := s.dev; let k := s.dev.core core
    d.group? core slot = some g →
    (∀ tag r id op, d.mem.reqs = [(tag, r)] → r.st = 2 → r.org = .load core id → r.status = 0 → r.orphan = false →
      k.saved = false → k.stage = none → lookup? k.loads id = some op → op.slot = slot → op.got = [] →
        op.acquire = false →
      op.at_ + op.minLat ≤ d.time → op.lanes ≠ [] →
      (∀ l ∈ op.lanes, l.2 / 128 = r.addr / 128 ∧ (l.2 + op.width - 1) / 128 = r.addr / 128) → 0 < op.width →
      (op.lanes.map fun l => l.1).Nodup →
      Leads (.loadDataReturn core tag) s fun d' => d'.mem.reqs = [] ∧ lookup? (d'.core core).loads id = none
        ∧ ∃ (g' : Group) (op' : LoadOp), d'.group? core slot = some g' ∧ op'.lanes = op.lanes
          ∧ g'.treg = (g.wrAll (op.lanes.flatMap fun l => destVals op.scalar op.dest l.1 (op.width == 8) (op'.value l.1)
              (op'.pois.contains l.1))).treg
          ∧ op'.width = op.width ∧ op'.signed = op.signed
          ∧ ∀ l ∈ op.lanes, ∀ o, o < op.width →
              (op'.got.find? fun x => x.1 == l.1 && x.2.1 == o).map (fun x => x.2.2)
                = some ((r.resp[(l.2 + o) % 128]?).getD 0))
    ∧ (∀ tag r id a, d.mem.reqs = [(tag, r)] → r.st = 2 → r.org = .atom core id → r.status = 0 → r.orphan = false →
      k.saved = false → k.stage = none → lookup? k.atoms id = some a → a.slot = slot → a.sent = true →
        a.await = [tag] → a.remote = true →
      Leads (.atomReturn core tag) s fun d' => d'.mem.reqs = [] ∧ lookup? (d'.core core).atoms id = none
        ∧ ∃ g', d'.group? core slot = some g' ∧ g'.repeatCnt = 0 ∧ ∀ x ∈ g'.accs, x.id ≠ id)
    ∧ (∀ tag, k.saved = true → Gives (.loadDataReturn core tag) s d ∧ Gives (.atomReturn core tag) s d)
    ∧ (g.liveDue = true → g.halted = false → g.compat = false → k.flt.valid.bit = false → (d.ctx g.cid).live = true →
      Leads (.groupLivelock core slot) s fun d' => (d'.core core).flt.valid.bit = true ∧ (d'.core core).flt.code = 6
        ∧ (d'.core core).flt.slot = slot ∧ (d'.core core).flt.pc = g.livePc ∧ (d'.ctx g.cid).dying = true)
    ∧ (∀ bank r acc bs, k.spadQ = [r] → bankOfUnit r.unit = bank → r.kind = .store core slot acc bs [] →
      d.bankOk core bank (r.cls d.time) = true → k.bankWait = [] → k.testing = false → k.stage = none →
      core < 256 → r.unit + 64 ≤ 0x200000 → (∀ b ∈ bs, b.1 < 64) →
      Leads (.scratchpadBankAccess core bank .clean) s fun d' => (d'.core core).spadQ = []
        ∧ lookup? (d'.core core).bankAt bank = some d.time
        ∧ (∀ a, (∀ b ∈ bs, a ≠ spadAddr core r.unit + b.1) → byteAt d'.mem.bytes a = byteAt d.mem.bytes a)
        ∧ (bs.length = 1 → ∀ b ∈ bs, byteAt d'.mem.bytes (spadAddr core r.unit + b.1) = b.2)
        ∧ ∃ g', d'.group? core slot = some g' ∧ ∀ x ∈ g'.accs, x.id ≠ acc)

/-! ## The array -/

/-- SEQ_NOP, WAIT, SETB, ADDB, LOOP, WAITF, END and the expiry of a WAIT: what the sequencer's own instructions leave.
Each occupies one ac but WAIT, which occupies N; a WAITF that finds its flag at the threshold goes on at once. LOOP
opens or closes its level before the levels that end at its own address are looked at (log 147: a LOOP with COUNT 0
leaves those alone). -/
def Obligations.SequencerInstructions : Prop :=
  ∀ (s : State) (core w : Nat), let d := fetched s.dev core
    let goes (k : Instr) (op : Nat) (f : Seq → Seq) : Prop := SeqIssues s.dev core op w →
      Gives k s (d.modSeq core fun q => q.issued (f q) s.dev.time)
    let reg := w / 2 ^ 8 % 2 ^ 3
    let n := w / 2 ^ 16 % 2 ^ 16
    let stop := w / 2 ^ 32 % 2 ^ 16
    goes (.seqNop core) 0x00 (fun q => q.advance 1)
    ∧ goes (.wait core) 0x01 (fun q => { q.advance (w / 2 ^ 8 % 2 ^ 24) with waiting := true })
    ∧ goes (.setb core) 0x08 (fun q => { q.advance 1 with base := tput 0 q.base reg (w / 2 ^ 32 % 2 ^ 21) })
    ∧ goes (.addb core) 0x09 (fun q => { q.advance 1 with
        base := tput 0 q.base reg ((tget 0 q.base reg + w / 2 ^ 32 % 2 ^ 32) % 0x200000) })
    ∧ (n = 0 → goes (.loop core) 0x0C (fun q => { q.advance 1 with
        loops := tdel q.loops (w / 2 ^ 8 % 2 ^ 2), pc := stop + 8 }))
    ∧ (n ≠ 0 → goes (.loop core) 0x0C (fun q => { q with
        loops := tset q.loops (w / 2 ^ 8 % 2 ^ 2) { start := q.pc + 8, end_ := stop, count := n } }.advance 1))
    ∧ ((s.dev.waitfSees core w).2 = false → s.dev.waitfReady core w = true →
        goes (.waitf (core, .clean)) 0x41 (fun q => q.advance 1)
        ∧ (SeqIssues s.dev core 0x41 w → Leads (.waitf (core, .corrected)) s fun d' =>
          (d'.core core).seq = (s.dev.core core).seq.issued ((s.dev.core core).seq.advance 1) s.dev.time
          ∧ (d'.core core).spadCe = (s.dev.core core).spadCe.bump 0xFFFF 1 s.dev.time)
        ∧ ((s.dev.core core).seq.st = 3 → goes (.waitfSatisfied (core, .clean)) 0x41 (fun q => q.advance 1)))
    ∧ goes (.end_ core) 0x7F (fun q => { q.advance 1 with pc := q.pc, endAt := some (max q.ac q.lastWrite + 1) })
    ∧ ((s.dev.core core).seq.waiting = true → (s.dev.core core).seq.issueAt ≤ (s.dev.core core).seq.ac →
        Gives (.waitExpiry core) s (s.dev.modSeq core fun q => { q with waiting := false }))

/-- LDW, LDWT, STATIONARY_LOAD_DONE, SEQ_UNIT_FREE: a stationary load with a sound descriptor, once the banks grant its
read, takes the feeder for 64 ac, in which it reads 64 rows; until the banks grant it nothing issues; the loaded block
becomes the stationary buffer's content; an instruction that waited for its unit issues as it would have. -/
def Obligations.StationaryLoads : Prop :=
  ∀ (s : State) (core w : Nat) (b : List Byte) (seen : EccSeen), let d := s.dev; let q := (s.dev.core core).seq
    let off := q.descOff (w / 2 ^ 8 % 2 ^ 3) (w / 2 ^ 32 % 2 ^ 16)
    let loads (k : Instr) (op : Nat) (trans : Bool) : Prop :=
      SeqIssues d core op w → d.seqRead core off 32 = (b, false) →
        Granted (fetched d core) core 4 0 (unitsOf off 32) → Mild seen →
      q.statOk b trans = true → Leads k s fun d' => let q' := (d'.core core).seq
        q'.feederFree = q.ac + 64 ∧ q'.issueAt = q.ac + 1 ∧ q'.base = q.base ∧ d'.mem = d.mem
        ∧ (d'.core core).block = (d.core core).block
        ∧ ∃ l, q'.load = some l ∧ l.n = q.ac ∧ l.done = 0 ∧ l.blk.fmt = dByte b 0x10 ∧ l.blk.trans = trans
          ∧ l.src = q.addrField (dWord b 0) ∧ l.stride = dWord b 4
    loads (.ldw (core, seen)) 0x10 false ∧ loads (.ldwt (core, seen)) 0x11 true
    ∧ (q.st = 2 → loads (.seqUnitFree (core, seen)) 0x10 false ∧ loads (.seqUnitFree (core, seen)) 0x11 true)
    ∧ (SeqIssues d core 0x10 w → ¬ Granted (fetched d core) core 4 0 (unitsOf off 32) → Leads (.ldw (core, seen)) s fun d' =>
        (d'.core core).seq.pc = q.pc ∧ (d'.core core).seq.issueAt = q.issueAt ∧ (d'.core core).seq.load = q.load
        ∧ d'.mem = d.mem)
    ∧ (d.arrayRuns core = false → Gives (.stationaryLoadDone core) s d)
    ∧ (∀ l, d.arrayRuns core = true → q.load = some l → l.done = 64 → l.n + 64 ≤ q.ac →
      Leads (.stationaryLoadDone core) s fun d' =>
        (d'.core core).block = l.blk ∧ (d'.core core).seq = { q with load := none } ∧ d'.mem = d.mem
        ∧ (d'.core core).tiles = (d.core core).tiles)

/-- PASS, ACLR, ADRN: with its descriptor's read granted, a pass with a sound descriptor takes the feeder for K·M ac,
and its last result row raises the program's last write; a pass of no rows takes no ac and clears its tile when CLEAR
is 1; ACLR clears a tile; a drain takes the converter for 64 ac with the tile as it stands. -/
def Obligations.PassesAndDrains : Prop :=
  ∀ (s : State) (core w : Nat) (b : List Byte) (seen : EccSeen),
    let d := s.dev; let k := s.dev.core core; let q := (s.dev.core core).seq
    let tile := w / 2 ^ 8 % 2 ^ 2
    let clear : Bool := w / 2 ^ 10 % 2 == 1
    let m := w / 2 ^ 12 % 2 ^ 7
    let off := q.descOff (w / 2 ^ 22 % 2 ^ 3) (w / 2 ^ 32 % 2 ^ 16)
    let desc := d.seqRead core off 32
    let ready := Granted (fetched d core) core 4 0 (unitsOf off 32) ∧ Mild seen
    let row0 := (tget 0 q.base (w / 2 ^ 19 % 2 ^ 3) + 32 * (w / 2 ^ 48 % 2 ^ 16)) % 0x200000
    let wfmt := match q.load with | some l => l.blk.fmt | none => k.block.fmt
    (SeqIssues d core 0x20 w → ready → desc = (b, false) → passOk b wfmt row0 = true → m ≠ 0 →
      Leads (.pass (core, seen)) s fun d' =>
      let q' := (d'.core core).seq
      ∃ p, q'.passes = q.passes ++ [p] ∧ p.n = q.ac ∧ p.pc = q.pc ∧ p.m = m ∧ p.tile = tile ∧ p.clear = clear
        ∧ p.row0 = row0
        ∧ p.k = classK (dByte b 0) ∧ p.sfmt = dByte b 0 ∧ p.blk = k.block ∧ p.rows = [] ∧ p.written = 0
        ∧ q'.feederFree = q.ac + p.k * m ∧ q'.issueAt = q.ac + 1
        ∧ q'.lastWrite = max q.lastWrite (q.ac + p.k * (m - 1) + p.k - 1 + 128)
        ∧ (d'.core core).tiles = k.tiles ∧ d'.mem = d.mem)
    ∧ (SeqIssues d core 0x20 w → ready → desc = (b, false) → passOk b wfmt row0 = true → m = 0 →
      Leads (.pass (core, seen)) s fun d' =>
      (d'.core core).seq.issueAt = q.issueAt ∧ (d'.core core).seq.passes = q.passes ∧ d'.mem = d.mem
      ∧ (clear = true → ∀ r, r < 64 → ((d'.core core).tileRow tile r).vals = []
        ∧ ((d'.core core).tileRow tile r).pois = false)
      ∧ (clear = false → (d'.core core).tiles = k.tiles))
    ∧ (SeqIssues d core 0x30 w → Leads (.aclr core) s fun d' =>
      (∀ r, r < 64 → ((d'.core core).tileRow tile r).vals = [] ∧ ((d'.core core).tileRow tile r).pois = false)
      ∧ (∀ t r, t < 4 → t ≠ tile → r < 64 → (d'.core core).tileRow t r = k.tileRow t r)
      ∧ (d'.core core).seq.issueAt = q.ac + 1 ∧ d'.mem = d.mem)
    ∧ (SeqIssues d core 0x31 w → ready → desc = (b, false) → q.drainOk b = true → q.audit = false →
      Leads (.adrn (core, seen)) s fun d' =>
      let q' := (d'.core core).seq
      ∃ x, q'.drains = q.drains ++ [x] ∧ x.n = q.ac ∧ x.rows = dByte b 0x1A ∧ x.ofmt = dByte b 0x18
        ∧ x.dst = q.addrField (dWord b 0) ∧ x.stoch = (dByte b 0x19 % 2 == 1) ∧ x.written = 0
        ∧ ((∀ r e, r < 64 → e ∈ ((k.tileRow tile r).seenAt q.ac).1 → e.1 < 64) → ∀ r j, r < 64 → j < 64 →
            tget 0 x.tile (64 * r + j) = tget 0 ((k.tileRow tile r).seenAt q.ac).1 j) ∧ q'.convFree = q.ac + 64
              ∧ q'.issueAt = q.ac + 1
        ∧ (d'.core core).tiles = k.tiles ∧ d'.mem = d.mem)

/-- PASS_ROW_ENTER, PASS_ROW_WRITE, CONVERTED_ROW_WRITE, SETF: while the array runs and the banks grant what each
needs, rows enter in their order from the scratchpad; a result row is the accumulation of the row's block sums onto
the tile in some order of the blocks; a row in which the residue check of a block fails is written poisoned, and the
lowest such block is recorded with FLT_RESIDUE at the pass (R251); a converted row and a flag are written to the
scratchpad, and no other byte of memory changes. -/
def Obligations.RowsEnterAndLeave : Prop :=
  ∀ (s : State) (core : Nat), let d := s.dev; let k := s.dev.core core; let q := (s.dev.core core).seq
    d.arrayRuns core = true →
    (∀ p seen, q.enterDue = some p → Granted d core 4 1 q.enterUnits → Mild seen →
      Leads (.passRowEnter core seen) s fun d' => ∃ row : StreamRow,
        (d'.core core).seq.passes = (q.setPass p.n (fun p => { p with
          rows := p.rows ++ [row], capture := if row.pois then none else p.capture })).passes
        ∧ (d'.core core).seq.ac = q.ac ∧ (d'.core core).seq.pc = q.pc
        ∧ row.elems = unpackRow p.sfmt (rowElems p.sfmt)
            (d.seqRead core (p.rowOff p.rows.length) (packedBytes p.sfmt (rowElems p.sfmt))).1
        ∧ d'.mem = d.mem ∧ (d'.core core).tiles = k.tiles)
    ∧ (∀ p row us f rest, q.writeDue = some p → p.rows[p.written]? = some row → d.aclrFirst core p.tile = false →
      failing (rowSums p row us) = f :: rest → p.tile < 4 → p.written < 64 → k.resValid.bit = false →
      k.flt.valid.bit = false → q.compat = false → (d.ctx q.cid).live = true → Leads (.passRowWrite core us) s fun d' =>
        let k' := d'.core core
        (k'.tileRow p.tile p.written).pois = true ∧ k'.resValid.bit = true ∧ k'.resTile = p.tile ∧ k'.resRow = p.written
        ∧ k'.resCol = f.1 ∧ k'.resBlock = f.2 ∧ k'.resCnt = k.resCnt.bump 0xFF (rest.length + 1) d.time
        ∧ k'.flt.valid.bit = true ∧ k'.flt.code = 8 ∧ k'.flt.slot = 48 ∧ k'.flt.pc = p.pc ∧ (d'.ctx q.cid).dying = true)
    ∧ (∀ p row, q.writeDue = some p → p.rows[p.written]? = some row → p.clear = false → d.aclrFirst core p.tile = false →
      Leads (.passRowWrite core []) s fun d' => ∃ pick : Nat → Nat,
        let x := (d'.core core).tileRow p.tile p.written
        let old := k.tileRow p.tile p.written
        x.vals = resultRow false old.vals ((rowSums p row []).map fun l => l.map fun b => b.1) pick
        ∧ x.pois = (row.pois || p.blk.pois || old.pois)
        ∧ (∀ t r, t < 4 → r < 64 → (t ≠ p.tile ∨ r ≠ p.written) → p.tile < 4 → p.written < 64 →
            (d'.core core).tileRow t r = k.tileRow t r)
        ∧ (d'.core core).seq = q.setPass p.n (fun p' => { p' with written := p.written + 1 }) ∧ d'.mem = d.mem)
    ∧ (∀ x, core < 256 → q.convDue = some x → x.add = none → Granted d core 3 4 q.convertUnits →
      Leads (.convertedRowWrite core) s fun d' =>
        (∀ a, regionOf a ≠ .spad core → byteAt d'.mem.bytes a = byteAt d.mem.bytes a)
        ∧ (d'.core core).tiles = k.tiles
        ∧ (d'.core core).seq.drains = q.drains.map fun (y : DrainFl) =>
            if y.n == x.n then { y with written := x.written + 1, addq := y.addq.drop 1 } else y)
    ∧ (∀ w, SeqIssues d core 0x40 w → core < 256 → let f := w / 2 ^ 8 % 2 ^ 6
      Granted (fetched d core) core 4 0 [flagOffset f / 64 * 64] → Leads (.setf core) s fun d' =>
        (d'.flag core f).1 = (if w / 2 ^ 14 % 2 = 1 then (d.flag core f).1 + BitVec.ofNat 32 (w / 2 ^ 32)
          else BitVec.ofNat 32 (w / 2 ^ 32 % 2 ^ 32))
        ∧ (∀ a, (a < spadAddr core (flagOffset f) ∨ spadAddr core (flagOffset f) + 4 ≤ a) →
            byteAt d'.mem.bytes a = byteAt d.mem.bytes a)
        ∧ (d'.core core).seq.issueAt = q.ac + 1 ∧ (d'.core core).tiles = k.tiles)

/-- ARRAY_PROGRAM_START, PROGRAM_COMPLETE: a started program clears the array when another context ran before it, and
begins at its SEQ_PC 16 cc later then, with nothing issued; a program whose END and last write are past is over, and
its node has one program less to wait for. -/
def Obligations.ArrayPrograms : Prop :=
  ∀ (s : State) (core : Nat), let d := s.dev; let k := s.dev.core core
    (∀ n rest nd, k.progQueue = n :: rest → d.node? n = some nd → k.seq.st = 0 → k.saved = false → k.testing = false →
      (d.ctx nd.cid).live = true → d.checksPending core = false → Leads (.arrayProgramStart core) s fun d' =>
        let k' := d'.core core
        let fresh := k.prevCid ≠ some nd.cid
        k'.progQueue = rest ∧ k'.prevCid = some nd.cid ∧ k'.seq.st = 1 ∧ k'.seq.pc = nd.field 0x2C 2
        ∧ k'.seq.cid = nd.cid ∧ k'.seq.ac = 0 ∧ k'.seq.begun = false ∧ k'.seq.audit = (d.ctx nd.cid).audit
          ∧ k'.seq.base = k.seq.base
        ∧ (fresh → k'.tiles = [] ∧ k'.block = {} ∧ k'.seq.from_ = d.time + 16)
        ∧ (¬fresh → k'.block = k.block ∧ k'.seq.from_ = d.time) ∧ d'.mem = d.mem)
    ∧ (∀ e nd, k.seq.endAt = some e → e ≤ k.seq.ac → k.seq.writeDue = none → k.seq.convDue = none →
      d.arrayRuns core = true →
      k.seq.load = none → d.node? k.seq.node = some nd → Leads (.programComplete core) s fun d' =>
        (d'.core core).seq.st = 0 ∧ (d'.core core).seq.endAt = none ∧ (d'.core core).seq.passes = []
        ∧ (d'.core core).tiles = k.tiles ∧ d'.mem.bytes = d.mem.bytes
        ∧ d'.node? k.seq.node = some { nd with progsLeft := nd.progsLeft - 1 })


/-! ## Registers -/

/-- A counter that a read clears, and a bit that a 1 written clears: a read in the cc of an event returns the value
from before that cc, and the event is in the next read's value; a 1 written clears a bit unless the device set it in
that very cc. -/
def Obligations.ReadClearsAndWriteOneClears : Prop :=
  (∀ (r : Rc) (max n t : Nat), ((r.bump max n t).read t).1 = (r.read t).1)
  ∧ (∀ (r : Rc) (max n t u : Nat), r.at_ < t → t < u → (r.read t).1 ≤ max →
      ((r.bump max n t).read u).1 = min max ((r.read t).1 + n))
  ∧ (∀ (r : Rc) (max n t u : Nat), r.at_ < t → t < u → n ≤ max →
      (((r.bump max n t).read t).2.read u).1 = n)
  ∧ (∀ (r : Rc) (t u : Nat), r.at_ < t → t < u → ((r.read t).2.read u).1 = 0)
  ∧ (∀ (w : W1c) (t : Nat), (w.set t).bit = true ∧ (w.set t).clear t = w.set t)
  ∧ (∀ (w : W1c) (t u : Nat), t ≠ u → ((w.set t).clear u).bit = false)

/-- RC_READ, REG_WRITE, CMD_HALF_WRITE, IFVER_SEL_WRITE: a read returns the register's word (two for 8 B) and changes
nothing but counters that a read clears; a function that does not reach a register reads 0 and writes nothing; a 1 in
VALID clears a core's fault record; CORE_DBG_RSEL takes what is written to it of an unlocked pitch; a command's low
half is held for the function; IFVER_SEL accepts version 1.0 alone. -/
def Obligations.RegisterAccesses : Prop :=
  ∀ (s : State) (fn : Fn) (off : Nat), let d := s.dev
    (∀ width, width = 4 ∨ width = 8 → Leads (.rcRead fn off width) s fun d' =>
      d'.out = .regData (BitVec.ofNat 64 (d.word fn off + if width = 8 then d.word fn (off + 4) * 2 ^ 32 else 0)) :: d.out
      ∧ d'.mem.bytes = d.mem.bytes ∧ d'.time = d.time ∧ d'.boot = d.boot ∧ d'.sec = d.sec ∧ d'.plan = d.plan
      ∧ d'.xl = d.xl ∧ d'.board = d.board)
    ∧ (d.canRead fn off = false → d.word fn off = 0 ∧ Gives (.rcRead fn off 4) s (d.emit (.regData 0))
        ∧ ∀ v, Gives (.regWrite fn off 4 v) s d)
    ∧ (off = 0x44 → d.canRead fn off = true → Leads (.rcRead fn off 4) s fun d' =>
        d'.power = { d.power with pcieUnlock := (d.power.pcieUnlock.read d.time).2 })
    ∧ (∀ (core : Nat) (v : W64), off = coreBase + 0x1000 * core + 0x410 → core < 256 → d.canRead fn off = true →
      d.reach fn = true → d.boot.recovery = false → v.getLsbD 31 = true → Leads (.regWrite fn off 4 v) s fun d' =>
        (d'.core core).flt = { (d.core core).flt with valid := (d.core core).flt.valid.clear d.time }
        ∧ (∀ c, c ≠ core → d'.core c = d.core c) ∧ { d' with cores := d.cores } = d)
    ∧ (∀ (core : Nat) (v : W64), off = coreBase + 0x1000 * core + 0x450 → core < 256 → d.canRead fn off = true →
      d.reachDbg fn core = true → Gives (.regWrite fn off 4 v) s
        (d.modCore core fun k => { k with dbgRsel := BitVec.ofNat 32 (v.toNat % 2 ^ 32) }))
    ∧ (∀ (reg : CmdReg) (lo : W32), d.reachCmd fn reg = true → Gives (.cmdHalfWrite fn reg lo) s
        (d.modFunc fn fun f => { f with held := tset f.held (cmdRegIdx reg) lo }))
    ∧ (∀ v : W32, d.reachPf fn = true → d.fullService = true → (∀ x ∈ d.host.ctxs, x.2.slot = none) →
      Leads (.ifverSelWrite fn v) s fun d' => d'.host.ifverSel = v.truncate 16
        ∧ (d'.host.accepted = true ↔ v.toNat % 65536 = 0x100) ∧ (d'.host.refused = true ↔ v.toNat % 65536 ≠ 0x100)
        ∧ { d' with host := d.host } = d)
    ∧ (∀ v : W32, (∃ x ∈ d.host.ctxs, x.2.slot ≠ none) → Gives (.ifverSelWrite fn v) s d)

/-- STAGED_WRITE, RANGE_TABLE_COMMIT, QUEUE_RING_COMMIT, EDGE_SPILL_COMMIT, ROUNDING_SEED_COMMIT: a staged half changes
nothing but its shadow; the commit takes the pair and the operand together, which are live from the end of its cc, and
what R328, R358 and R246 add happens with that; a commit whose condition fails changes nothing. -/
def Obligations.StagedPairs : Prop :=
  ∀ (s : State) (fn : Fn) (cid : Nat), let d := s.dev; let x := s.dev.ctx cid
    (∀ v : W64, d.reachPf fn = true → cid < 4096 →
      Leads (.stagedWrite fn (xlBase + 0x10000 + 16 * cid) 8 v) s fun d' =>
        (d'.ctx cid) = { x with rtabShadow := v.toNat / 2 ^ 12 % 2 ^ 32 * 2 ^ 12 }
        ∧ (∀ c, c ≠ cid → d'.ctx c = d.ctx c) ∧ { d' with host := d.host } = d)
    ∧ (∀ v : W32, let n := v.toNat % 2 ^ 13
      d.reachPf fn = true → cid < 4096 → n ≤ 4096 → d.invalHeld cid = false → x.rtabShadow + 32 * n ≤ 0x400000000 →
      x.rtabShadow < 0x400000000 → (n ≠ 0 → allGrans x.rtabShadow (32 * n) (fun g => d.granKind g == 1) = true) →
      Commits (.rangeTableCommit fn cid v) s (.rangeTable cid x.rtabShadow n) fun d' => d'.ctx cid = { x with rtabBase := x.rtabShadow, rtabCount := n }
        ∧ (∀ t e, e ∈ tget [] d'.xl.cache t → e.cid ≠ cid) ∧ d'.mem = d.mem)
    ∧ (∀ q (v : W32), let n := v.toNat % 2 ^ 5; let u := x.queue q
      d.reachCtx fn cid = true → q < 8 → x.exists_ = true → x.dying = false → (n = 0 ∨ (6 ≤ n ∧ n ≤ 16)) →
      (u.head = u.tail ∨ u.stopped = true) →
      Commits (.queueRingCommit fn cid q v) s (.queueRing cid q u.baseShadow n) fun d' =>
        (d'.queue cid q).base = u.baseShadow ∧ (d'.queue cid q).log2 = n ∧ (d'.queue cid q).head = 0
        ∧ (d'.queue cid q).tail = 0 ∧ (d'.queue cid q).stopped = false ∧ (d'.queue cid q).cmds = []
        ∧ (∀ p, p ≠ q → d'.queue cid p = d.queue cid p) ∧ { d' with host := d.host } = d)
    ∧ (∀ v : W32, let n := v.toNat % 2 ^ 25
      d.reachPf fn = true → cid < 4096 → x.exists_ = true → x.dying = false → n ≤ 2 ^ 24 → d.edgesSpilled cid = 0 →
      x.spillShadow * 4096 + 4 * n ≤ 0x400000000 →
      (n ≠ 0 → allGrans (x.spillShadow * 4096) (4 * n) (fun g => d.granOwner g == some x.pitch) = true) →
      Commits (.edgeSpillCommit fn cid v) s (.edgeSpill cid x.spillShadow n) fun d' =>
        d' = d.modCtx cid fun x => { x with spillBase := x.spillShadow, spillLimit := n })
    ∧ (∀ v : W32, d.reachPf fn = true → cid < 4096 → x.exists_ = true → x.dying = false → v.toNat % 2 ^ 25 = 0 →
      d.edgesSpilled cid = 0 → Gives (.edgeSpillCommit fn cid v) s (d.pairDue (.edgeSpill cid x.spillShadow 0)))
    ∧ (∀ v : W32, d.invalHeld cid = true → Gives (.rangeTableCommit fn cid v) s d)
    ∧ (∀ v : W32, x.exists_ = false → Gives (.edgeSpillCommit fn cid v) s d
      ∧ ∀ q, Gives (.queueRingCommit fn cid q v) s d)
    ∧ (∀ core (v : W32), let seed : W64 := v ++ (d.core core).seedLoShadow
      (d.reachCore fn core = true → seed ≠ 0 → Commits (.roundingSeedCommit fn core v) s (.seed core 2 seed) fun d' =>
        (d'.core core).seed = seed ∧ (d'.core core).rng = seedState seed ∧ (d'.core core).rngAt = d.time ∧ d'.mem = d.mem
        ∧ (∀ c, c ≠ core → d'.core c = d.core c))
      ∧ (seed = 0 → Gives (.roundingSeedCommit fn core v) s d))

/-- COUNTER_COMMIT, WATCHPOINT_COMMIT, PC_SAMPLES_COMMIT, PC_SAMPLE: a commit takes the staged half, live from the
end of its cc (R511); a counter starts at 0 in both banks; a run of samples starts unwritten; in a sample cc the cores of the pitch are numbered on in their
logical order, and each one's record goes to the place of its number in the ring. -/
def Obligations.CountersAndSamples : Prop :=
  ∀ (s : State) (fn : Fn) (pitch n : Nat), let d := s.dev; let c := s.dev.pitchCnt pitch
    d.reachPitch fn pitch = true → n < 8 →
    (∀ v : W64, let sel := (tget {} c.prog n).selShadow
      sel ≤ 0x1F → v.getLsbD 35 = false →
      Commits (.counterCommit fn pitch n v) s (.counter pitch n sel (v &&& 0xFFFFFFFFFFFF)) fun d' =>
        let k := tget {} (d'.pitchCnt pitch).prog n
        k.sel = sel ∧ k.filt = v &&& 0xFFFFFFFFFFFF ∧ k.value = 0 ∧ k.epoch = 0 ∧ k.closedValue = 0 ∧ k.closedEpoch = 0
        ∧ (∀ m, m ≠ n → tget {} (d'.pitchCnt pitch).prog m = tget {} c.prog m)
        ∧ (d'.pitchCnt pitch).lant = c.lant ∧ { d' with cnt := d.cnt } = d)
    ∧ (∀ v : W64, let w := tget {} c.watch n
      (w.shadow.getLsbD 59 = false
        ∨ (w.shadow.toNat % 2 ^ 56 ≤ v.toNat % 2 ^ 56 ∧ w.shadow.toNat / 2 ^ 56 % 8 ≠ 0)) →
      Commits (.watchpointCommit fn pitch n v) s
          (.watch pitch n w.shadow (BitVec.ofNat 64 (v.toNat % 2 ^ 56))) fun d' =>
        let w' := tget {} (d'.pitchCnt pitch).watch n
        w'.base = w.shadow ∧ w'.limit.toNat = v.toNat % 2 ^ 56 ∧ w'.hits = w.hits
        ∧ (∀ m, m ≠ n → tget {} (d'.pitchCnt pitch).watch m = tget {} c.watch m) ∧ { d' with cnt := d.cnt } = d)
    ∧ (∀ v : W32, let size := v.toNat / 2 ^ 16 % 2 ^ 5; let int := v.toNat / 2 ^ 8 % 2 ^ 5
      8 ≤ int → int ≤ 24 → 12 ≤ size → size ≤ 30 → c.pcs.shadow.toNat + 2 ^ size ≤ 0x400000000 →
      allGrans c.pcs.shadow.toNat (2 ^ size) (fun g => d.granOwner g == some pitch) = true →
      Commits (.pcSamplesCommit fn pitch v) s (.samples pitch c.pcs.shadow (v &&& 0x001F1F07)) fun d' => (d'.pitchCnt pitch).pcs = { c.pcs with
          base := c.pcs.shadow, ctl := v &&& 0x001F1F07, written := 0, lost := {}, stopped := false }
        ∧ { d' with cnt := d.cnt } = d)
    ∧ (d.pitchValid pitch = true → c.pcs.ctl.getLsbD 0 = true → c.pcs.ctl.getLsbD 1 = true →
      c.pcs.ctl.getLsbD 2 = false → c.pcs.stopped = false → d.hubCc % 2 ^ (c.pcs.ctl.toNat / 2 ^ 8 % 2 ^ 5) = 0 →
      c.pcs.sampledAt ≠ some d.hubCc → d.mem.reqs = [] → d.coresOf pitch ≠ [] → (d.coresOf pitch).length ≤ 256 →
      (∀ core ∈ d.coresOf pitch, (d.core core).saved = false) → Leads (.pcSample pitch) s fun d' =>
        (d'.pitchCnt pitch).pcs = { c.pcs with
          sampledAt := some d.hubCc, written := (c.pcs.written + (d.coresOf pitch).length) % 2 ^ 32 }
        ∧ d'.cores = d.cores ∧ d'.mem.bytes = d.mem.bytes
        ∧ ∀ l core, (d.coresOf pitch)[l]? = some core → ∃ r, d'.req? (d.mem.nextTag + l) = some r ∧ r.len = 16
          ∧ r.kind = .write (withOffsets (d.threadRecord core l)) []
          ∧ r.addr = d.ownId * 2 ^ 44 + c.pcs.base.toNat
              + 16 * ((c.pcs.written + l) % 2 ^ (c.pcs.ctl.toNat / 2 ^ 16 % 2 ^ 5 - 4)))

/-- EVENT_APPLY, EVR_CLEAR, RECORDER_WINDOW_COMMIT, EVR_SCAN_DONE: the oldest event is taken, one in a hub cycle, and goes
into its bin as the hub cycle ends; EVR_CLEAR frees, at the end of its cc (log 181), the bins of the named severities and no others; a scan finds bins of its severity or above from
the cursor on, at most as many as were asked for. -/
def Obligations.EventRecorder : Prop :=
  ∀ (s : State) (fn : Fn), let d := s.dev; let r := s.dev.recorder
    (∀ e rest, r.queue = e :: rest → e.time / 2 < d.hubCc / 2 → r.lastApply ≠ some (d.hubCc / 2) →
      Gives .eventApply s (d.modRec fun r => { r with queue := rest, lastApply := some (d.hubCc / 2), applying := some e }))
    ∧ (r.applying ≠ none → d.hubCc % 2 = 0 → d.tickRecorder = d)
    ∧ (∀ e, r.applying = some e → d.hubCc % 2 = 1 →
      let r' := d.tickRecorder.recorder
      let k (b : Nat × Bin) : Bool := b.2.kind == e.kind && b.2.unit == e.unit
      { d.tickRecorder with recorder := r } = d ∧ r'.applying = none ∧ r'.queue = r.queue
      ∧ (∀ i b, r.bins.find? k = some (i, b) → (∀ j, j ≠ i → lookup? r'.bins j = lookup? r.bins j)
        ∧ ∃ b', lookup? r'.bins i = some b' ∧ b'.kind = b.kind ∧ b'.unit = b.unit ∧ b'.sev = b.sev
          ∧ b'.count = min 0xFFFFFFFF (b.count + 1) ∧ b'.firstT = b.firstT ∧ b'.lastT = e.time ∧ b'.dFirst = b.dFirst
          ∧ b'.dLast = e.detail ∧ b'.dMin = min b.dMin e.detail ∧ b'.dMax = max b.dMax e.detail
          ∧ b'.minGap = min b.minGap (e.time - b.lastT))
      ∧ (∀ i, r.bins.find? k = none → freeBin r.bins = some i → (∀ j, j ≠ i → lookup? r'.bins j = lookup? r.bins j)
        ∧ ∃ b', lookup? r'.bins i = some b' ∧ b'.kind = e.kind ∧ b'.unit = e.unit ∧ b'.sev = e.sev
          ∧ b'.count = 1 ∧ b'.firstT = e.time ∧ b'.lastT = e.time ∧ b'.dMin = e.detail ∧ b'.dMax = e.detail))
    ∧ (∀ v : W32, d.reachPf fn = true → Commits (.evrClear fn v) s (.evrClear (v.toNat % 16)) fun d' =>
        (∀ b, b ∈ d'.recorder.bins ↔ b ∈ r.bins ∧ (v.toNat % 16) / 2 ^ b.2.sev % 2 = 0)
        ∧ { d' with recorder := { d'.recorder with bins := r.bins } } = d)
    ∧ (∀ v : W32, d.reachPf fn = true → r.done = true → v.toNat % 32 ≠ 0 → v.toNat % 32 ≤ 16 →
      let p := Pair.window r.cursorShadow (v &&& 0x31F)
      Gives (.recorderWindowCommit fn v) s ((d.modRec fun r => { r with done := false }).pairDue p)
      ∧ d.applyPair p = d.modRec fun r => { r with cursor := r.cursorShadow, winCtl := v &&& 0x31F, scan := some r.bins })
    ∧ (∀ v : W32, r.done = false ∨ v.toNat % 32 = 0 ∨ 16 < v.toNat % 32 → Gives (.recorderWindowCommit fn v) s d)
    ∧ (∀ bins, r.scan = some bins → Leads .evrScanDone s fun d' =>
        d'.recorder.done = true ∧ d'.recorder.scan = none ∧ d'.recorder.bins = r.bins
        ∧ d'.recorder.found = d'.recorder.window.length
        ∧ d'.recorder.window.length ≤ r.winCtl.toNat % 32
        ∧ (∀ b ∈ d'.recorder.window, r.winCtl.toNat / 2 ^ 8 % 4 ≤ b.sev ∧ ∃ i, (i, b) ∈ bins ∧ r.cursor ≤ i)
        ∧ d' = d.modRec fun _ => d'.recorder)

/-- LINK_KEY_LOAD, LINK_KEY_USE, LINK_KEY_MODE_SET: from the end of the commit's cc, a load takes the staged key into
the named slot with both counts at 0 and sends a KEY_CHECK; a use makes the slot the transmitter's; the modes are
kept; a commit that R424 forbids changes nothing. -/
def Obligations.LinkKeys : Prop :=
  ∀ (s : State) (fn : Fn) (port : Nat) (v : W32), let d := s.dev; let q := s.dev.port port
    let slot := if v.getLsbD 0 then 1 else 0
    d.reachPf fn = true → port < 12 →
    (q.keyCommitOk v = true → v.getLsbD 1 = true →
      Commits (.linkKeyLoad fn port v) s (.linkKey port q.stagedKey v) fun d' =>
        let k := (d'.port port).key slot
        k.loaded = true ∧ k.key = q.stagedKey ∧ k.txCount = 0 ∧ k.rxCount = 0
        ∧ (d'.port port).key (1 - slot) = q.key (1 - slot) ∧ (d'.port port).keyCtl = v &&& 0x1F
        ∧ (d'.port port).keyUse = (if v.getLsbD 2 then slot else q.keyUse)
        ∧ (∃ p, tget [] (d'.port port).txq 65 = tget [] q.txq 65 ++ [p]) ∧ d'.mem = d.mem
        ∧ ∀ n, n ≠ port → d'.port n = d.port n)
    ∧ (q.keyCommitOk v = true → v.getLsbD 1 = false → v.getLsbD 2 = true →
      Commits (.linkKeyUse fn port v) s (.linkKey port q.stagedKey v) fun d' => d' = d.modPort port fun q => { q with
        keyUse := slot, keyUsed := true, keyCtl := v &&& 0x1F, keyData := [] })
    ∧ (q.keyCommitOk v = true → v.getLsbD 1 = false → v.getLsbD 2 = false →
      Commits (.linkKeyModeSet fn port v) s (.linkKey port q.stagedKey v) fun d' =>
        d' = d.modPort port fun q => { q with keyCtl := v &&& 0x1F, keyData := [] })
    ∧ (q.keyCommitOk v = false → ∀ k ∈ [Instr.linkKeyLoad fn port v, .linkKeyUse fn port v, .linkKeyModeSet fn port v],
        Gives k s d)

/-- PLN_STAGE_WRITE, PLN_COMMIT, PLAN_COMMIT_END: the window takes bytes while no commit runs; a commit begins with
phase A of the staged plan; a plan that phase A or B refuses is refused with its code and INDEX, one that passes is
held with what phase B formed; a refused commit ends with the running plan as it stood, phase E makes the formed plan
run and extends M6, and the end of an accepted commit leaves it running. -/
def Obligations.SitePlanCommits : Prop :=
  ∀ (s : State) (fn : Fn), let d := s.dev; let p := s.dev.plan
    let quiet := d.mem.reqs = [] ∧ d.sec.dbgHeld = none ∧ p.keptDoorbells = [] ∧ d.host.preWaiting = none
      ∧ p.recommitDue = [] ∧ ∀ f, (d.func f).bar4Held = [] ∧ (d.func f).xlMap = none ∧ (d.func f).xlWait = none
    let refused (c : Commit) (e : Nat × Nat) : Prop := quiet → Gives .planCommitEnd s ((d.modPlan fun x => { x with
      commit := none, reason := e.1, index := e.2, bySteward := c.bySteward }).msix 0 0)
    (∀ o width (v : W64), d.reach fn = true → isPf fn = true → p.commit = none →
      Leads (.plnStageWrite fn (plnStageBase + o) width v) s fun d' =>
        (∀ x, tget 0 d'.plan.staging x = if o ≤ x ∧ x < o + width ∧ x < planLen
          then BitVec.ofNat 8 (v.toNat / 2 ^ (8 * (x - o))) else tget 0 p.staging x)
        ∧ { d' with plan := { d'.plan with staging := p.staging } } = d)
    ∧ (∀ c o width v, p.commit = some c → Gives (.plnStageWrite fn o width v) s d)
    ∧ (d.reach fn = true → isPf fn = true → p.commit = none → ∀ v : W32, v.getLsbD 0 = true →
      Gives (.plnCommit fn v) s (d.modPlan fun x => { x with commit := some {
        startAt := d.time, phase := 1, bytes := p.staging, order := planOrder p.staging } }))
    ∧ (∀ c v, p.commit = some c → Gives (.plnCommit fn v) s d)
    ∧ (∀ c f, p.commit = some c → c.reason = 0 → c.phase = 2 → d.planPhaseB c.bytes c.order = .inl f →
      (∀ x, d.pitchHasCtxs x = false) → d.mem.reqs = [] → d.commitStep.plan.running = p.running
        ∧ ∃ c', d.commitStep.plan.commit = some c' ∧ c'.phase = 3 ∧ c'.reason = 0 ∧ c'.startAt = c.startAt
          ∧ c'.bytes = f.bytes ∧ c'.order = f.order ∧ c'.replaced = f.replaced ∧ c'.saved = [])
    ∧ (∀ c, p.commit = some c → c.reason ≠ 0 → refused c (c.reason, c.index))
    ∧ (∀ c e, p.commit = some c → c.reason = 0 → c.phase = 1 → c.startAt < d.time → d.planPhaseA c.bytes = some e →
      e.1 ≠ 0 → refused c e)
    ∧ (∀ c e, p.commit = some c → c.reason = 0 → c.phase = 2 → c.bySteward = false → c.startAt < d.time →
      d.planPhaseB c.bytes c.order = .inr e → e.1 ≠ 0 → refused c e)
    ∧ (∀ c, p.commit = some c → c.reason = 0 → c.phase ≠ 6 → d.time ≤ c.startAt → Gives .planCommitEnd s d)
    ∧ (∀ c, p.commit = some c → c.reason = 0 → c.phase = 5 → c.startAt < d.time → c.changed = [] → c.saved = [] → quiet →
      Leads .planCommitEnd s fun d' => d'.plan.running = some c.bytes ∧ d'.plan.commit = none ∧ d'.plan.reason = 0
        ∧ d'.boot.meas = (d.extend 6 (Config.sha384 (planBytes c.bytes))).boot.meas ∧ d'.power = d.power)
    ∧ (∀ c, p.commit = some c → c.reason = 0 → c.phase = 6 → c.saved = [] → quiet →
      Leads .planCommitEnd s fun d' => d'.plan.running = p.running ∧ d'.plan.commit = none ∧ d'.plan.reason = 0
        ∧ d'.plan.commitT = (d.time - c.startAt) % 2 ^ 32 ∧ d'.boot.meas = d.boot.meas ∧ d'.power = d.power)

/-- DBG_SELECT, DBG_STEP, DBG_RESUME, DBG_KILL, DBG_STEP_END, DBG_RDATA_WRITE, CTX_FLAGS_WRITE for a group that halted
before this cc: a step releases it for one instruction and RESULT reads 2 until it halts again; a resume releases it;
a PC that was set equal to the RPC is popped with either (R134); an action on a group that runs, or that halted in
this very cc, is refused with RESULT 1; a kill begins the end of its context; a written register loses its poison in
the lane. -/
def Obligations.Debugging : Prop :=
  ∀ (s : State) (fn : Fn) (core slot : Nat) (g : Group), let d := s.dev; let k := s.dev.core core
    let ctl (action : Nat) : W32 := BitVec.ofNat 32 (slot + 2 ^ 8 * action)
    let others (d' : Dev) : Prop := (∀ n, n ≠ slot → d'.group? core n = d.group? core n)
      ∧ (∀ c, c ≠ core → d'.core c = d.core c) ∧ d'.mem = d.mem
    d.reachDbg fn core = true → slot < 48 → d.group? core slot = some g →
    (g.halted = true → g.haltedAt ≠ some d.time →
      Gives (.dbgSelect fn core (ctl 0)) s (d.modCore core fun k => { k with dbgSlot := slot, dbgResult := 0 })
      ∧ (Leads (.dbgStep fn core (ctl 1)) s fun d' => d'.group? core slot = some { g with
          halted := false, stepping := 1, stack := popStack g.stack }
        ∧ (d'.core core).dbgResult = 2 ∧ others d')
      ∧ (Leads (.dbgResume fn core (ctl 2)) s fun d' =>
        d'.group? core slot = some { g with halted := false, stepping := 0, stack := popStack g.stack }
        ∧ (d'.core core).dbgResult = 0 ∧ others d')
      ∧ ((d.ctx g.cid).live = true → (d.ctx g.cid).fault = 0 → Leads (.dbgKill fn core (ctl 3)) s fun d' =>
        (d'.ctx g.cid).dying = true ∧ (d'.ctx g.cid).fault = g.haltCode)
      ∧ (k.dbgSlot = slot → ∀ (v : W32) (n lane : Nat), n < 64 → lane < 32 →
        k.dbgRsel = BitVec.ofNat 32 (2 ^ 16 * lane + 2 ^ 8 * n) → Leads (.dbgRdataWrite fn core v) s fun d' => ∃ g',
          d'.group? core slot = some g' ∧ g'.t n lane = v ∧ g'.rdPois false n lane = false
          ∧ (∀ r l, (r ≠ n ∨ l ≠ lane) → r < 64 → l < 32 → g'.t r l = g.t r l) ∧ g'.stack = g.stack ∧ others d'))
    ∧ (g.halted = false ∨ g.haltedAt = some d.time → ∀ k' ∈ [Instr.dbgSelect fn core (ctl 0), .dbgStep fn core (ctl 1),
        .dbgResume fn core (ctl 2), .dbgKill fn core (ctl 3)],
      Gives k' s (d.modCore core fun k => { k with dbgSlot := slot, dbgResult := 1 }))
    ∧ (g.stepping = 2 → g.pend = [] → g.notReady = [] → k.stage = none → k.dbgSlot = slot → k.dbgResult = 2 →
      Leads (.dbgStepEnd core slot) s fun d' =>
        d'.group? core slot = some { g with halted := true, haltCode := 0, haltedAt := some d.time, stepping := 0 }
        ∧ (d'.core core).dbgResult = 0 ∧ others d')
    ∧ (∀ (cid : Nat) (v : W32), d.reachCtx fn cid = true → (d.ctx cid).exists_ = true →
      Leads (.ctxFlagsWrite fn cid v) s fun d' => (d'.ctx cid).audit = v.getLsbD 1
        ∧ (d.unlocked (d.ctx cid).pitch = true → (d'.ctx cid).compat = v.getLsbD 0)
        ∧ (v.getLsbD 0 = false → (d'.ctx cid).compat = false)
        ∧ (v.getLsbD 0 = true → d.unlocked (d.ctx cid).pitch = false → (d'.ctx cid).compat = (d.ctx cid).compat)
        ∧ (∀ c, c ≠ cid → d'.ctx c = d.ctx c) ∧ { d' with host := d.host } = d)

/-! ## Homes of lines -/

/-- HOME_READ, HOME_WRITE, HOME_ATOMIC, HOME_ADD_WRITE, HOME_PEG_SIGNAL on a line that the canopy holds without an
error: a read answers the line and leaves it; a write, an atomic, an add-write and a peg signal change exactly the
bytes they name; an atomic's core receives the old value; no byte of backing memory changes. A read that misses waits
for its line's fetch, and a request whose turn has not come waits. -/
def Obligations.HomeAccesses : Prop :=
  ∀ (s : State) (tag k : Nat) (r : Req) (l : CanLine), let d := s.dev; let line := localOf r.addr / 128
    d.mem.reqs = [(tag, r)] → r.st = 0 → r.dev = none → r.orphan = false → r.status = 0 → d.repairing line = false →
    (regionOf (localOf r.addr)).cached = true →
    (d.homeTurn tag r = false → ∀ ecc, ∀ c ∈ [Instr.homeRead tag ecc, .homeWrite (tag, ecc), .homeAtomic (tag, ecc),
      .homeAddWrite (tag, ecc), .homePegSignal (tag, ecc)], Gives c s d)
    ∧ (d.homeTurn tag r = true →
    let answered (d' : Dev) : Prop := d'.mem.bytes = d.mem.bytes ∧ ∃ r', d'.req? tag = some r' ∧ r'.st = 2
    let old (o n : Nat) : Nat := leNat ((List.range n).map fun i => tget 0 l.data (o + i))
    (d.canFind line = none → d.mem.fetches = [] → d.bivFailed line = false → r.kind = .read → r.org.core?.isSome = true →
      Leads (.homeRead tag .clean) s fun d' => d'.mem.fetches = [(line, [tag])] ∧ d'.mem.bytes = d.mem.bytes
        ∧ d'.mem.canopy = d.mem.canopy ∧ d'.mem.reqs = [(tag, { r with st := 1 })])
    ∧ (d.canFind line = some k → lookup? d.mem.canopy k = some l →
      (r.kind = .read → r.org.core?.isSome = true → Leads (.homeRead tag .clean) s fun d' => d'.mem.bytes = d.mem.bytes
        ∧ (∃ r', d'.req? tag = some r' ∧ r'.st = 2 ∧ r'.resp = r.resp ++ (List.range 128).map fun o => tget 0 l.data o)
        ∧ ∃ l', d'.canLine? line = some l' ∧ (∀ o, o < 128 → tget 0 l'.data o = tget 0 l.data o) ∧ l'.pois0 = l.pois0
          ∧ l'.pois1 = l.pois1 ∧ l'.dirty = l.dirty)
      ∧ (∀ bs, r.kind = .write bs [] → r.org.core?.isSome = true → r.addr % 128 = 0 → (∀ b ∈ bs, b.1 < 128) →
        (bs.map fun b => b.1).Nodup → Leads (.homeWrite (tag, .clean)) s fun d' => answered d' ∧ ∃ l',
          d'.canLine? line = some l' ∧ l'.dirty = true ∧ (∀ b ∈ bs, tget 0 l'.data b.1 = b.2)
          ∧ ∀ o, o < 128 → (∀ b ∈ bs, b.1 ≠ o) → tget 0 l'.data o = tget 0 l.data o)
      ∧ (∀ (op typ core id lane : Nat) (x c : W64) (sub : AtomSub) (a : AtomOp), let o := sub.addr % 128
        r.kind = .atomic op typ [sub] → r.org = .atom core id → lookup? (d.core core).atoms id = some a →
        sub.lanes = [(lane, x, c)] → sub.addr / 128 = line → o + 4 ≤ 128 → l.pois0 = false → l.pois1 = false →
        sub.pois = false → (op = 0 ∧ typ = 0) ∨ (op = 6 ∧ typ = 5) ∨ (op = 7 ∧ typ = 5) →
        Leads (.homeAtomic (tag, .clean)) s fun d' => answered d'
          ∧ (∃ a', lookup? (d'.core core).atoms id = some a'
            ∧ a'.olds = a.olds ++ [(sub.addr, BitVec.ofNat 64 (old o 4))])
          ∧ ∃ l', d'.canLine? line = some l' ∧ (∀ p, p < 128 → (p < o ∨ o + 4 ≤ p) → tget 0 l'.data p = tget 0 l.data p)
            ∧ leNat ((List.range 4).map fun i => tget 0 l'.data (o + i)) =
              (if op = 0 then (old o 4 + x.toNat) % 2 ^ 32 else if op = 6 then x.toNat % 2 ^ 32
                else if old o 4 = c.toNat % 2 ^ 32 then x.toNat % 2 ^ 32 else old o 4))
      ∧ (∀ (n : Nat) (b0 b1 b2 b3 : Byte), let o := localOf r.addr % 128
        r.kind = .addWrite 0 [(0, b0), (1, b1), (2, b2), (3, b3)] [] → r.org = .desc n → r.len = 4 → o % 4 = 0 →
        d.quarantined line = false → d.mem.fetches = [] → Leads (.homeAddWrite (tag, .clean)) s fun d' => answered d' ∧ ∃ l',
          d'.canLine? line = some l' ∧ l'.dirty = true
          ∧ (∀ p, p < 128 → (p < o ∨ o + 4 ≤ p) → tget 0 l'.data p = tget 0 l.data p)
          ∧ leNat ((List.range 4).map fun i => tget 0 l'.data (o + i)) = (old o 4 + leNat [b0, b1, b2, b3]) % 2 ^ 32)
      ∧ (∀ amt, let o := localOf r.addr % 128
        r.kind = .pegSignal amt → o % 8 = 0 → (∀ c id, r.org ≠ .atom c id) → Leads (.homePegSignal (tag, .clean)) s fun d' =>
          answered d' ∧ ∃ l', d'.canLine? line = some l' ∧ l'.dirty = true
          ∧ (∀ p, p < 128 → (p < o ∨ o + 8 ≤ p) → tget 0 l'.data p = tget 0 l.data p)
          ∧ leNat ((List.range 8).map fun i => tget 0 l'.data (o + i)) =
            old o 8 / 2 ^ 63 * 2 ^ 63 + (old o 8 + amt.toNat) % 2 ^ 63)))

/-- PORT_READ_DONE, SECTOR_REWRITE, PATROL_SCRUB, BIV_RESPONSE, BIV_PORT_TIMEOUT: a fetch ends with the stored bytes,
and with poison where more than three symbols are wrong; a rewritten sector has no error left; the scrub goes on to
the next sector; a bivouac line is answered with the poison that came with it; a port that left a request unanswered
for 400 µs is FAILED and its reads return poison. None of them changes a byte of memory. -/
def Obligations.MemoryPorts : Prop :=
  ∀ (s : State) (line tag tile port core id : Nat) (r : Req), let d := s.dev
    let fetching := d.mem.reqs = [(tag, r)] ∧ d.mem.fetches = [(line, [tag])] ∧ r.st = 1 ∧ r.kind = .read
      ∧ r.org = .load core id ∧ r.dev = none ∧ r.orphan = false ∧ r.status = 0 ∧ d.allocKeys r.pitch line = []
      ∧ r.resp = [] ∧ r.respPois = []
    let stored := bytesAt d.mem.bytes (line * 128) 128
    let answer (d' : Dev) (bs : List Byte) (ps : List Nat) : Prop := d'.mem.bytes = d.mem.bytes ∧ d'.mem.fetches = []
      ∧ d'.mem.reqs = [(tag, { r with st := 2, resp := bs, respPois := ps })]
    (fetching → line * 128 < 0x400000000 → d.quarantined line = false → tget 0 d.mem.symErr (2 * line) = 0 →
      tget 0 d.mem.symErr (2 * line + 1) = 0 → d.anyPois (line * 128) 128 = false →
      (∀ p, r.pitch = some p → d.meshHas (portKey line).1 p = true) →
      (Leads (.portReadDone line 0 0) s fun d' => answer d' stored [])
      ∧ (∀ e, 1 ≤ e → e ≤ 3 → Leads (.portReadDone line e 0) s fun d' => answer d' stored []
          ∧ tget 0 d'.mem.symErr (2 * line) = e)
      ∧ (∀ e, 4 ≤ e → e ≤ 5 → d.repairable line = false → d.granKind (line * 128 / 0x4000000) ≠ 2 →
          Leads (.portReadDone line 0 e) s fun d' => answer d' stored [1]))
    ∧ (∀ sec rest, (d.tileMem tile).rewriteQ = sec :: rest → tile < 4 → d.meshHas tile 0xFF = true →
      tget 0 d.mem.symErr sec ≤ 3 → Leads (.sectorRewrite tile) s fun d' => (d'.tileMem tile).rewriteQ = rest
        ∧ tget 0 d'.mem.symErr sec = 0 ∧ (∀ x, x ≠ sec → tget 0 d'.mem.symErr x = tget 0 d.mem.symErr x)
        ∧ d'.mem.bytes = d.mem.bytes)
    ∧ (let pos := (d.tileMem tile).scrubPos; let sec := tile * tileSectors + pos
      tile < 4 → d.meshHas tile 0xFF = true → d.power.porReleased = true → 5 ≤ d.boot.stage → d.mem.reqs = [] →
      tget 0 d.mem.symErr sec = 0 → d.anyPois (sec * 64) 64 = false → Leads (.patrolScrub tile 0) s fun d' =>
        (d'.tileMem tile).scrubPos = (pos + 1) % tileSectors ∧ d'.mem.bytes = d.mem.bytes
        ∧ (pos + 1 < tileSectors → (d'.tileMem tile).scrubs = (d.tileMem tile).scrubs)
        ∧ (pos + 1 = tileSectors → (d'.tileMem tile).scrubs = ((d.tileMem tile).scrubs + 1) % 2 ^ 16))
    ∧ (∀ p0 p1, fetching → regionOf (line * 128) = .biv port → port < 2 → (d.biv port).st = 1 →
      d.anyPois (line * 128) 128 = false → line ∉ (d.biv port).waits → Leads (.bivResponse line p0 p1) s fun d' =>
        answer d' stored ((if p0 then [0] else []) ++ if p1 then [1] else []) ∧ ∀ t, (line, t) ∉ (d'.biv port).pending)
    ∧ (∀ p0 p1 t, regionOf (line * 128) = .biv port → d.mem.fetches = [] → d.mem.reqs = [] → (d.biv port).waits = [] →
      (d.biv port).writes = [(line, t)] → (d.biv port).writeWaits = [] → Leads (.bivResponse line p0 p1) s fun d' =>
        (d'.biv port).writes = [] ∧ d'.mem.bytes = d.mem.bytes ∧ d'.mem.fetches = [])
    ∧ (∀ t, fetching → regionOf (line * 128) = .biv port → port < 2 → (d.biv port).st = 1 →
      (d.biv port).pending = [(line, t)] → (d.biv port).waits = [] → t + ccUs 400 ≤ d.time →
      Leads (.bivPortTimeout port) s fun d' => (d'.biv port).st = 2 ∧ (d'.biv port).pending = []
        ∧ (d'.biv port).writes = [] ∧ answer d' (zeros 128) [0, 1])
    ∧ ((∀ x ∈ (d.biv port).pending ++ (d.biv port).writes, d.time < x.2 + ccUs 400) → Gives (.bivPortTimeout port) s d)

/-- REPAIR_COMPLETE, REPAIR_TIMEOUT, QUARANTINE_CLEAR, QUARANTINE_CLEAR_DONE: a repair within 40 µs writes the replica
over the page and nothing else; a late one quarantines the page; clearing a quarantine leaves the page zero. -/
def Obligations.RepairsAndQuarantine : Prop :=
  ∀ (s : State) (tile : Nat), let d := s.dev
    (d.meshHas tile 0xFF = false → Gives (.repairComplete tile) s d)
    ∧ (∀ rp b, (d.tileMem tile).repairs = [rp] → rp.held = [] → d.mem.reqs = [] → rp.page / 65536 = tile →
      (∀ f, (d.func f).bar4Held = [] ∧ (d.func f).xlMap = none ∧ (d.func f).xlWait = none) →
      (rp.at_ + ccUs 40 ≤ d.time → d.errorsIn (localOf rp.replica) 0x10000 = [] →
        Leads (.repairTimeout tile) s fun d' => (d'.tileMem tile).repairs = []
        ∧ (d'.repl rp.page).quarantined = true ∧ (d'.tileMem tile).quarLast = rp.page % 65536
        ∧ d'.mem.bytes = d.mem.bytes)
      ∧ (d.time < rp.at_ + ccUs 40 → d.replicaNow tile rp = .bytes b → b.length = 0x10000 →
        d.meshHas tile 0xFF = true → d.meshHas (d.homeTile (localOf rp.replica)) 0xFF = true →
        d.errorsIn (localOf rp.replica) 0x10000 = [] →
        Leads (.repairComplete tile) s fun d' => (d'.tileMem tile).repairs = []
          ∧ bytesAt d'.mem.bytes (rp.page * 0x10000) 0x10000 = b
          ∧ (∀ a, (a < rp.page * 0x10000 ∨ (rp.page + 1) * 0x10000 ≤ a) → byteAt d'.mem.bytes a = byteAt d.mem.bytes a)
          ∧ (d'.tileMem tile).repairCnt = (d.tileMem tile).repairCnt.bump 0xFFFF 1 d.time))
    ∧ (∀ fn p, p < 65536 → d.reach fn = true → isPf fn = true → tile < 4 → (d.tileMem tile).clearing = none →
      (d.repl (tile * 65536 + p)).quarantined = true →
      Leads (.quarantineClear fn tile (BitVec.ofNat 32 (2 ^ 30 + p))) s fun d' =>
        (d'.tileMem tile) = { d.tileMem tile with clearing := some (tile * 65536 + p) } ∧ d'.mem.bytes = d.mem.bytes)
    ∧ (∀ pg, (d.tileMem tile).clearing = some pg → d.meshHas (pg / 65536) 0xFF = true →
      Leads (.quarantineClearDone tile) s fun d' =>
        (d'.repl pg).quarantined = false ∧ (d'.tileMem tile).clearing = none
        ∧ ∀ a, byteAt d'.mem.bytes a =
          if pg * 0x10000 ≤ a ∧ a < (pg + 1) * 0x10000 then 0 else byteAt d.mem.bytes a)

/-! ## Translation -/

/-- MAP, INVAL, INVAL_DRAIN_DONE, RANGE_WALK_READ: a MAP that passes every check writes VALID 1 into its entry and
completes with code 0, one that fails completes with the lowest code, one that names a context in teardown waits for its
end; an INVAL removes the generation from every range cache and completes when the accesses through it are performed; a
walk reads the middle entry of what is left of the table as it stands live. -/
def Obligations.Translation : Prop :=
  ∀ (s : State) (fn : Fn) (cid : Nat), let d := s.dev; let f := regFn fn
    let free := d.reach fn = true ∧ (d.func f).xlBusy = false ∧ (d.func f).bar4Held = [] ∧ d.xlCidOk f cid = true
      ∧ cid < 4096
    let ready := free ∧ (d.ctx cid).live = true
    let map (i : Nat) : Instr := .map fn (.full (BitVec.ofNat 64 (2 ^ 40 + 2 ^ 12 * i + cid)))
    let done (d' : Dev) (code : Nat) : Prop := (d'.func f).xlBusy = false ∧ (d'.func f).xlCode = code
    (∀ i, i < 4096 → Unheld (map i) s → free → (d.ctx cid).live = false →
      ((d.ctx cid).dying = false → Leads (map i) s fun d' => done d' 0x0D ∧ d'.mem = d.mem)
      ∧ ((d.ctx cid).dying = true → Leads (map i) s fun d' => (d'.func f).xlBusy = true
        ∧ (d'.func f).xlMap = some (cid, i) ∧ d'.mem = d.mem))
    ∧ (∀ i, i < 4096 → Unheld (map i) s → ready → d.mapCode f cid i ≠ 0 → Leads (map i) s fun d' =>
      done d' (d.mapCode f cid i) ∧ d'.mem = d.mem ∧ d'.xl = d.xl)
    ∧ (∀ i, i < 4096 → Unheld (map i) s → ready → d.mapCode f cid i = 0 → d.mapWaits (d.entryAt cid i) = false →
      (d.entryAt cid i).shared = false → d.canFind (d.entryAddr cid i / 128) = none →
      (regionOf (d.entryAddr cid i)).isStacked = true → (d.entryAddr cid i) % 32 = 0 →
      d.quarantined (d.entryAddr cid i / 128) = false → d.mem.fetches = [] →
      tget 0 d.mem.symErr (d.entryAddr cid i / 64) ≤ 3 → Leads (map i) s fun d' => done d' 0
          ∧ (byteAt d'.mem.bytes (d.entryAddr cid i + 0x14)).getLsbD 0 = true
          ∧ (∀ a, a ≠ d.entryAddr cid i + 0x14 → byteAt d'.mem.bytes a = byteAt d.mem.bytes a))
    ∧ (∀ g, let inval : Instr := .inval fn (.full (BitVec.ofNat 64 (2 ^ 41 + 2 ^ 24 * g + cid)))
      g < 65536 → Unheld inval s → free → d.board.graphs = [] → d.board.nodes = [] → d.board.descs = [] →
        d.mem.reqs = [] →
      Leads inval s fun d' =>
        (d'.func f).xlBusy = true ∧ (d'.func f).xlInval = some (cid, g, d.accsThrough cid g, [], [])
        ∧ (∀ t e, e ∈ tget [] d'.xl.cache t ↔ e ∈ tget [] d.xl.cache t ∧ ¬(e.cid = cid ∧ e.ent.gen = g))
        ∧ d'.mem = d.mem)
    ∧ (∀ g accs descs tags, (d.func fn).xlInval = some (cid, g, accs, descs, tags) →
      ((d.ctx cid).dying = true ∨ d.accsOpen accs = true ∨ d.tagsOpen tags = true → Gives (.invalDrainDone fn) s d)
      ∧ ((d.ctx cid).dying = false → (∀ n ∈ descs, d.desc? n = none) → d.accsOpen accs = false → d.mem.reqs = [] →
        (∀ x ∈ d.board.graphs, x.2.doneStale = false) → Leads (.invalDrainDone fn) s fun d' =>
          (d'.func fn).xlBusy = false ∧ (d'.func fn).xlCode = 0 ∧ (d'.func fn).xlInval = none ∧ d'.mem = d.mem))
    ∧ (∀ n wOld e, let x := d.ctx wOld.cid
      let w := if wOld.base = x.rtabBase ∧ wOld.count = x.rtabCount then wOld
        else { wOld with base := x.rtabBase, count := x.rtabCount, lo := 0, hi := x.rtabCount }
      let kept (d' : Dev) : Prop := d'.mem.bytes = d.mem.bytes ∧ d'.mem.canopy = d.mem.canopy ∧ d'.cores = d.cores
      lookup? d.xl.walks n = some wOld → w.lo < w.hi → (∀ sec, tget 0 d.mem.symErr sec ≤ 3) →
        d.readEntry w.cid ((w.lo + w.hi) / 2) = some e →
      (w.va < e.vstart → w.lo < (w.lo + w.hi) / 2 → Leads (.rangeWalkRead n) s fun d' =>
        lookup? d'.xl.walks n = some { w with hi := (w.lo + w.hi) / 2 } ∧ kept d')
      ∧ (e.vstart + e.bytes ≤ w.va → (w.lo + w.hi) / 2 + 1 < w.hi → Leads (.rangeWalkRead n) s fun d' =>
        lookup? d'.xl.walks n = some { w with lo := (w.lo + w.hi) / 2 + 1 } ∧ kept d')
      ∧ (e.covers w.va = true → e.valid = true → (d.core w.core).stage = none → d.cacheCap w.tile w.pitch ≠ 0 →
        Leads (.rangeWalkRead n) s fun d' => lookup? d'.xl.walks n = none
          ∧ d'.cacheGet w.tile w.pitch w.cid w.va ≠ none ∧ kept d'))

/-! ## Contexts and the host -/

/-- CREATE, DESTROY, TEARDOWN_DRAIN_END, PAGE_ZEROISED, CONTEXT_EVICT, CONTEXT_LOAD: a created context is the lowest
free CID with every field of R353 at its start; a destroyed one dies, or is released if it is already killed; the end
of a teardown frees everything the context had and leaves it killed unless a function destroyed it; a page of a
context that ended is zero; a waiting context takes a slot. -/
def Obligations.ContextLifecycle : Prop :=
  ∀ (s : State) (fn : Fn) (cid : Nat), let d := s.dev; let f := regFn fn; let x := s.dev.ctx cid
    let done (d' : Dev) (code c : Nat) : Prop :=
      (d'.func f).ctxBusy = false ∧ (d'.func f).ctxCode = code ∧ (d'.func f).ctxCid = c
    let destroy : Instr := .destroy fn (BitVec.ofNat 32 (2 ^ 31 + cid))
    (∀ named p, let create : Instr := .create fn (BitVec.ofNat 32 (2 ^ 30 + 2 ^ 18 * named))
      named < 64 → (isPf fn = false → named = 0) → Unheld create s → d.reach fn = true → (d.func f).ctxBusy = false →
      d.createPitch fn named = some p →
      (64 * d.quadCount p ≤ (d.pitchCtxs p).length → Leads create s fun d' =>
        done d' 3 0 ∧ d'.host.ctxs = d.host.ctxs ∧ d'.mem = d.mem)
      ∧ (∀ c, (d.pitchCtxs p).length < 64 * d.quadCount p → c < 4096 → (d.ctx c).free = true →
        (∀ b, b < c → (d.ctx b).free = false) → Leads create s fun d' => done d' 0 c ∧ (d'.ctx c).live = true
          ∧ (d'.ctx c).pitch = p ∧ (d'.ctx c).fn = f
            ∧ (d'.ctx c).fault = 0 ∧ (d'.ctx c).rtabCount = 0 ∧ (d'.ctx c).compat = false ∧ (d'.ctx c).audit = false
            ∧ (d'.ctx c).pegs = [] ∧ (d'.ctx c).slot = none ∧ (∀ q, (d'.queue c q).log2 = 0)
            ∧ (∀ b, b ≠ c → d'.ctx b = d.ctx b) ∧ d'.mem = d.mem))
    ∧ (cid < 4096 → Unheld destroy s → d.reach fn = true → (d.func f).ctxBusy = false → x.exists_ = true →
      (isPf fn = true ∨ d.pitchOfVf fn = some x.pitch) →
      (x.dying = true → Leads destroy s fun d' => done d' 5 cid
        ∧ d'.host.ctxs = d.host.ctxs)
      ∧ (x.dying = false → x.killed = true → Leads destroy s fun d' => done d' 0 cid
        ∧ d'.ctx cid = { x with exists_ := false, killed := false, destroyed := true })
      ∧ (x.live = true → d.mem.reqs = [] → Leads destroy s fun d' =>
        (d'.func f).ctxBusy = true ∧ (d'.func f).ctxCid = cid ∧ (d'.ctx cid).dying = true ∧ (d'.ctx cid).exists_ = true
        ∧ (d'.ctx cid).teardownAt = d.time ∧ (d'.ctx cid).destroyFn = some f ∧ d'.mem = d.mem))
    ∧ (d.tearing cid = true → d.host.preBusy = none → d.ctxLocalBusy cid = false → d.mem.reqs = [] →
      x.carriedWrites = 0 → x.pegs = [] → (∀ k ∈ d.cores, k.2.wb = []) → Leads (.teardownDrainEnd cid) s fun d' =>
        (d'.ctx cid).dying = false ∧ (d'.ctx cid).slot = none
        ∧ ((d'.ctx cid).exists_ = true ↔ x.destroyFn = none ∧ x.quiet = false)
        ∧ ((d'.ctx cid).killed = true ↔ x.destroyFn = none ∧ x.quiet = false)
        ∧ (d'.ctx cid).fault = (if x.fault = 0 ∧ x.hadWork = true then 0x0C else x.fault)
        ∧ (∀ n ∈ d'.board.nodes, n.2.cid ≠ cid) ∧ (∀ n ∈ d'.board.descs, n.2.cid ≠ cid)
        ∧ (∀ core n g, core < 256 → d'.group? core n = some g → g.cid ≠ cid)
        ∧ (∀ t e, e ∈ tget [] d'.xl.cache t → e.cid ≠ cid))
    ∧ (∀ page, lookup? d.mem.zeroPend page = some (cid + 1) → d.mem.reqs = [] →
      (∀ f, (d.func f).bar4Held = [] ∧ (d.func f).xlMap = none ∧ (d.func f).xlWait = none) →
      Leads (.pageZeroised page) s fun d' => lookup? d'.mem.zeroPend page = none
        ∧ (d'.ctx cid).zeroPend = x.zeroPend - 1
        ∧ ∀ a, byteAt d'.mem.bytes a =
          if page * 0x10000 ≤ a ∧ a < (page + 1) * 0x10000 then 0 else byteAt d.mem.bytes a)
    ∧ (∀ p c, d.pitchValid p = true → d.waitingCtx p ≠ none → d.freeSlot p = none →
      minBy? (fun c => (d.ctx c).residentAt) ((d.residents p).filter fun c => !d.ctxBusy c) = some c →
      Leads (.contextEvict p) s fun d' => (d'.ctx c).slot = none ∧ (∀ b, b ≠ c → d'.ctx b = d.ctx b)
        ∧ (∀ q, (d'.queue c q).head = (d.queue c q).head ∧ (d'.queue c q).tail = (d.queue c q).tail)
        ∧ { d' with host := d.host } = d)
    ∧ (∀ p c n, d.pitchValid p = true → d.waitingCtx p = some c → d.freeSlot p = some n →
      ((∀ b, d.host.ifverBefore = some b → b.1 ≠ d.time) →
        Gives (.contextLoad p) s (d.modCtx c fun x => { x with slot := some n, residentAt := d.time }))
      ∧ (∀ sel acc ref, d.host.ifverBefore = some (d.time, sel, acc, ref) → Leads (.contextLoad p) s fun d' =>
        d'.ctx c = { d.ctx c with slot := some n, residentAt := d.time } ∧ d'.host.ifverSel = sel
        ∧ d'.host.accepted = acc ∧ d'.host.refused = ref))

/-- BAR4_READ, BAR4_WRITE, VF_FLR: an access of one granule that waits for no page reaches the memory behind the
window, and waits while the mesh table of its tile has no entry of its owner; a read answers its bytes with their
poison and changes none; a write changes the bytes it names and no others; the reset of a virtual function ends the
contexts of its pitch. -/
def Obligations.HostWindow : Prop :=
  ∀ (s : State) (fn : Fn) (off a : Nat), let d := s.dev
    let free (len : Nat) : Prop := d.reach fn = true ∧ fn ≠ 65 ∧ (d.func fn).bar4Held = [] ∧ (d.func fn).xlMap = none
      ∧ (d.func fn).xlWait = none ∧ d.bar4Addr fn off = some a ∧ 0 < len ∧ off % 0x4000000 + len ≤ 0x4000000
    let behind (len : Nat) : Prop := free len ∧ d.bar4Slots fn [(some a, 0, len)] = true
      ∧ d.bar4Waits [(some a, 0, len)] = false
    (∀ len, free len → d.bar4Slots fn [(some a, 0, len)] = false → Leads (.bar4Read fn off len) s fun d' =>
      (d'.func fn).bar4Held = [(off, none, len)] ∧ d'.out = d.out ∧ d'.mem = d.mem)
    ∧ (∀ len, behind len → (∀ sec, tget 0 d.mem.symErr sec = 0) → Leads (.bar4Read fn off len) s fun d' =>
      d'.out = .bar4Data fn (d.readMem a len) (d.readPois a len) :: d.out ∧ d'.mem = d.mem ∧ (d'.func fn).bar4Held = [])
    ∧ (∀ data : List Byte, behind data.length → d.mem.fetches = [] → (∀ sec, tget 0 d.mem.symErr sec ≤ 3) →
      Leads (.bar4Write fn off data false) s fun d' =>
      (∀ x, (x < a ∨ a + data.length ≤ x) → byteAt d'.mem.bytes x = byteAt d.mem.bytes x)
      ∧ ((∀ sec, tget 0 d.mem.symErr sec = 0) → d'.out = d.out)
      ∧ (a % 128 + data.length ≤ 128 → d.quarantined (a / 128) = false → a + data.length ≤ 0x400000000 →
          d'.readMem a data.length = data))
    ∧ (∀ p cid, d.configReach fn = true → d.configServed = true → fn ≠ 0 → d.pitchOfVf fn = some p →
      d.pitchCtxs p = [cid] →
      (d.ctx cid).live = true → d.mem.reqs = [] → Leads (.vfFlr fn) s fun d' => (d'.ctx cid).dying = true
        ∧ (d'.ctx cid).quiet = true ∧ (d'.ctx cid).destroyFn = none ∧ d'.mem = d.mem ∧ d'.power = d.power)
    ∧ (d.configReach fn = true → d.configServed = false → Gives (.vfFlr fn) s (d.emit .cfgRetry))

/-- QUEUE_DOORBELL, QUEUE_SLOT_READ: a doorbell that R359 accepts moves TAIL, any other counts in DB_REJ; a slot's 64 B
join the queue's commands in order, read at the slot's address once the BAR4 writes posted before the doorbell are performed. -/
def Obligations.QueuesAndDoorbells : Prop :=
  ∀ (s : State) (fn : Fn) (cid q : Nat), let d := s.dev; let x := s.dev.ctx cid; let u := (s.dev.ctx cid).queue q
    let others (d' : Dev) : Prop := (∀ p, p ≠ q → d'.queue cid p = d.queue cid p)
      ∧ (∀ c, c ≠ cid → d'.ctx c = d.ctx c) ∧ { d' with host := d.host } = d
    (∀ tail : W32, Unheld (.queueDoorbell fn cid q tail) s → fn ≠ 65 → q < 8 → d.reachCtx fn cid = true →
      (∀ c, d.plan.commit = some c → x.pitch ∉ c.changed) →
      let ahead := (tail - u.head).toNat
      let good := d.host.accepted = true ∧ d.planRunning = true ∧ x.live = true ∧ u.log2 ≠ 0 ∧ u.stopped = false
        ∧ ahead ≤ 2 ^ u.log2 ∧ (u.tail - u.head).toNat ≤ ahead
      Leads (.queueDoorbell fn cid q tail) s fun d' => others d' ∧ (d'.queue cid q).head = u.head
        ∧ (d'.queue cid q).cmds = u.cmds
        ∧ (good → (d'.queue cid q).tail = tail ∧ (d'.queue cid q).dbRej = u.dbRej)
        ∧ (¬good → (d'.queue cid q).tail = u.tail ∧ (d'.queue cid q).dbRej = u.dbRej.bump 0xFF 1 d.time))
    ∧ (∀ tail c, Unheld (.queueDoorbell fn cid q tail) s → fn ≠ 65 → q < 8 → d.reachCtx fn cid = true →
      d.plan.commit = some c → x.pitch ∈ c.changed →
      Gives (.queueDoorbell fn cid q tail) s (d.modPlan fun p => { p with
        keptDoorbells := p.keptDoorbells ++ [(fn, cid, q, tail)] }))
    ∧ (∀ cmd : List Byte, cmd.length = 64 → d.power.pcieL0 = true → q < 8 → x.live = true → x.slot ≠ none → u.log2 ≠ 0 →
      u.stopped = false → u.stalled = false → (u.readUpTo - u.head).toNat < (u.tail - u.head).toNat →
      (∀ a ∈ u.rungAfter, a.2 ≤ (d.func a.1).bar4Writes) → d.queueSlotFree x.pitch cid q = true →
      Leads (.queueSlotRead cid q cmd) s fun d' =>
        d'.queue cid q = { u with cmds := u.cmds ++ [cmd], readUpTo := u.readUpTo + 1 } ∧ others { d' with out := d.out }
        ∧ d'.out = .slotRead x.fn (u.base + BitVec.ofNat 64 (64 * (u.readUpTo.toNat % 2 ^ u.log2))) :: d.out)

/-- PEG_REGISTER, PEG_WITHDRAW, CONTEXT_QUERY, QUERY_COMPLETE: a peg is registered where the context may change it, at
most 256 of them, and withdrawn only if it is registered; a query is answered with the context's eight results. -/
def Obligations.PegRegistrationsAndQueries : Prop :=
  ∀ (s : State) (fn : Fn) (cid va : Nat), let d := s.dev; let f := regFn fn; let x := s.dev.ctx cid
    let may := d.reach fn = true ∧ cid < 4096 ∧ va < 2 ^ 48 ∧ x.live = true
      ∧ (isPf fn = true ∨ d.pitchOfVf fn = some x.pitch)
    let reg := Instr.pegRegister fn (.full (BitVec.ofNat 64 (2 ^ 62 + 2 ^ 48 * cid + va)))
    let wd := Instr.pegWithdraw fn (.full (BitVec.ofNat 64 (2 ^ 63 + 2 ^ 48 * cid + va)))
    let query : Instr := .contextQuery fn (BitVec.ofNat 32 cid)
    let code (d' : Dev) (n : Nat) (pegs : List Nat) : Prop := (d'.func f).pegCode = n ∧ (d'.ctx cid).pegs = pegs
      ∧ d'.mem = d.mem ∧ ∀ c, c ≠ cid → d'.ctx c = d.ctx c
    (∀ seg, may → d.translatePeg cid va 3 = .ok [seg] → va % 8 = 0 → x.pegs.length < 256 →
      Leads reg s fun d' => code d' 0 (x.pegs ++ [va]))
    ∧ (∀ seg, may → d.translatePeg cid va 3 = .ok [seg] → va % 8 = 0 → 256 ≤ x.pegs.length →
      Leads reg s fun d' => code d' 4 x.pegs)
    ∧ (∀ c, may → d.translatePeg cid va 3 = .fault c → Leads reg s fun d' => code d' 3 x.pegs)
    ∧ (may → va ∈ x.pegs → Leads wd s fun d' => code d' 0 (x.pegs.erase va))
    ∧ (may → va ∉ x.pegs → Leads wd s fun d' => code d' 5 x.pegs)
    ∧ (cid < 4096 → Unheld query s → d.reach fn = true → (d.func f).qryBusy = false → d.queryOk f cid = true →
      Gives query s (d.modFunc f fun g => { g with qryBusy := true, qryCid := cid }))
    ∧ (cid < 4096 → Unheld query s → d.reach fn = true → (d.func f).qryBusy = false → d.queryOk f cid = false →
      Leads query s fun d' => (d'.func f).qryCode = 4 ∧ (d'.func f).qryBusy = false)
    ∧ ((d.func fn).qryBusy = true → (d.func fn).qryCid = cid → d.queryOk fn cid = true →
      Leads (.queryComplete fn) s fun d' => (d'.func fn).qryBusy = false ∧ (d'.func fn).qryCode = 0
        ∧ tget 0 (d'.func fn).qryRes 0 = BitVec.ofNat 64 x.threadCc
          ∧ tget 0 (d'.func fn).qryRes 1 = BitVec.ofNat 64 x.arrayAc
        ∧ tget 0 (d'.func fn).qryRes 2 = BitVec.ofNat 64 x.dmaCc
        ∧ tget 0 (d'.func fn).qryRes 3 = BitVec.ofNat 64 ((d.validEntries cid).map fun e => e.bytes).sum
        ∧ d'.host.ctxs = d.host.ctxs ∧ d'.mem = d.mem)

/-! ## The Board -/

/-- NOP, GRAPH, KERNEL, COPY, REMOTE, PEG_SIGNAL, HOST_NOTIFY, PEG_WAIT at the head of a queue, and
PEG_WAIT_QUEUE_POLL: a NOP moves HEAD and writes its record; a graph or a single-node command begins admission as a
step of the Board, a graph without nodes completes at once; a PEG_WAIT stalls its queue, and a poll that finds the peg
at the threshold moves HEAD, one that finds it below leaves it, one that finds it poisoned or abandoned stops the
queue. -/
def Obligations.QueueCommands : Prop :=
  ∀ (s : State) (cid q : Nat) (b : List Byte) (rest : List (List Byte)),
    let d := s.dev; let x := s.dev.ctx cid; let u := (s.dev.ctx cid).queue q; let f := recField b
    let head (op : Nat) : Prop := u.cmds = b :: rest ∧ d.queueMay cid q = true ∧ cmdOk b = true ∧ f 0 1 = op
      ∧ d.mem.reqs = []
    let begins (k : Instr) (P : Graph → Prop) : Prop := Leads k s fun d' => ∃ n g, d'.graph? n = some g ∧ P g
      ∧ g.cid = cid ∧ g.q = q ∧ g.pitch = x.pitch ∧ g.index = u.head ∧ g.admitted = 0 ∧ g.admitAt = d.time
      ∧ (g.cpl = true ↔ f 1 1 = 1) ∧ (d'.queue cid q).graph = some n ∧ (d'.queue cid q).head = u.head
      ∧ d'.mem.bytes = d.mem.bytes
    let single (k : Instr) : Prop := begins k fun g => g.single = some b ∧ g.nodes = 1 ∧ g.donePeg = none
    let moves (d' : Dev) : Prop := (d'.queue cid q).head = u.head + 1 ∧ (d'.queue cid q).cmds = rest
      ∧ (d'.queue cid q).stalled = false ∧ d'.mem.bytes = d.mem.bytes
    (head 0 → recZero b 0x10 48 = true → Leads (.nopCmd cid q) s fun d' => moves d'
      ∧ (f 1 1 = 0 → d'.out = d.out)
      ∧ (f 1 1 = 1 → d.power.pcieL0 = true → d'.out = .record x.fn (u.base + BitVec.ofNat 64
          (64 * 2 ^ u.log2 + 16 * (u.head.toNat % 2 ^ u.log2))) u.head 0 0 :: d.out))
    ∧ (head 1 → graphOk b = true → f 0x20 8 = 0 →
      (f 0x18 4 ≠ 0 → begins (.graphCmd cid q) fun g => g.single = none ∧ g.nodes = f 0x18 4 ∧ g.va = f 0x10 8)
      ∧ (f 0x18 4 = 0 → Leads (.graphCmd cid q) s moves))
    ∧ (head 2 → single (.kernelCmd cid q)) ∧ (head 3 → single (.copyCmd cid q)) ∧ (head 4 → single (.remoteCmd cid q))
    ∧ (head 5 → single (.pegSignalCmd cid q)) ∧ (head 7 → single (.hostNotifyCmd cid q))
    ∧ (∀ peg, head 6 → waitOk b = true → d.boardPeg cid (f 0x10 8) 1 = .inr peg → f 0x18 8 ≠ 0 →
      Leads (.pegWaitCmd cid q) s fun d' => (d'.queue cid q).stalled = true ∧ (d'.queue cid q).stalledAt = d.time
        ∧ (d'.queue cid q).pegPa = peg.1 ∧ (d'.queue cid q).head = u.head ∧ (d'.queue cid q).cmds = u.cmds
        ∧ d'.mem = d.mem)
    ∧ (let v := leNat (d.readMem (localOf u.pegPa) 8); let pois := d.readPois (localOf u.pegPa) 8
      u.cmds = b :: rest → u.stalled = true → x.live = true → x.slot ≠ none → d.isLocal u.pegPa = true →
      d.meshHas (d.homeTile (localOf u.pegPa)) x.pitch = true →
      Leads (.pegWaitQueuePoll cid q) s fun d' => d'.mem.bytes = d.mem.bytes
        ∧ (pois = false → v < 2 ^ 63 → f 0x18 8 ≤ v → moves d')
        ∧ (pois = false → v < 2 ^ 63 → v < f 0x18 8 → d'.queue cid q = u)
        ∧ (pois = true ∨ v / 2 ^ 63 % 2 = 1 → (d'.queue cid q).stopped = true ∧ (d'.queue cid q).head = u.head))

/-- NODE_ADMIT, KERNEL_NODE_COMPLETE, PEG_WAIT_NODE_POLL: the node of the queue whose turn it is takes a slot as its
record says, and HEAD moves with the last node of its graph; a launch without groups and programs left completes; a
node's wait ends when its threshold is 0 or the peg has reached it. -/
def Obligations.NodesAreAdmittedAndComplete : Prop :=
  ∀ (s : State) (pitch n : Nat) (x : Node), let d := s.dev; let pb := s.dev.pitchBoard pitch
    let calm : Prop := d.mem.reqs = [] ∧ ∀ g, d.graph? x.graph = some g → g.donePeg = none
    (∀ g b succ c, d.boardCycle pitch = true → d.boardHeld pitch = false → pb.lastHub ≠ some d.hubCycle →
      d.nextQueue pitch = some (n, g) → d.graph? n = some g → d.readNode g = .inr (b, succ, c) →
      Leads (.nodeAdmit pitch) s fun d' =>
        (∃ y, d'.node? d.board.nextNode = some y ∧ y.typ = recField b 0 1 ∧ y.cid = g.cid ∧ y.pitch = g.pitch
          ∧ y.graph = n ∧ y.index = g.admitted ∧ y.succ = succ ∧ y.body = b.drop 0x10 ∧ y.src = c.src ∧ y.dst = c.dst
          ∧ y.sig = c.sig)
        ∧ (∃ g', d'.graph? n = some g' ∧ g'.admitted = g.admitted + 1 ∧ g'.open_ = g.open_ + 1)
        ∧ (d'.pitchBoard pitch).lastHub = some d.hubCycle
        ∧ (g.admitted + 1 < g.nodes → (d'.queue g.cid g.q).head = (d.queue g.cid g.q).head)
        ∧ (g.nodes ≤ g.admitted + 1 → (d'.queue g.cid g.q).head = (d.queue g.cid g.q).head + 1)
        ∧ d'.mem.bytes = d.mem.bytes)
    ∧ (d.node? n = some x → x.typ = 2 → x.st = 2 → x.launched = true → x.groupsLeft = 0 → x.progsLeft = 0 → calm →
      Leads (.kernelNodeComplete n) s fun d' => d'.node? n = none)
    ∧ (d.node? n = some x → d.boardHeld pitch = false → pb.pollOrder = [n] → x.readyAt ≤ d.hubCycle → calm →
      (x.field 0x18 8 = 0 → Leads (.pegWaitNodePoll pitch) s fun d' => d'.node? n = none)
      ∧ (∀ pa gen, x.field 0x18 8 ≠ 0 → d.boardCycle pitch = true → pb.lastPollHub ≠ some d.hubCycle →
        x.sig = some (pa, gen) → d.isLocal pa = true → d.meshHas (d.homeTile (localOf pa)) pitch = true →
        d.readPois (localOf pa) 8 = false → leNat (d.readMem (localOf pa) 8) < 2 ^ 63 → Leads (.pegWaitNodePoll pitch) s fun d' =>
          (d'.pitchBoard pitch).lastPollHub = some d.hubCycle
          ∧ (x.field 0x18 8 ≤ leNat (d.readMem (localOf pa) 8) → d'.node? n = none)
          ∧ (leNat (d.readMem (localOf pa) 8) < x.field 0x18 8 → d'.node? n = some x)))

/-- KERNEL_NODE_DISPATCH, COPY_NODE_DISPATCH, REMOTE_NODE_DISPATCH, PEG_SIGNAL_NODE_DISPATCH,
HOST_NOTIFY_NODE_DISPATCH: the chosen node of a Board cycle goes out at the end of the hub cycle, unless a cancellation
comes first: a launch gives core l the groups l, l + n, l +
2n, … of its groups and invalidates the L1s; a move or a signal becomes the last descriptor of its engine's queue; a
notification raises its vector and completes; a node whose slot is lost completes at once, with event kind 0x17 (log 182). -/
def Obligations.NodesAreDispatched : Prop :=
  ∀ (s : State) (p n : Nat) (x : Node), let d := s.dev; let cores := s.dev.coresOf p
    d.boardCycle p = true → d.boardHeld p = false → (d.pitchBoard p).lastDispHub ≠ some d.hubCycle →
    d.pickDispatch p = some (n, x) → d.node? n = some x → d.mem.reqs = [] → x.pitch = p →
    (∀ g, d.graph? x.graph = some g → g.donePeg = none) → (∀ m ∈ d.board.nodes, m.2.st ≠ 3) →
    let starts (c : Instr) (P : Dev → Prop) : Prop := Leads c s fun d' =>
      d' = (d.modPitchBoard p fun b => { b with lastDispHub := some d.hubCycle }).modNode n (fun x => { x with st := 3 })
      ∧ P d'.startChosen
    let queued (d' : Dev) (e : Nat) (P : Desc → Prop) : Prop := (∃ y, d'.desc? d.board.nextDesc = some y ∧ P y
        ∧ y.node = some n ∧ y.cid = x.cid ∧ y.engine = e ∧ y.sig = x.sig)
      ∧ (d'.engine e).queue = (d.engine e).queue ++ [d.board.nextDesc] ∧ d'.node? n = some { x with st := 2 }
      ∧ d'.mem = d.mem
    let moved (y : Desc) : Prop := y.kind = 0 ∧ y.src = x.src ∧ y.dst = x.dst ∧ y.len = x.field 0x20 8
      ∧ y.sigAdd = BitVec.ofNat 64 (x.field 0x30 8) ∧ (y.final = true ↔ x.field 0x38 4 / 2 % 2 = 1)
    (x.typ = 2 → x.field 0x18 4 = 0 → x.field 0x30 4 ≠ 0 → cores.Nodup → starts (.kernelNodeDispatch (p, false)) fun d' =>
      (∃ y, d'.node? n = some y ∧ y.st = 2 ∧ y.launched = true ∧ y.groupsLeft = x.field 0x30 4
        ∧ y.progsLeft = (if x.field 0x2E 1 / 2 % 2 = 1 then cores.length else 0))
      ∧ ∀ l core, cores[l]? = some core → (d'.core core).l1 = []
        ∧ ∃ new, (d'.core core).waiting = (d.core core).waiting ++ new
        ∧ (∀ w ∈ new, w.node = n)
        ∧ ∀ g, (∃ w ∈ new, w.num = g) ↔ g < x.field 0x30 4 ∧ g % cores.length = l)
    ∧ (x.typ = 2 → x.field 0x18 4 ≠ 0 → starts (.kernelNodeDispatch (p, false)) fun d' =>
      d'.node? n = some { x with st := 2, codeLeft := cores.length } ∧ d'.mem = d.mem
      ∧ ∀ l core, cores[l]? = some core → ∃ y, d'.desc? (d.board.nextDesc + l) = some y ∧ y.kind = 2 ∧ y.node = some n
        ∧ y.engine = core / 4 ∧ y.src = x.src ∧ y.len = x.field 0x18 4)
    ∧ (∀ e, x.typ = 3 → x.field 0x20 8 ≠ 0 → d.engineOf x = some e →
      starts (.copyNodeDispatch (p, false)) fun d' => queued d' e moved)
    ∧ (∀ e, x.typ = 4 → x.field 0x20 8 ≠ 0 → d.engineOf x = some e →
      starts (.remoteNodeDispatch (p, false)) fun d' => queued d' e moved)
    ∧ (∀ e, x.typ = 5 → d.engineOf x = some e → starts (.pegSignalNodeDispatch (p, false)) fun d' => queued d' e fun y =>
      y.kind = 1 ∧ y.sigAdd = BitVec.ofNat 64 (x.field 0x18 8) ∧ (y.ordered = true ↔ x.field 0x20 1 % 2 = 1))
    ∧ (x.typ = 7 → starts (.hostNotifyNodeDispatch (p, false)) fun d' => d'.node? n = none
      ∧ (d.power.pcieL0 = true → (d.msixEntry (d.ctx x.cid).fn (x.field 0x10 2)).getLsbD 96 = false →
        .msix (d.ctx x.cid).fn (x.field 0x10 2) ∈ d'.out))
    ∧ (∀ c, (x.typ, c) ∈ [(2, Instr.kernelNodeDispatch (p, true)), (3, .copyNodeDispatch (p, true)),
        (4, .remoteNodeDispatch (p, true)), (5, .pegSignalNodeDispatch (p, true)), (7, .hostNotifyNodeDispatch (p, true))] →
      d.recorder.queue.length < 256 → Leads c s fun d' => d'.node? n = none
        ∧ ∃ e ∈ d'.recorder.queue, e.kind = 0x17 ∧ e.unit = p % 2 ^ 16)

/-- DESCRIPTOR_BEGIN, DMA_CHUNK, ORDERED_SIGNAL_SEND, DESCRIPTOR_COMPLETE: an engine begins its first descriptor and
locks the instruction-memory banks of its destination, or ends it when one of them was used before the cc; a chunk
whose turn has come reads its source and goes out as one write; an ordered signal goes out when nothing sent before it
is unacknowledged; a completed descriptor's peg is signalled after OK and abandoned after an error, and its node
completes. -/
def Obligations.DmaEngines : Prop :=
  ∀ (s : State) (e n : Nat) (x : Desc), let d := s.dev
    d.desc? n = some x → d.mem.reqs = [] → x.stopped = false → (d.engine e).paused = false → x.engine = e →
    (∀ rest, (d.engine e).queue = n :: rest → d.engineFree e = true → x.kind ≠ 1 → Leads (.descriptorBegin e) s fun d' =>
      (d'.engine e).queue = rest ∧ (d'.engine e).cur = some n ∧ d'.mem = d.mem
      ∧ ((∀ b ∈ d.banksIn x.dst, (d.core b.1).touched.getLsbD b.2 = false) →
          d'.desc? n = some { x with banks := d.banksIn x.dst })
      ∧ ((∃ b ∈ d.banksIn x.dst, (d.core b.1).touched.getLsbD b.2 = true) →
          d'.desc? n = some { x with issuedAll := true, status := 2 }))
    ∧ (∀ src dst, (d.engine e).cur = some n → x.kind = 0 → x.issuedAll = false → x.await = [] → x.get = false →
      x.add = none → x.src = [src] → x.dst = [dst] → src.len = x.len → dst.len = x.len → x.done < x.len →
      d.isLocal src.pa = true → d.isLocal dst.pa = true → (∀ c, (d.core c).testing = false) →
      localOf src.pa + x.len ≤ 0x400000000 → localOf dst.pa + x.len ≤ 0x400000000 →
      (∀ sec, tget 0 d.mem.symErr sec = 0) → let sa := localOf src.pa + x.done; let da := dst.pa + x.done
      let k := min (x.len - x.done) (512 - da % 512)
      d.repairsFor sa k = [] → d.readPois (sa / 32 * 32) (k + 32) = false → d.dmaTurn x [(src.pa + x.done, k)] = true →
      Leads (.dmaChunk e []) s fun d' => d'.mem.bytes = d.mem.bytes
        ∧ (∃ y, d'.desc? n = some y ∧ y.done = x.done + k ∧ y.status = x.status ∧ y.await = [d.mem.nextTag]
          ∧ (y.issuedAll = true ↔ x.done + k = x.len))
        ∧ ∃ r, d'.mem.reqs = [(d.mem.nextTag, r)] ∧ r.addr = da ∧ r.len = k ∧ r.dev = none ∧ r.org = .desc n
          ∧ r.kind = .write (withOffsets (d.readMem sa k)) [])
    ∧ (∀ pa gen m, (d.engine e).cur = some n → x.kind = 1 → x.ordered = true → x.issuedAll = false →
      x.sig = some (pa, gen) → d.isLocal pa = false → d.unreachable (devOf pa) = false → d.route (devOf pa) = .port m →
      x.pitch < 64 → planShare d.pl m x.pitch ≠ 0 → Leads (.orderedSignalSend e) s fun d' =>
        (∃ y, d'.desc? n = some y ∧ y.issuedAll = true ∧ y.sigDone = true ∧ y.await = x.await ++ [d.mem.nextTag])
        ∧ (∃ r, d'.mem.reqs = [(d.mem.nextTag, r)] ∧ r.kind = .pegSignal x.sigAdd ∧ r.addr = pa
          ∧ r.dev = some (devOf pa) ∧ r.queued = true)
        ∧ ∃ pk, tget [] (d'.port m).txq x.pitch = tget [] (d.port m).txq x.pitch ++ [pk] ∧ pk.cls = 7
          ∧ pk.pegAmt = x.sigAdd)
    ∧ (x.issuedAll = true → x.await = [] → x.banks = [] → x.kind = 0 →
      (∀ m y, x.node = some m → d.node? m = some y → x.sig = none →
        (∀ g, d.graph? y.graph = some g → g.donePeg = none) → Leads (.descriptorComplete n) s fun d' =>
        d'.desc? n = none ∧ d'.node? m = none ∧ n ∉ (d'.engine e).queue ∧ (d'.engine e).cur ≠ some n)
      ∧ (∀ pa gen k l, x.node = none → x.sig = some (pa, gen) → x.sigDone = false → (d.ctx x.cid).live = true →
        d.mem.fetches = [] →
        d.isLocal pa = true → pa % 8 = 0 → d.quarantined (localOf pa / 128) = false →
        d.canFind (localOf pa / 128) = some k → lookup? d.mem.canopy k = some l →
        let o := localOf pa % 128
        let peg (y : CanLine) : Nat := leNat ((List.range 8).map fun i => tget 0 y.data (o + i))
        Leads (.descriptorComplete n) s fun d' => d'.desc? n = none ∧ ∃ l', d'.canLine? (localOf pa / 128) = some l'
          ∧ (x.status = 0 ∨ x.status = 5 → peg l' = peg l / 2 ^ 63 * 2 ^ 63 + (peg l + x.sigAdd.toNat) % 2 ^ 63)
          ∧ (x.status ≠ 0 → x.status ≠ 5 → peg l' = peg l % 2 ^ 63 + 2 ^ 63)))

/-! ## The fabric -/

/-- READ_RX, WRITE_RX, ADD_RX, SIGNAL_RX, WRITE_FINAL_RX, ADD_FINAL_RX, READ_RESP_RX, ACK_RX: a request that R416
admits is performed, once the banks of a scratchpad grant it, at its home and answered with its TAG; a final is held
until the writes that it counts have arrived; a reply ends the request that it answers, and a RETRY asks for it again
1 µs later. -/
def Obligations.FabricReceivers : Prop :=
  ∀ (s : State) (n m : Nat) (p : Packet) (rest : List Packet), let d := s.dev
    (d.port n).rxq = p :: rest → p.dst.toNat = d.ownId → d.offFabric = false →
    (∀ c, (d.core c).testing = false) →
    let reply (d' : Dev) (P : Packet → Prop) : Prop := (d'.port n).rxq = rest ∧ ∃ y,
      tget [] (d'.port m).txq 64 = tget [] (d.port m).txq 64 ++ [y] ∧ y.dst = p.src ∧ y.tag = p.tag ∧ P y
    let acked (d' : Dev) : Prop := reply d' fun y => y.cls = 8 ∧ y.state = 0 ∧ y.payload = []
    let line := p.addr / 128
    let granted := (d.claim (1000 + n) (d.packetUnits p)).2
    (granted = false → p.cls = 3 → Leads (.writeRx n) s fun d' => (d'.port n).rxq = p :: rest ∧ d'.mem = d.mem)
    ∧ (granted = true → d.route p.src.toNat = .port m → refused p = false → d.mem.reqs = [] → d.mem.fetches = [] →
      (p.cls = 1 → d.repairsFor p.addr p.len = [] → (∀ sec, tget 0 d.mem.symErr sec = 0) →
        Leads (.readRx (n, [])) s fun d' =>
        reply d' (fun y => y.cls = 2 ∧ y.state = 0 ∧ y.payload = d.readMem p.addr p.len ∧ y.addr = p.addr)
        ∧ d'.mem.bytes = d.mem.bytes ∧ d'.mem.canopy = d.mem.canopy)
      ∧ (p.cls = 3 → p.state.getLsbD 1 = false → p.payload.length = p.len → Leads (.writeRx n) s fun d' => acked d'
        ∧ (∀ a, (a < p.addr ∨ p.addr + p.len ≤ a) → byteAt d'.mem.bytes a = byteAt d.mem.bytes a)
        ∧ (p.addr % 128 + p.len ≤ 128 → p.addr + p.len ≤ 0x400000000 → d.quarantined line = false →
            (∀ sec, tget 0 d.mem.symErr sec ≤ 3) → d'.readMem p.addr p.len = p.payload))
      ∧ (∀ k l, d.canFind line = some k → lookup? d.mem.canopy k = some l → d.quarantined line = false →
        p.addr + p.len ≤ 0x400000000 → p.cls = 5 → p.state.getLsbD 1 = false → p.addType = 0 → p.len = 4 →
        p.payload.length = 4 → Leads (.addRx n) s fun d' => acked d' ∧ d'.mem.bytes = d.mem.bytes
          ∧ ∃ l', d'.canLine? line = some l'
            ∧ leNat ((List.range 4).map fun i => tget 0 l'.data (p.addr % 128 + i)) =
              (leNat ((List.range 4).map fun i => tget 0 l.data (p.addr % 128 + i)) + leNat p.payload) % 2 ^ 32)
      ∧ (∀ k l, let pl := p.pegAddr / 128; let o := p.pegAddr % 128
        let peg (y : CanLine) : Nat := leNat ((List.range 8).map fun i => tget 0 y.data (o + i))
        d.canFind pl = some k → lookup? d.mem.canopy k = some l → d.quarantined pl = false → p.pegAddr < 0x400000000 →
        p.cls = 7 → Leads (.signalRx n) s fun d' => acked d' ∧ d'.mem.bytes = d.mem.bytes ∧ ∃ l', d'.canLine? pl = some l'
          ∧ peg l' = peg l / 2 ^ 63 * 2 ^ 63 + (peg l + p.pegAmt.toNat) % 2 ^ 63)
      ∧ (∀ k, (p.cls = 4 ∧ k = .writeFinalRx n) ∨ (p.cls = 6 ∧ k = .addFinalRx n) → d.fab.tracks = [] →
        0 < d.payerQuads (d.ownerOfAddr p.addr) → p.attach = false →
        (p.finCnt = 0 → Leads k s fun d' => acked d' ∧ d'.fab.tracks = [])
        ∧ (p.finCnt ≠ 0 → Leads k s fun d' => (d'.port n).rxq = rest ∧ (d'.port n).txq = (d.port n).txq ∧ d'.mem = d.mem
          ∧ ∃ t, d'.fab.tracks = [t] ∧ t.held = some (p.finCnt, p) ∧ t.src = p.src.toNat ∧ t.sender = p.sender
            ∧ t.count = 0)))
    ∧ (∀ tag r e off, d.mem.reqs = [(tag, r)] → tag % 65536 = p.tag.toNat → r.dev = some p.src.toNat → r.queued = true →
      r.st = 0 → r.status = 0 → r.orphan = false →
      (p.cls = 2 → r.org = .descRead e off → p.state = 0 → p.poison = 0 → p.payload.length = r.len →
        Leads (.readRespRx n) s fun d' => (d'.port n).rxq = rest
          ∧ d'.mem.reqs = [(tag, { r with st := 2, resp := p.payload, respPois := [] })])
      ∧ (p.cls = 8 → r.org = .desc e → r.acks = 1 →
        (p.state = 0 → Leads (.ackRx n) s fun d' => d'.mem.reqs = [(tag, { r with st := 2, acks := 0 })])
        ∧ (p.state = 1 → Leads (.ackRx n) s fun d' => d'.mem.reqs = [(tag, { r with st := 2, acks := 0, status := 3 })])
        ∧ (p.state = 2 → Leads (.ackRx n) s fun d' => d'.mem.reqs = [(tag, { r with
            retryAt := some (d.time + ccUs 1) })])))

/-- FLIT_RX, FLIT_SLOT, PACKET_TRANSIT, RETRY_RESEND, LANE_ALARM, FLIT_LOSS_TIMEOUT, RETRAIN_END, DEAD_PORT_RETRY: a
flit with the next SEQ delivers its packets, any other one asks for a replay; a slot sends the packet of its owner in
a data flit, or an idle flit; a request that got RETRY is sent again at its time; a packet for another device goes on
with one hop more, up to 32; an alarm or 10 µs of silence starts a retrain, which ends UP or DEAD, and a DEAD port is
tried again after a second. -/
def Obligations.FlitsAndPorts : Prop :=
  ∀ (s : State) (n : Nat), let d := s.dev; let q := s.dev.port n
    (∀ f : Flit, d.portUp n = true → f.ok = false → Leads (.flitRx n f) s fun d' => (d'.port n).nakDue = true
      ∧ (d'.port n).rxSeq = q.rxSeq ∧ (d'.port n).rxq = q.rxq
      ∧ (d'.port n).fecUncorr = q.fecUncorr.bump 0xFF 1 d.time)
    ∧ (∀ f : Flit, d.portUp n = true → f.ok = true → f.crc = crc32 (flitBytes f) → f.kind = 0 → f.enc = false →
      q.keyCtlBit 4 = false → let expect : BitVec 12 := if q.rxAny then q.rxSeq + 1 else 0
      (f.seq ≠ expect → Leads (.flitRx n f) s fun d' => (d'.port n).nakDue = true ∧ (d'.port n).rxSeq = q.rxSeq
        ∧ (d'.port n).rxq = q.rxq)
      ∧ (f.seq = expect → Leads (.flitRx n f) s fun d' => (d'.port n).rxSeq = f.seq ∧ (d'.port n).rxAny = true
        ∧ (d'.port n).rxq = q.rxq ++ (parsePackets 32 (q.rxPart ++ f.body.take 244)).1
        ∧ (d'.port n).rxPart = (parsePackets 32 (q.rxPart ++ f.body.take 244)).2
        ∧ (d'.port n).lastFlitAt = d.time ∧ d'.mem = d.mem))
    ∧ (d.portUp n = true → q.resend = [] → q.retry.length < 1024 → q.keyCtlBit 3 = false →
      (∀ o p, d.slotOwner n q.frameSlot = some o → tget [] q.txq o = [p] → tget [] q.txPart o = [] →
        let x := d.leaving n p
        packetCredits p ≤ tget 512 q.credit (packetVc x) → (packetBytes x).length ≤ 244 → Leads (.flitSlot n) s fun d' =>
          (d'.port n).frameSlot = (q.frameSlot + 1) % 64 ∧ (d'.port n).txSeq = q.txSeq + 1
          ∧ tget [] (d'.port n).txq o = [] ∧ (d'.port n).inFlight = q.inFlight ++ [(q.txSeq, p)]
          ∧ tget 512 (d'.port n).credit (packetVc x) = tget 512 q.credit (packetVc x) - packetCredits p
          ∧ ∃ f, d'.out = .flit n f :: d.out ∧ f.kind = 0 ∧ f.seq = q.txSeq ∧ f.ack = q.rxSeq ∧ f.nak = q.nakDue
            ∧ f.enc = false ∧ f.body = (packetBytes x ++ zeros 244).take 244 ∧ f.crc = crc32 (flitBytes f)
            ∧ (d'.port n).retry = q.retry ++ [f])
      ∧ (q.txq = [] → Leads (.flitSlot n) s fun d' => (d'.port n).frameSlot = (q.frameSlot + 1) % 64
        ∧ (d'.port n).txSeq = q.txSeq ∧ (d'.port n).retry = q.retry
        ∧ ∃ f, d'.out = .flit n f :: d.out ∧ f.kind = 1 ∧ f.seq = q.txSeq ∧ f.ack = q.rxSeq))
    ∧ (∀ p rest m, q.rxq = p :: rest → d.offFabric = false → p.dst.toNat ≠ d.ownId → d.mem.reqs = [] →
      (p.hops < 32 → d.route p.dst.toNat = .port m → Leads (.packetTransit n) s fun d' => (d'.port n).rxq = rest
        ∧ ∃ y, tget [] (d'.port m).txq 64 = tget [] (d.port m).txq 64 ++ [y] ∧ y.hops = p.hops + 1 ∧ y.dst = p.dst
          ∧ y.src = p.src ∧ y.tag = p.tag ∧ y.addr = p.addr ∧ y.payload = p.payload)
      ∧ (32 ≤ p.hops → Leads (.packetTransit n) s fun d' => (d'.port n).rxq = rest
        ∧ d'.fab.hopDrop = d.fab.hopDrop.bump 0xFFFF 1 d.time))
    ∧ (let retrains (k : Instr) : Prop := Leads k s fun d' => (d'.port n).st = 2
        ∧ (d'.port n).retrains = q.retrains.bump 0xFF 1 d.time ∧ ∃ f, d'.out = .flit n f :: d.out ∧ f.kind = 2
      d.portUp n = true → q.txq = [] → q.inFlight = [] → q.doubt = [] → d.mem.reqs = [] →
      (∀ lane, lane < 9 → retrains (.laneAlarm n lane)) ∧ (q.lastFlitAt + ccUs 10 ≤ d.time →
        retrains (.flitLossTimeout n)))
    ∧ (∀ r : TrainResult, d.portRetrain n = true → q.doubt = [] → q.txq = [] → d.mem.reqs = [] →
      (lanesOk r.rxFail = true → lanesOk r.txFail = true → r.partner = some q.partner → r.lastSeq = none →
        Leads (.retrainEnd n r) s fun d' => d'.port n = q.trained r d.time)
      ∧ (q.noPartner = false → (lanesOk r.rxFail = false ∨ lanesOk r.txFail = false ∨ r.partner = none
        ∨ q.partnerValid = true ∧ r.partner ≠ some q.partner) →
        Leads (.retrainEnd n r) s fun d' => (d'.port n).st = 4 ∧ (d'.port n).trainSt = 2 ∧ (d'.port n).deaths = q.deaths.bump 0xFF 1 d.time
          ∧ (d'.port n).deadAt = d.time))
    ∧ (∀ tag r t dev pitch m, d.mem.reqs = [(tag, r)] → r.retryAt = some t → t ≤ d.time → r.st = 0 → r.kind = .read →
      r.dev = some dev → d.unreachable dev = false → d.route dev = .port m → r.pitch = some pitch → pitch < 64 →
      planShare d.pl m pitch ≠ 0 → Leads (.retryResend tag) s fun d' =>
        d'.mem.reqs = [(tag, { r with retryAt := none, queued := true, acks := 1, sentAt := d.time })]
        ∧ ∃ y, tget [] (d'.port m).txq pitch = tget [] (d.port m).txq pitch ++ [y] ∧ y.cls = 1
          ∧ y.tag = BitVec.ofNat 16 tag)
    ∧ (n < 12 → q.st = 4 → q.deadAt + ccUs 1000000 ≤ d.time → Gives (.deadPortRetry n) s (d.modPort n fun q => { q with
        st := 2, retrains := q.retrains.bump 0xFF 1 d.time }))

/-- HOLD_RX, ECHO_RX, ECHO_REPLY_RX, SEQ_QUERY_RX, SEQ_REPLY_RX, KEY_CHECK_RX, HOLD_SEND, ECHO_SEND, UNREACH_RX,
UNREACH_TIMEOUT, UNREACH_CLEAR: what management packets change and answer; a device that stays silent becomes
unreachable and its requests end with REMOTE_LOST; the PF clears the bits that it writes with 1. -/
def Obligations.FabricManagement : Prop :=
  ∀ (s : State) (n m : Nat) (p : Packet) (rest : List Packet), let d := s.dev
    let here : Prop := (d.port n).rxq = p :: rest ∧ p.dst.toNat = d.ownId ∧ d.offFabric = false ∧ d.mem.reqs = []
    let mgmt (sub : Nat) : Prop := here ∧ p.cls = 10 ∧ p.addr % 256 = sub
    let sends (d' : Dev) (dst : BitVec 12) (addr : Nat) : Prop := ∃ y,
      tget [] (d'.port m).txq 65 = tget [] (d.port m).txq 65 ++ [y] ∧ y.cls = 10 ∧ y.dst = dst ∧ y.addr = addr
    (mgmt 1 → Leads (.holdRx n) s fun d' => (d'.port n).rxq = rest
      ∧ lookup? d'.fab.holdAt (p.addr / 2 ^ 8 % 2 ^ 12) = some d.time)
    ∧ (mgmt 2 → d.route p.src.toNat = .port m → Leads (.echoRx n) s fun d' => (d'.port n).rxq = rest ∧ sends d' p.src 3)
    ∧ (mgmt 3 → Leads (.echoReplyRx n) s fun d' => (d'.port n).rxq = rest
      ∧ lookup? d'.fab.heardAt p.src.toNat = some d.time)
    ∧ (mgmt 4 → d.route p.src.toNat = .port m → Leads (.seqQueryRx n) s fun d' => (d'.port n).rxq = rest
      ∧ sends d' p.src (5 + 256 * (p.addr / 2 ^ 8 % 2 ^ 4 + 16 * (d.port (p.addr / 2 ^ 8 % 2 ^ 4)).rxSeq.toNat)))
    ∧ (∀ k x f, mgmt 5 → k < 12 → (d.port k).partner = p.src → (d.port k).doubt = [x] → (d.port k).retry = [f] →
      f.seq = x.1 → p.addr / 2 ^ 12 % 2 ^ 12 = x.1.toNat → (∀ j, j < k → (d.port j).doubt = []) →
      Leads (.seqReplyRx n) s fun d' => (d'.port k).doubt = [] ∧ (d'.port k).retry = []
        ∧ ∀ j, (d'.port j).txq = (d.port j).txq)
    ∧ (mgmt 0x10 → p.payload.length = 8 → let slot := leNat (p.payload.take 1) % 2
      Leads (.keyCheckRx n) s fun d' => ((d'.port n).key slot).check = some (BitVec.ofNat 32 (leNat (p.payload.drop 4)))
        ∧ ((d'.port n).key slot).key = ((d.port n).key slot).key)
    ∧ (∀ t w, d.offFabric = false → d.fab.waiting = [] → d.fab.tracks = [t] →
      t.held = some (w, p) → t.holdAt + ccUs 100 ≤ d.time → d.route p.src.toNat = .port m →
      Leads (.holdSend p.tag.toNat) s fun d' => sends d' p.src (1 + 256 * p.dst.toNat) ∧ d'.mem = d.mem
        ∧ d'.fab.tracks = [{ t with holdAt := d.time }])
    ∧ (∀ w, d.offFabric = false → d.fab.waiting = [(p, w)] → w + ccUs 100 ≤ d.time → d.route p.src.toNat = .port m →
      Leads (.holdSend p.tag.toNat) s fun d' => sends d' p.src (1 + 256 * p.dst.toNat) ∧ d'.mem = d.mem
        ∧ d'.fab.waiting = [(p, d.time)])
    ∧ (∀ t w, d.offFabric = false → d.fab.tracks = [t] → t.held = some (w, p) → t.echoAt + ccUs 100 ≤ d.time →
      t.src < 4096 → d.route t.src = .port m → Leads (.echoSend t.src) s fun d' =>
        sends d' (BitVec.ofNat 12 t.src) 2 ∧ d'.mem = d.mem ∧ d'.fab.tracks = [{ t with echoAt := d.time }])
    ∧ (here → p.cls = 9 → p.addr < 4096 → (∀ t ∈ d.fab.tracks, t.held = none) → Leads (.unreachRx n) s fun d' =>
      d'.unreachable p.addr = true ∧ (d'.port n).rxq = rest ∧ d'.mem = d.mem ∧ d'.fab.tracks = d.fab.tracks)
    ∧ (∀ dev tag r e, d.unreachDue dev = true → d.unreachable dev = false → d.mem.reqs = [(tag, r)] → r.dev = some dev →
      r.st = 0 → r.queued = true → r.org = .desc e → r.orphan = false → (∀ t ∈ d.fab.tracks, t.held = none) →
      Leads (.unreachTimeout dev) s fun d' => d'.unreachable dev = true ∧ d'.mem.reqs = [(tag, r.lost)]
        ∧ d'.fab.tracks = d.fab.tracks
        ∧ d'.mem.bytes = d.mem.bytes)
    ∧ (∀ fn k (v : W64), d.reach fn = true → isPf fn = true → k < 64 → Leads (.unreachClear fn k v) s fun d' =>
      (∀ dev, dev / 64 = k → v.getLsbD (dev % 64) = true → (tget {} d.fab.unreach dev).setAt ≠ d.time →
        d'.unreachable dev = false)
      ∧ (∀ dev, (dev / 64 ≠ k ∨ v.getLsbD (dev % 64) = false) → d'.unreachable dev = d.unreachable dev)
      ∧ { d' with fab := { d'.fab with unreach := d.fab.unreach } } = d)

/-! ## Pre-emption, checks and dice tests -/

/-- PITCH_SAVE, SAVE_COMPLETE, PITCH_RESTORE, RESTORE_COMPLETE, CARRIED_REPLY: the PF saves and restores an unlocked
pitch, and CODE says why it does not; a running save holds the pitch's cores and engines alone; a carried write that
is answered leaves its core and its context's count. -/
def Obligations.SaveAndRestore : Prop :=
  ∀ (s : State) (fn p : Nat) (v : W32), let d := s.dev; let h := s.dev.host
    let asks (op : Nat) : Prop := d.reach fn = true ∧ isPf fn = true ∧ v.toNat % 64 = p ∧ v.toNat / 2 ^ 30 = op
      ∧ h.preBusy = none ∧ h.preWaiting = none ∧ d.unlocked p = true
    let bad (code : Nat) : Dev := d.modHost fun h => { h with preCode := code, preElapsed := 0, preBusy := none }
    (asks 1 → d.pitchValid p = true → d.commitChanges p = false →
      (d.pitchSaved p = true → Gives (.pitchSave fn v) s (bad 2))
      ∧ (d.pitchSaved p = false → d.mem.reqs = [] →
        (∀ c, c ∈ d.coresOf p → (d.core c).wb = [] ∧ (d.core c).testing = false) → Leads (.pitchSave fn v) s fun d' =>
        d'.host = { h with preBusy := some (true, p, d.time) } ∧ d'.mem = d.mem
        ∧ (∀ c, c ∈ d.coresOf p → (d'.core c).saved = true ∧ (d'.core c).slots = (d.core c).slots
            ∧ (d'.core c).captures = [] ∧ (d'.core c).chkSkipped =
              (d.core c).chkSkipped.bump 0xFFFF (d.core c).captures.length d.time)
        ∧ (∀ c, c ∉ d.coresOf p → d'.core c = d.core c)
        ∧ (∀ e, e ∈ d.enginesOf p → (d'.engine e).paused = true)
        ∧ ∀ e, e ∉ d.enginesOf p → d'.engine e = d.engine e))
    ∧ (asks 2 → d.pitchValid p = true → d.commitChanges p = false →
      (d.pitchSaved p = false → Gives (.pitchRestore fn v) s (bad 2))
      ∧ (d.pitchSaved p = true →
        Gives (.pitchRestore fn v) s (d.modHost fun h => { h with preBusy := some (false, p, d.time) })))
    ∧ (asks 1 → d.pitchValid p = false → Gives (.pitchSave fn v) s (bad 1))
    ∧ (asks 2 → d.pitchValid p = false → Gives (.pitchRestore fn v) s (bad 1))
    ∧ (asks 1 → d.pitchValid p = true → d.commitChanges p = true →
      Gives (.pitchSave fn v) s (d.modHost fun h => { h with preWaiting := some (true, p) }))
    ∧ (∀ t0, h.preBusy = some (true, p, t0) → d.pitchDrained p = true → Leads .saveComplete s fun d' =>
      d'.host.preBusy = none ∧ d'.host.preCode = 0 ∧ d'.host.preSaved = h.preSaved ||| ((1 : BitVec 64) <<< p)
      ∧ d'.host.preElapsed = satAdd 0xFFFF 0 (usOf (d.time - t0)) ∧ d'.mem.reqs = d.mem.reqs ∧ d'.board = d.board
      ∧ ∀ c, c ∉ d.coresOf p → d'.core c = d.core c)
    ∧ (∀ t0, h.preBusy = some (false, p, t0) → Leads .restoreComplete s fun d' =>
      d'.host = { h with preBusy := none, preCode := 0, preElapsed := satAdd 0xFFFF 0 (usOf (d.time - t0))
                         preSaved := h.preSaved &&& ~~~((1 : BitVec 64) <<< p) }
      ∧ d'.mem.reqs = d.mem.reqs
      ∧ (∀ c, c ∈ d.coresOf p → (d'.core c).saved = false ∧ (d'.core c).l1 = [] ∧ (d'.core c).rng = (d.core c).rng)
      ∧ (∀ c, c ∉ d.coresOf p → d'.core c = d.core c)
      ∧ ∀ e, e ∈ d.enginesOf p → (d'.engine e).paused = false)
    ∧ (∀ core tag r c' n cid, d.mem.reqs = [(tag, r)] → r.st = 2 → r.status = 0 → r.org = .drain c' n →
      r.cid = some cid → tag ∈ (d.core core).carried → (d.core core).saved = true ∨ (d.core core).wb = [] →
      Leads (.carriedReply core tag) s fun d' => d'.mem.reqs = []
        ∧ (d'.core core).carried = (d.core core).carried.filter (fun t => t != tag)
        ∧ d'.ctx cid = { d.ctx cid with carriedWrites := (d.ctx cid).carriedWrites - 1 }
        ∧ d'.mem.bytes = d.mem.bytes ∧ ∀ c, c ≠ core → d'.core c = d.core c)

/-- PARTNER_CHECK, CHECK_COMPARE, DICE_TEST_DUE, DICE_SEGMENT_START, DICE_SEGMENT_END, DICE_SEGMENT_ABANDON: a check
begins on an idle partner and compares after its span; a mismatch sends both cores to WATCH; a test falls due, saves
what it overwrites, gives it back at its end, and a failed segment sends a ROUTINE core to WATCH. -/
def Obligations.ChecksAndTests : Prop :=
  ∀ (s : State) (core : Nat), core < 256 → let d := s.dev; let k := s.dev.core core; let p := partnerOf core
    (k.checking = false → k.saved = false → k.testing = false → k.seq.st = 0 → k.seq.endAt = none →
      (∃ x, x ∈ (d.core p).captures ∧ x.complete = true) →
      Gives (.partnerCheck core) s (d.modCore core fun k => { k with checking := true, checkAt := d.time }))
    ∧ (∀ x, k.checking = true → (d.core p).captures.find? (fun x => x.complete) = some x →
      k.checkAt + x.span + 128 ≤ d.time →
      (sumsCrc x.sums = sumsCrc x.recompute → Leads (.checkCompare core 0) s fun d' =>
        (d'.core p).captures = (d.core p).captures.filter (fun y => y.num != x.num)
        ∧ (d'.core p).chkCompared = (d.core p).chkCompared.bump 0xFFFF 1 d.time
        ∧ (d'.core p).chkMismatch = (d.core p).chkMismatch ∧ (d'.core p).health = (d.core p).health
        ∧ (d'.core core).checkAt = k.checkAt + x.span ∧ (d'.core core).health = k.health ∧ d'.mem = d.mem)
      ∧ (∀ err, sumsCrc x.sums ≠ sumsCrc x.recompute ^^^ err → (d.ctx x.cid).live = false → k.health = 0 →
        (d.core p).health = 0 → Leads (.checkCompare core err) s fun d' =>
          (d'.core p).chkMismatch = (d.core p).chkMismatch.bump 0xFF 1 d.time ∧ (d'.core p).health = 1
          ∧ (d'.core core).health = 1 ∧ d'.mem = d.mem))
    ∧ (k.testDue = false → d.testable core = true → d.power.porReleased = true →
      max k.testDueAt d.power.pwrGoodAt + testPeriod k.health ≤ d.time →
      Gives (.diceTestDue core) s (d.modCore core fun k => { k with testDue := true, testDueAt := d.time, testSeg := 0 }))
    ∧ (d.fullService = true → d.boot.stewardRestarting = false → d.commitPastB = false → d.testMay core = true →
      (∀ c, c ≠ core → tileOf c = tileOf core → d.testMay c = false) →
      Gives (.diceSegmentStart core) s (d.modCore core fun k => { k with
        testing := true, testSave := d.mem.bytes.filter fun b => inTestSave core b.1 }))
    ∧ (k.testing = true → k.wb = [] → d.mem.reqs = [] → Memory.wf k.testSave = true → Memory.wf d.mem.bytes = true →
      (∀ b, b ∈ k.testSave → inTestSave core b.1 = true) →
      let back (c : Instr) (P : Core → Prop) : Prop := Leads c s fun d' => (d'.core core).testing = false
        ∧ P (d'.core core) ∧ (∀ a, inTestSave core a = true → byteAt d'.mem.bytes a = byteAt k.testSave a)
        ∧ ∀ a, inTestSave core a = false → byteAt d'.mem.bytes a = byteAt d.mem.bytes a
      back (.diceSegmentAbandon core) (fun k' => k'.testSeg = k.testSeg ∧ k'.testDue = k.testDue)
      ∧ (k.testSeg + 1 < d.packSegments → back (.diceSegmentEnd core true) fun k' =>
          k'.testSeg = k.testSeg + 1 ∧ k'.testDue = k.testDue ∧ k'.health = k.health)
      ∧ (k.health = 0 → k.testSeg + 1 = d.packSegments → back (.diceSegmentEnd core true) fun k' =>
          k'.testSeg = 0 ∧ k'.testDue = false ∧ k'.health = 0)
      ∧ (k.health = 0 → back (.diceSegmentEnd core false) fun k' =>
          k'.testSeg = 0 ∧ k'.testDue = true ∧ k'.health = 1))

/-- PACK_GO, PACK_VERIFY_DONE, DBG_UNLOCK, TOKEN_VERIFY_DONE, DBG_RELOCK: a command word names an address; the
verification's CODE decides whether the pack comes into force or the token's pitches and port are opened; RELOCK closes
everything. -/
def Obligations.PacksAndTokens : Prop :=
  ∀ (s : State) (fn : Nat) (w : CmdWrite), let d := s.dev; let x := s.dev.sec
    let word (i : Nat) : Nat := match w with
      | .full v => v.toNat
      | .high v => v.toNat * 2 ^ 32 + (tget 0 (d.func fn).held i).toNat
    let byPf : Prop := d.reach fn = true ∧ isPf fn = true
    (byPf → x.packBusy = false → word 2 / 2 ^ 63 % 2 = 1 → Leads (.packGo fn w) s fun d' =>
      d'.sec = { x with packBusy := true, packAddr := word 2 / 2 ^ 12 % 2 ^ 32 * 4096 } ∧ d'.mem = d.mem)
    ∧ (x.packBusy = true → d.meshHas (d.homeTile x.packAddr) 0xFF = true → let r := d.packCheck x.packAddr
      d.errorsIn x.packAddr (d.packSpan x.packAddr) = [] →
      if r.1 ≠ 0 then Gives .packVerifyDone s (d.modSec fun x => { x with packBusy := false, packCode := r.1 })
      else Leads .packVerifyDone s fun d' =>
        d'.sec = { x with packBusy := false, packCode := 0, pack := some r.2 } ∧ d'.mem = d.mem
        ∧ d'.boot.meas = (d.extend 7 (Config.sha384 (d.readMem x.packAddr
            (0x100 + leNat (d.readMem (x.packAddr + 0x0C) 4))))).boot.meas
        ∧ ∀ c, (d.core c).testing = false → (d'.core c).testSeg = 0)
    ∧ (byPf → x.dbgBusy = false → word 3 / 2 ^ 62 % 4 = 1 → Leads (.dbgUnlock fn w) s fun d' =>
      d'.sec = { x with dbgBusy := true, dbgAddr := word 3 / 2 ^ 12 % 2 ^ 32 * 4096 } ∧ d'.mem = d.mem)
    ∧ (d.meshHas (d.homeTile x.packAddr) 0xFF = false → Gives .packVerifyDone s d)
    ∧ (∀ nonce, d.meshHas (d.homeTile x.dbgAddr) 0xFF = false → Gives (.tokenVerifyDone nonce) s d)
    ∧ (∀ nonce, x.dbgBusy = true → x.dbgHeld = none → d.meshHas (d.homeTile x.dbgAddr) 0xFF = true →
      d.errorsIn x.dbgAddr tokenLen = [] →
      (∀ c, d.plan.commit = some c → c.reason = 0 → 3 ≤ c.phase →
        Gives (.tokenVerifyDone nonce) s (d.modSec fun x => { x with dbgHeld := some (d.tokenFound nonce) }))
      ∧ ((∀ c, d.plan.commit = some c → c.reason ≠ 0 ∨ c.phase < 3) →
        Leads (.tokenVerifyDone nonce) s fun d' => d'.mem = d.mem
        ∧ d'.sec.dbgBusy = false ∧ d'.sec.dbgCode = d.tokenCheck x.dbgAddr ∧ d'.sec.nonce = nonce
        ∧ (d.tokenCheck x.dbgAddr ≠ 0 → d'.sec.unlocked = x.unlocked ∧ d'.sec.jtagOpen = x.jtagOpen)
        ∧ (d.tokenCheck x.dbgAddr = 0 → ∀ p, p < 64 → (d'.unlocked p = true ↔ d.unlocked p = true
            ∨ leNat (d.readMem (x.dbgAddr + 0x48) 8) / 2 ^ p % 2 = 1))))
    ∧ (byPf → x.dbgBusy = false → word 3 / 2 ^ 62 % 4 = 2 → Leads (.dbgRelock fn w) s fun d' =>
      d'.sec = { x with unlocked := 0, jtagOpen := false, dbgCode := 0 } ∧ d'.mem = d.mem
      ∧ ∀ cid, (d.ctx cid).pitch < 64 → (d'.ctx cid).compat = false)

/-! ## Power, management and attestation -/

/-- POWER_CAP_WINDOW, SET_ENDPOINT_ID, PLDM_DISCOVERY, PLDM_SENSOR_READ, PLDM_EFFECTER_SET, PLDM_FW_UPDATE: each valid
pitch's next duty is the largest that its part allows; management requests change only the EID, the setpoint and, if the
image passes, its flash region. -/
def Obligations.PowerAndManagement : Prop :=
  ∀ s : State, let d := s.dev; let x := s.dev.sec
    (∀ est, d.power.mainLock = true → Leads (.powerCapWindow est) s fun d' =>
      (∀ p, p ∉ d.validPitches → d'.pitchCnt p = d.pitchCnt p)
      ∧ (∀ p e, p ∈ d.validPitches → est.find? (fun e => e.pitch == p) = some e →
        let now := (d.pitchCnt p).dutyNow d.hubCc
        let fits (n : Nat) : Prop :=
          (e.nonArray * now + e.array * n) * 64 ≤ (d.setpointWatts - 140) * 1000 * d.quadCount p * now
        ∃ n, d'.pitchCnt p = { d.pitchCnt p with duty := now, dutyNext := n, dutyFrom := (d.hubCc / 64 + 1) * 64 }
          ∧ 1 ≤ n ∧ n ≤ 64 ∧ (n ≠ 1 → fits n) ∧ ∀ m, n < m → m ≤ 64 → ¬fits m)
      ∧ { d' with cnt := d.cnt, sec := x } = d ∧ { d'.sec with duties := x.duties } = x)
    ∧ (∀ via : MctpPort, d.mctpReach via = true →
      (∀ eid, ∃ bytes, (0 < eid → eid < 255 → Gives (.setEndpointId (via, eid)) s
          ((d.modSec fun x => { x with eid := eid }).emit (.mctp bytes)))
        ∧ ((eid = 0 ∨ 255 ≤ eid) → Gives (.setEndpointId (via, eid)) s (d.emit (.mctp bytes))))
      ∧ (∀ cmd, ∃ bytes, Gives (.pldmDiscovery (via, cmd)) s (d.emit (.pldm bytes)))
      ∧ (∀ id (v : Int),
        let reads (value : Int) (st : Nat) : Prop := Gives (.pldmSensorRead (via, id) v) s
          (d.emit (.pldm (leBytes 1 id ++ leBytes 4 (uNat 32 value) ++ leBytes 1 st)))
        let setpoint : Int := d.setpointWatts
        (id = 1 → v < ((d.capWatts + d.capWatts / 10 : Nat) : Int) → (v < setpoint → reads v 0)
          ∧ (setpoint ≤ v → v < ((d.setpointWatts + d.setpointWatts / 10 : Nat) : Int) → reads v 1))
        ∧ (id = 2 → d.power.vddCoreMv < 800 → reads d.power.vddCoreMv 0)
        ∧ (id = 2 → d.power.vddCoreMv = 800 → reads 800 1)
        ∧ (3 ≤ id → id ≤ 7 → reads v (if v < 95 then 0 else if v < 100 then 1 else if v < 105 then 2 else 3))
        ∧ (id = 8 → d.power.mid = 2 → reads v (if v < 35 then 0 else if v < 40 then 1 else 2))
        ∧ (id = 8 → d.power.mid ≠ 2 → reads v (if v < 45 then 0 else if v < 50 then 1 else 2))
        ∧ (id = 9 → reads d.dutyPercent (if d.dutyPercent ≤ 50 then 4 else 0)))
      ∧ (∀ id watts, ∃ bytes,
        (id = 10 → 200 ≤ watts → watts ≤ d.capWatts → Gives (.pldmEffecterSet (via, id) watts) s
          ((d.modSec fun x => { x with setpoint := some watts }).emit (.pldm bytes)))
        ∧ ((id ≠ 10 ∨ watts < 200 ∨ d.capWatts < watts) → Gives (.pldmEffecterSet (via, id) watts) s (d.emit (.pldm bytes))))
      ∧ (∀ image, d.fullService = true → d.boot.fwProg = none → image.length ≤ flashImageLen →
        Leads (.pldmFwUpdate (via, 1) image) s fun d' => d'.sec = x ∧ d'.mem = d.mem ∧ d'.power = d.power
        ∧ match d.imageCheck (tabAt 0 image) with
          | some _ => d'.boot = d.boot
          | none => ∃ t, d.time ≤ t ∧ d'.boot = { d.boot with
              fwProg := some (1, image, t), flash := d.boot.flash.filter fun b => flashImageLen ≤ b.1 }))
    -- R40: the module answers at one of the four addresses 0x58 to 0x5B, which two straps name, and at no other
    ∧ (let addr : Nat := 0x58 + (if d.power.straps.getLsbD 3 then 2 else 0) + (if d.power.straps.getLsbD 2 then 1 else 0)
       ∀ a : BitVec 7, (a.toNat = addr → d.mctpReach (.smbus a) = d.stewardServes)
         ∧ (a.toNat ≠ addr → ∀ eid, Gives (.setEndpointId (.smbus a, eid)) s d ∧ Gives (.getVersion (.smbus a)) s d))

/-- GET_VERSION to GET_CHAIN_FP, SPDM_UNSUPPORTED, IDE_KEY_MANAGEMENT, DOE_DISCOVERY, ATS_INVALIDATE_REQUEST: on a
transport that reaches the responder a request out of order gets UnexpectedRequest and changes nothing, one in order its
answer; a session goes from key exchange over FINISH to its end; ATS invalidations are answered at once. -/
def Obligations.Attestation : Prop :=
  ∀ (s : State) (p : SpdmPort), let d := s.dev; let c := s.dev.conn p; let x := s.dev.sec
    let answers (k : Instr) (d₁ : Dev) (code : Nat) (body : List Byte → Prop) : Prop :=
      ∃ b, body b ∧ Gives k s (d₁.emit (.spdm p code b))
    let error (k : Instr) (e : Byte) : Prop := Gives k s (d.emit (.spdm p 0x7F [e]))
    let any : List Byte → Prop := fun _ => True
    let signed (k : Instr) (code : Nat) (sess : Tab SpdmSession) : Prop := Leads k s fun d' =>
      (∃ b, d'.out = .spdm p code b :: d.out) ∧ (d'.conn p).lastSigned ≠ [] ∧ d'.sec.sessions = sess
      ∧ { d' with sec := x, out := d.out, free := d.free } = d
    (d.spdmReach p = true →
      answers (.getVersion p) (d.modConn p fun _ => { versionDone := true }) 0x04 (fun b => b = [0x12])
      ∧ (c.versionDone = true → answers (.getCapabilities p) (d.modConn p fun c => { c with capsDone := true }) 0x61
          fun b => b.head? = some 22)
      ∧ (∀ offered : List Byte, c.capsDone = true → (1 ∈ offered ∧ 2 ∈ offered →
          answers (.negotiateAlgorithms p offered) (d.modConn p fun c => { c with algsDone := true }) 0x63
            fun b => b = [1, 2, 3, 4].filter fun a : Byte => offered.contains a)
        ∧ (1 ∉ offered ∨ 2 ∉ offered → error (.negotiateAlgorithms p offered) 1))
      ∧ (c.versionDone = false → error (.getCapabilities p) 4)
      ∧ (c.capsDone = false → ∀ offered, error (.negotiateAlgorithms p offered) 4)
      ∧ (∀ a b req, ∀ k ∈ [Instr.getDigests p, .getCertificate p a b 1, .challenge p a req, .getMeasurements p a true req,
          .keyExchange p req, .getPqSig p a b, .getPqCert p a b, .getChainFp p a], c.algsDone = false → error k 4)
      ∧ (c.algsDone = true →
        answers (.getDigests p) d 0x01 (fun b => b.length = 49)
        ∧ (∀ off len, if off < Config.rsaCertChain.length
            then answers (.getCertificate p 0 off len) d 0x02 fun b => b = (Config.rsaCertChain.drop off).take len
            else error (.getCertificate p 0 off len) 1)
        ∧ (∀ req, signed (.challenge p 0 req) 0x03 x.sessions)
        ∧ (∀ req i, (i ≤ 9 ∨ i = 0xFF) → signed (.getMeasurements p i true req) 0x60 x.sessions)
        ∧ (∀ req i, 1 ≤ i → i ≤ 8 → answers (.getMeasurements p i false req) d 0x60
            fun b => b = leBytes 1 i ++ leBytes 48 (d.meas (i - 1)).toNat)
        ∧ (∀ req i, 9 < i → i ≠ 0xFF → error (.getMeasurements p i false req) 1)
        ∧ (∀ req id, id < 4 → lookup? x.sessions id = none → (∀ j, j < id → lookup? x.sessions j ≠ none) →
            d.sessionsOf (p == .doe) < 2 → signed (.keyExchange p req) 0x64 (tset x.sessions id { doe := p == .doe }))
        ∧ (∀ req, 2 ≤ d.sessionsOf (p == .doe) → error (.keyExchange p req) 0x0A)
        ∧ (∀ off len, c.lastSigned ≠ [] → off < 16224 → answers (.getPqSig p off len) d 0x7E fun b => b.head? = some 1
            ∧ b.tail = (((Config.slhIdentitySign c.lastSigned ++ zeros 16224).take 16224).drop off).take (min len 1024))
        ∧ (∀ off len, c.lastSigned = [] → error (.getPqSig p off len) 4)
        ∧ (∀ off len, if off < Config.slhCertChain.length
            then answers (.getPqCert p off len) d 0x7E fun b => b = 2 :: (Config.slhCertChain.drop off).take (min len 1024)
            else error (.getPqCert p off len) 1)
        ∧ (∀ first, d.isHead = true → first + 64 ≤ 4096 → answers (.getChainFp p first) d 0x7E fun b => b.length = 513)
        ∧ (∀ first, d.isHead = false → error (.getChainFp p first) 7))
      ∧ (∀ id y req, lookup? x.sessions id = some y → y.doe = (p == .doe) →
        (y.established = false → error (.keyUpdate p id) 4 ∧
          (let resp := Config.spdmResponse 0x65 (leBytes 2 id ++ req)
          if resp = [] then error (.finish p id req) 6 else answers (.finish p id req)
            (d.modSession id fun y => { y with established := true }) 0x65 fun b => b = resp))
        ∧ (y.established = true →
          answers (.keyUpdate p id) (d.modSession id fun y => { y with keyEpoch := y.keyEpoch + 1 }) 0x69 any
          ∧ answers (.spdmHeartbeat p id) d 0x68 any
          ∧ answers (.endSession p id) (d.modSec fun x => { x with sessions := tdel x.sessions id }) 0x6C any
          ∧ (p = .doe → answers (.ideKeyManagement p id req) (d.modSec fun x => { x with ideMsgs := req :: x.ideMsgs })
              0x7E any)
          ∧ (p ≠ .doe → error (.ideKeyManagement p id req) 7)))
      ∧ (∀ id req, lookup? x.sessions id = none → error (.keyUpdate p id) 2 ∧ error (.finish p id req) 2)
      ∧ (∀ code, error (.spdmUnsupported p code) 7))
    ∧ (d.spdmReach .doe = true → ∀ i, i ≤ 2 → Gives (.doeDiscovery i) s (d.emit (.doe
        ([1, 0] ++ leBytes 1 i ++ leBytes 1 (if i = 2 then 0 else i + 1)))))
    ∧ (∀ fn itag, d.configReach fn = true → d.boot.recovery = false →
      Gives (.atsInvalidateRequest fn itag) s (d.emit (.atsComplete fn itag)))

/-! ## Reset and the invariant of every step -/

/-- What reset leaves: the rails down and every output off, VDD_CORE at its setting of 0.72 V, no command waiting,
nothing listed in memory, no context, no pitch, no node, every port in RESET and no start-up stage completed. -/
def Obligations.ResetState : Prop :=
  let d := State.reset.dev
  State.reset.pending = [] ∧ d.power.railsUp = 0 ∧ d.power.pwrGood = false ∧ d.power.fatal = false
    ∧ d.power.thermTrip = false ∧ d.power.vddCoreMv = 720 ∧ d.chain.phase = 0 ∧ d.chain.idValid = false
    ∧ d.chain.chnOutHigh = false ∧ d.boot.stage = 0 ∧ d.boot.recovery = false ∧ d.sec.unlocked = 0 ∧ d.validPitches = []
    ∧ (∀ a, byteAt d.mem.bytes a = 0) ∧ (∀ c, (d.ctx c).exists_ = false ∧ (d.ctx c).destroyed = true)
    ∧ (∀ n, (d.port n).st = 0) ∧ (∀ c, (d.core c).slots = [] ∧ (d.core c).seq.st = 0 ∧ (d.core c).health = 0)
    ∧ (∀ f, (d.func f).bar4Log2 = 28) ∧ d.host.vfEnable = false ∧ d.recorder.bins = [] ∧ d.out = []

/-- The invariant holds at reset. -/
def Obligations.ResetMeetsInvariant : Prop := Inv State.reset.dev

/-- Every step that answers a next state keeps the invariant: memory keeps its canonical form, the rails, the power-on
reset, the PLLs and the PCIe link stand in their order, and VDD_CORE stays a multiple of 5 mV from 0.68 to 0.80 V. -/
def Obligations.EveryStepKeepsTheInvariant : Prop :=
  ∀ s t : State, Inv s.dev → step s = .next t → Inv t.dev
end

