-- ==== Sys2Proof/Laws/Table.lean ====
section
/-!
SUPPORT. Laws of sparse tables: what is listed after a key is set, removed or modified, and that their keys stay in
rising order.
-/

namespace Sys2Proof.Machine
open Sys2Proof

@[simp] theorem lookup?_tset_self {α : Type} (t : Tab α) (k : Nat) (v : α) : lookup? (tset t k v) k = some v := by
  induction t with
  | nil => simp [tset, lookup?]
  | cons e t ih =>
    obtain ⟨i, w⟩ := e
    by_cases h : i < k
    · simp [tset, h, lookup?, Nat.ne_of_lt h, ih]
    · by_cases h' : i = k
      · simp [tset, h', lookup?]
      · simp [tset, h, h', lookup?]

@[simp] theorem lookup?_tset_ne {α : Type} (t : Tab α) {j k : Nat} (v : α) (h : j ≠ k) :
    lookup? (tset t k v) j = lookup? t j := by
  induction t with
  | nil => simp [tset, lookup?, Ne.symm h]
  | cons e t ih =>
    obtain ⟨i, w⟩ := e
    by_cases hl : i < k
    · simp [tset, hl, lookup?, ih]
    · by_cases hk : i = k
      · subst hk; simp [tset, lookup?, Ne.symm h]
      · simp [tset, hl, hk, lookup?, Ne.symm h]

theorem lookup?_tset {α : Type} (t : Tab α) (j k : Nat) (v : α) :
    lookup? (tset t k v) j = if j = k then some v else lookup? t j := by
  by_cases h : j = k
  · subst h; simp
  · simp [h]

@[simp] theorem tget_tset_self {α : Type} (d : α) (t : Tab α) (k : Nat) (v : α) : tget d (tset t k v) k = v := by
  simp [tget]

@[simp] theorem tget_tset_ne {α : Type} (d : α) (t : Tab α) {j k : Nat} (v : α) (h : j ≠ k) :
    tget d (tset t k v) j = tget d t j := by
  simp [tget, h]

theorem tget_tset {α : Type} (d : α) (t : Tab α) (j k : Nat) (v : α) :
    tget d (tset t k v) j = if j = k then v else tget d t j := by
  by_cases h : j = k
  · subst h; simp
  · simp [h]

@[simp] theorem lookup?_tdel_self {α : Type} (t : Tab α) (k : Nat) : lookup? (tdel t k) k = none := by
  induction t with
  | nil => rfl
  | cons e t ih =>
    obtain ⟨i, w⟩ := e
    by_cases h : i = k
    · subst h; simpa [tdel] using ih
    · simpa [tdel, h, lookup?] using ih

@[simp] theorem lookup?_tdel_ne {α : Type} (t : Tab α) {j k : Nat} (h : j ≠ k) :
    lookup? (tdel t k) j = lookup? t j := by
  induction t with
  | nil => rfl
  | cons e t ih =>
    obtain ⟨i, w⟩ := e
    by_cases hk : i = k
    · subst hk; simpa [tdel, lookup?, Ne.symm h] using ih
    · by_cases hj : i = j
      · subst hj; simp [tdel, hk, lookup?]
      · simpa [tdel, hk, lookup?, hj] using ih

theorem tget_tput {α : Type} [DecidableEq α] (d : α) (t : Tab α) (j k : Nat) (v : α) :
    tget d (tput d t k v) j = if j = k then v else tget d t j := by
  unfold tput
  by_cases hv : v = d
  · by_cases h : j = k
    · subst h; simp [hv, tget]
    · simp [hv, tget, h]
  · simp [hv, tget_tset]

@[simp] theorem tget_tmod_self {α : Type} (d : α) (t : Tab α) (k : Nat) (f : α → α) :
    tget d (tmod d t k f) k = f (tget d t k) := by
  simp [tmod]

@[simp] theorem tget_tmod_ne {α : Type} (d : α) (t : Tab α) {j k : Nat} (f : α → α) (h : j ≠ k) :
    tget d (tmod d t k f) j = tget d t j := by
  simp [tmod, h]

@[simp] theorem lookup?_tmodIf_self {α : Type} (t : Tab α) (k : Nat) (f : α → α) :
    lookup? (tmodIf t k f) k = (lookup? t k).map f := by
  unfold tmodIf
  cases h : lookup? t k <;> simp [h]

@[simp] theorem lookup?_tmodIf_ne {α : Type} (t : Tab α) {j k : Nat} (f : α → α) (h : j ≠ k) :
    lookup? (tmodIf t k f) j = lookup? t j := by
  unfold tmodIf
  cases lookup? t k <;> simp [h]

/-! ## Rising keys -/

theorem tsorted_cons {α : Type} (a : Nat × α) (t : Tab α) :
    tsorted (a :: t) = true ↔ (∀ b, b ∈ t → a.1 < b.1) ∧ tsorted t = true := by
  induction t generalizing a with
  | nil => simp [tsorted]
  | cons b t ih =>
    simp only [tsorted, Bool.and_eq_true, decide_eq_true_eq, ih, List.mem_cons]
    constructor
    · rintro ⟨h, hb, ht⟩
      exact ⟨fun c hc => hc.elim (fun e => e ▸ h) fun hc => Nat.lt_trans h (hb c hc), hb, ht⟩
    · rintro ⟨h, hb, ht⟩
      exact ⟨h b (.inl rfl), hb, ht⟩

theorem mem_tset {α : Type} (t : Tab α) (k : Nat) (v : α) (e : Nat × α) (h : e ∈ tset t k v) : e = (k, v) ∨ e ∈ t := by
  induction t with
  | nil => exact .inl (by simpa [tset] using h)
  | cons a t ih =>
    obtain ⟨i, w⟩ := a
    unfold tset at h
    split at h
    · rcases List.mem_cons.1 h with rfl | h
      · exact .inr (.head _)
      · exact (ih h).imp_right (List.mem_cons_of_mem _)
    · split at h <;> rcases List.mem_cons.1 h with rfl | h
      · exact .inl rfl
      · exact .inr (List.mem_cons_of_mem _ h)
      · exact .inl rfl
      · exact .inr h

theorem tsorted_tset {α : Type} (t : Tab α) (k : Nat) (v : α) (h : tsorted t = true) : tsorted (tset t k v) = true := by
  induction t with
  | nil => rfl
  | cons a t ih =>
    obtain ⟨i, w⟩ := a
    have ⟨ha, ht⟩ := (tsorted_cons _ _).1 h
    unfold tset
    split
    · rename_i hik
      refine (tsorted_cons _ _).2 ⟨fun b hb => ?_, ih ht⟩
      rcases mem_tset t k v b hb with rfl | hb
      · exact hik
      · exact ha b hb
    · split
      · rename_i e; subst e
        exact (tsorted_cons _ _).2 ⟨fun b hb => ha b hb, ht⟩
      · refine (tsorted_cons _ _).2 ⟨fun b hb => ?_, h⟩
        rcases List.mem_cons.1 hb with rfl | hb
        · simp only; omega
        · have := ha b hb; simp only at this ⊢; omega

theorem tsorted_filter {α : Type} (t : Tab α) (p : Nat × α → Bool) (h : tsorted t = true) :
    tsorted (t.filter p) = true := by
  induction t with
  | nil => rfl
  | cons a t ih =>
    have ⟨ha, ht⟩ := (tsorted_cons _ _).1 h
    by_cases hp : p a = true
    · rw [List.filter_cons_of_pos hp]
      exact (tsorted_cons _ _).2 ⟨fun b hb => ha b (List.mem_filter.1 hb).1, ih ht⟩
    · rw [List.filter_cons_of_neg hp]; exact ih ht

theorem tsorted_tdel {α : Type} (t : Tab α) (k : Nat) (h : tsorted t = true) : tsorted (tdel t k) = true :=
  tsorted_filter t _ h

theorem tsorted_tput {α : Type} [DecidableEq α] (d : α) (t : Tab α) (k : Nat) (v : α) (h : tsorted t = true) :
    tsorted (tput d t k v) = true := by
  unfold tput
  split
  · exact tsorted_tdel t k h
  · exact tsorted_tset t k v h

/-! ## Counters and bits of R9 to R11 -/

@[simp] theorem rc_split_bump (r : Rc) (max n t : Nat) : ((r.bump max n t).split t).1 = (r.split t).1 := by
  simp [Rc.bump, Rc.split]

@[simp] theorem w1c_clear_bit (w : W1c) (t : Nat) : (w.clear t).bit = (w.bit && w.setAt == t) := by
  unfold W1c.clear
  cases h : (w.bit && w.setAt == t)
  · simp
  · simp only [if_true]
    exact (Bool.and_eq_true _ _ ▸ h).1

end Sys2Proof.Machine
end

