-- ==== Sys2Proof/Laws/Memory.lean ====
section
/-!
SUPPORT. Laws of the byte memory: what reads as what after a write, and that every write keeps the canonical form.
-/

namespace Sys2Proof.Machine
open Sys2Proof

theorem wf_iff (m : List Host.Cell) : Memory.wf m = true ↔ tsorted m = true ∧ ∀ c, c ∈ m → c.2 ≠ 0 := by
  simp [Memory.wf]

theorem wf_nil : Memory.wf [] = true := rfl

theorem wf_reset : Memory.wf State.reset.dev.mem.bytes = true := rfl

/-! ## What reads as what -/

theorem byteAt_setByte (m : List Host.Cell) (a b : Nat) (v : Byte) :
    byteAt (setByte m a v) b = if b = a then v else byteAt m b :=
  tget_tput 0 m b a v

@[simp] theorem byteAt_setByte_self (m : List Host.Cell) (a : Nat) (v : Byte) : byteAt (setByte m a v) a = v := by
  simp [byteAt_setByte]

@[simp] theorem byteAt_setByte_ne (m : List Host.Cell) {a b : Nat} (v : Byte) (h : b ≠ a) :
    byteAt (setByte m a v) b = byteAt m b := by
  simp [byteAt_setByte, h]

theorem byteAt_setBytes (bs : List Byte) : ∀ (m : List Host.Cell) (a b : Nat),
    byteAt (setBytes m a bs) b = if a ≤ b ∧ b < a + bs.length then bs[b - a]?.getD 0 else byteAt m b := by
  induction bs with
  | nil => intro m a b; rw [if_neg (by simp only [List.length_nil]; omega)]; rfl
  | cons x bs ih =>
    intro m a b
    rw [setBytes, ih, byteAt_setByte, List.length_cons]
    by_cases h1 : a + 1 ≤ b ∧ b < a + 1 + bs.length
    · have e : b - a = (b - (a + 1)) + 1 := by omega
      rw [if_pos h1, if_pos (by omega), e, List.getElem?_cons_succ]
    · rw [if_neg h1]
      by_cases h2 : b = a
      · subst h2; rw [if_pos rfl, if_pos (by omega)]; simp
      · rw [if_neg h2, if_neg (by omega)]

theorem byteAt_setBytes_outside (m : List Host.Cell) (a b : Nat) (bs : List Byte) (h : b < a ∨ a + bs.length ≤ b) :
    byteAt (setBytes m a bs) b = byteAt m b := by
  rw [byteAt_setBytes, if_neg (by omega)]

theorem lookup?_filter {α : Type} (p : Nat → Bool) (t : Tab α) (k : Nat) :
    lookup? (t.filter fun e => p e.1) k = if p k then lookup? t k else none := by
  induction t with
  | nil => simp [lookup?]
  | cons e t ih =>
    obtain ⟨i, v⟩ := e
    by_cases hi : p i = true
    · rw [List.filter_cons_of_pos (by simpa using hi)]
      by_cases hk : i = k
      · subst hk; simp [lookup?, hi]
      · simp [lookup?, hk, ih]
    · rw [List.filter_cons_of_neg (by simpa using hi), ih]
      by_cases hk : i = k
      · subst hk; simp [hi]
      · simp [lookup?, hk]

theorem byteAt_filter (p : Nat → Bool) (m : List Host.Cell) (a : Nat) :
    byteAt (m.filter fun c => p c.1) a = if p a then byteAt m a else 0 := by
  unfold byteAt tget
  rw [lookup?_filter]
  by_cases h : p a = true <;> simp [h]

theorem byteAt_clearBytes (m : List Host.Cell) (a n b : Nat) :
    byteAt (clearBytes m a n) b = if a ≤ b ∧ b < a + n then 0 else byteAt m b := by
  rw [clearBytes, byteAt_filter fun x => !(decide (a ≤ x) && decide (x < a + n))]
  by_cases h : a ≤ b ∧ b < a + n
  · rw [if_pos h]; simp [h.1, h.2]
  · rw [if_neg h]
    by_cases h1 : a ≤ b
    · have h2 : ¬ b < a + n := fun h2 => h ⟨h1, h2⟩
      simp [h2]
    · simp [h1]

theorem length_bytesAt (m : List Host.Cell) (a n : Nat) : (bytesAt m a n).length = n := by
  simp [bytesAt]

theorem getElem?_bytesAt (m : List Host.Cell) (a n i : Nat) (h : i < n) :
    (bytesAt m a n)[i]? = some (byteAt m (a + i)) := by
  simp [bytesAt, h]

/-! ## The canonical form -/

theorem wf_setByte (m : List Host.Cell) (a : Nat) (v : Byte) (h : Memory.wf m = true) :
    Memory.wf (setByte m a v) = true := by
  rw [wf_iff] at h ⊢
  refine ⟨tsorted_tput 0 m a v h.1, fun c hc => ?_⟩
  unfold setByte tput at hc
  split at hc
  · exact h.2 c (List.mem_filter.1 hc).1
  · rename_i hv
    rcases mem_tset m a v c hc with rfl | hc
    · exact hv
    · exact h.2 c hc

theorem wf_setBytes (bs : List Byte) : ∀ (m : List Host.Cell) (a : Nat), Memory.wf m = true →
    Memory.wf (setBytes m a bs) = true := by
  induction bs with
  | nil => intro m a h; exact h
  | cons b bs ih => intro m a h; exact ih _ _ (wf_setByte m a b h)

theorem wf_filter (m : List Host.Cell) (p : Host.Cell → Bool) (h : Memory.wf m = true) :
    Memory.wf (m.filter p) = true := by
  rw [wf_iff] at h ⊢
  exact ⟨tsorted_filter m p h.1, fun c hc => h.2 c (List.mem_filter.1 hc).1⟩

theorem wf_clearBytes (m : List Host.Cell) (a n : Nat) (h : Memory.wf m = true) :
    Memory.wf (clearBytes m a n) = true := wf_filter m _ h

/-- Any run of byte writes keeps the form. -/
theorem wf_foldl {α : Type} (f : List Host.Cell → α → List Host.Cell)
    (hf : ∀ m x, Memory.wf m = true → Memory.wf (f m x) = true) (l : List α) :
    ∀ m, Memory.wf m = true → Memory.wf (l.foldl f m) = true := by
  induction l with
  | nil => intro m h; exact h
  | cons x l ih => intro m h; exact ih _ (hf m x h)

end Sys2Proof.Machine
end

