-- ==== Sys2Proof/Laws/State.lean ====
section
/-!
SUPPORT. What each update of the module and of the state leaves: one lemma per field per update, true by unfolding, so
that no later proof unfolds a record update.
-/

namespace Sys2Proof.Machine
open Sys2Proof


/-! ## modPower -/

@[simp] theorem modPower_time (d : Dev) (f : Power → Power) : (d.modPower f).time = d.time := rfl
@[simp] theorem modPower_free (d : Dev) (f : Power → Power) : (d.modPower f).free = d.free := rfl
@[simp] theorem modPower_power (d : Dev) (f : Power → Power) : (d.modPower f).power = f d.power := rfl
@[simp] theorem modPower_chain (d : Dev) (f : Power → Power) : (d.modPower f).chain = d.chain := rfl
@[simp] theorem modPower_boot (d : Dev) (f : Power → Power) : (d.modPower f).boot = d.boot := rfl
@[simp] theorem modPower_sec (d : Dev) (f : Power → Power) : (d.modPower f).sec = d.sec := rfl
@[simp] theorem modPower_plan (d : Dev) (f : Power → Power) : (d.modPower f).plan = d.plan := rfl
@[simp] theorem modPower_cores (d : Dev) (f : Power → Power) : (d.modPower f).cores = d.cores := rfl
@[simp] theorem modPower_mem (d : Dev) (f : Power → Power) : (d.modPower f).mem = d.mem := rfl
@[simp] theorem modPower_xl (d : Dev) (f : Power → Power) : (d.modPower f).xl = d.xl := rfl
@[simp] theorem modPower_host (d : Dev) (f : Power → Power) : (d.modPower f).host = d.host := rfl
@[simp] theorem modPower_board (d : Dev) (f : Power → Power) : (d.modPower f).board = d.board := rfl
@[simp] theorem modPower_fab (d : Dev) (f : Power → Power) : (d.modPower f).fab = d.fab := rfl
@[simp] theorem modPower_recorder (d : Dev) (f : Power → Power) : (d.modPower f).recorder = d.recorder := rfl
@[simp] theorem modPower_cnt (d : Dev) (f : Power → Power) : (d.modPower f).cnt = d.cnt := rfl
@[simp] theorem modPower_due (d : Dev) (f : Power → Power) : (d.modPower f).due = d.due := rfl
@[simp] theorem modPower_out (d : Dev) (f : Power → Power) : (d.modPower f).out = d.out := rfl

/-! ## modChain -/

@[simp] theorem modChain_time (d : Dev) (f : Chain → Chain) : (d.modChain f).time = d.time := rfl
@[simp] theorem modChain_free (d : Dev) (f : Chain → Chain) : (d.modChain f).free = d.free := rfl
@[simp] theorem modChain_power (d : Dev) (f : Chain → Chain) : (d.modChain f).power = d.power := rfl
@[simp] theorem modChain_chain (d : Dev) (f : Chain → Chain) : (d.modChain f).chain = f d.chain := rfl
@[simp] theorem modChain_boot (d : Dev) (f : Chain → Chain) : (d.modChain f).boot = d.boot := rfl
@[simp] theorem modChain_sec (d : Dev) (f : Chain → Chain) : (d.modChain f).sec = d.sec := rfl
@[simp] theorem modChain_plan (d : Dev) (f : Chain → Chain) : (d.modChain f).plan = d.plan := rfl
@[simp] theorem modChain_cores (d : Dev) (f : Chain → Chain) : (d.modChain f).cores = d.cores := rfl
@[simp] theorem modChain_mem (d : Dev) (f : Chain → Chain) : (d.modChain f).mem = d.mem := rfl
@[simp] theorem modChain_xl (d : Dev) (f : Chain → Chain) : (d.modChain f).xl = d.xl := rfl
@[simp] theorem modChain_host (d : Dev) (f : Chain → Chain) : (d.modChain f).host = d.host := rfl
@[simp] theorem modChain_board (d : Dev) (f : Chain → Chain) : (d.modChain f).board = d.board := rfl
@[simp] theorem modChain_fab (d : Dev) (f : Chain → Chain) : (d.modChain f).fab = d.fab := rfl
@[simp] theorem modChain_recorder (d : Dev) (f : Chain → Chain) : (d.modChain f).recorder = d.recorder := rfl
@[simp] theorem modChain_cnt (d : Dev) (f : Chain → Chain) : (d.modChain f).cnt = d.cnt := rfl
@[simp] theorem modChain_due (d : Dev) (f : Chain → Chain) : (d.modChain f).due = d.due := rfl
@[simp] theorem modChain_out (d : Dev) (f : Chain → Chain) : (d.modChain f).out = d.out := rfl

/-! ## modBoot -/

@[simp] theorem modBoot_time (d : Dev) (f : Boot → Boot) : (d.modBoot f).time = d.time := rfl
@[simp] theorem modBoot_free (d : Dev) (f : Boot → Boot) : (d.modBoot f).free = d.free := rfl
@[simp] theorem modBoot_power (d : Dev) (f : Boot → Boot) : (d.modBoot f).power = d.power := rfl
@[simp] theorem modBoot_chain (d : Dev) (f : Boot → Boot) : (d.modBoot f).chain = d.chain := rfl
@[simp] theorem modBoot_boot (d : Dev) (f : Boot → Boot) : (d.modBoot f).boot = f d.boot := rfl
@[simp] theorem modBoot_sec (d : Dev) (f : Boot → Boot) : (d.modBoot f).sec = d.sec := rfl
@[simp] theorem modBoot_plan (d : Dev) (f : Boot → Boot) : (d.modBoot f).plan = d.plan := rfl
@[simp] theorem modBoot_cores (d : Dev) (f : Boot → Boot) : (d.modBoot f).cores = d.cores := rfl
@[simp] theorem modBoot_mem (d : Dev) (f : Boot → Boot) : (d.modBoot f).mem = d.mem := rfl
@[simp] theorem modBoot_xl (d : Dev) (f : Boot → Boot) : (d.modBoot f).xl = d.xl := rfl
@[simp] theorem modBoot_host (d : Dev) (f : Boot → Boot) : (d.modBoot f).host = d.host := rfl
@[simp] theorem modBoot_board (d : Dev) (f : Boot → Boot) : (d.modBoot f).board = d.board := rfl
@[simp] theorem modBoot_fab (d : Dev) (f : Boot → Boot) : (d.modBoot f).fab = d.fab := rfl
@[simp] theorem modBoot_recorder (d : Dev) (f : Boot → Boot) : (d.modBoot f).recorder = d.recorder := rfl
@[simp] theorem modBoot_cnt (d : Dev) (f : Boot → Boot) : (d.modBoot f).cnt = d.cnt := rfl
@[simp] theorem modBoot_due (d : Dev) (f : Boot → Boot) : (d.modBoot f).due = d.due := rfl
@[simp] theorem modBoot_out (d : Dev) (f : Boot → Boot) : (d.modBoot f).out = d.out := rfl

/-! ## modSec -/

@[simp] theorem modSec_time (d : Dev) (f : Security → Security) : (d.modSec f).time = d.time := rfl
@[simp] theorem modSec_free (d : Dev) (f : Security → Security) : (d.modSec f).free = d.free := rfl
@[simp] theorem modSec_power (d : Dev) (f : Security → Security) : (d.modSec f).power = d.power := rfl
@[simp] theorem modSec_chain (d : Dev) (f : Security → Security) : (d.modSec f).chain = d.chain := rfl
@[simp] theorem modSec_boot (d : Dev) (f : Security → Security) : (d.modSec f).boot = d.boot := rfl
@[simp] theorem modSec_sec (d : Dev) (f : Security → Security) : (d.modSec f).sec = f d.sec := rfl
@[simp] theorem modSec_plan (d : Dev) (f : Security → Security) : (d.modSec f).plan = d.plan := rfl
@[simp] theorem modSec_cores (d : Dev) (f : Security → Security) : (d.modSec f).cores = d.cores := rfl
@[simp] theorem modSec_mem (d : Dev) (f : Security → Security) : (d.modSec f).mem = d.mem := rfl
@[simp] theorem modSec_xl (d : Dev) (f : Security → Security) : (d.modSec f).xl = d.xl := rfl
@[simp] theorem modSec_host (d : Dev) (f : Security → Security) : (d.modSec f).host = d.host := rfl
@[simp] theorem modSec_board (d : Dev) (f : Security → Security) : (d.modSec f).board = d.board := rfl
@[simp] theorem modSec_fab (d : Dev) (f : Security → Security) : (d.modSec f).fab = d.fab := rfl
@[simp] theorem modSec_recorder (d : Dev) (f : Security → Security) : (d.modSec f).recorder = d.recorder := rfl
@[simp] theorem modSec_cnt (d : Dev) (f : Security → Security) : (d.modSec f).cnt = d.cnt := rfl
@[simp] theorem modSec_due (d : Dev) (f : Security → Security) : (d.modSec f).due = d.due := rfl
@[simp] theorem modSec_out (d : Dev) (f : Security → Security) : (d.modSec f).out = d.out := rfl

/-! ## modPlan -/

@[simp] theorem modPlan_time (d : Dev) (f : Plan → Plan) : (d.modPlan f).time = d.time := rfl
@[simp] theorem modPlan_free (d : Dev) (f : Plan → Plan) : (d.modPlan f).free = d.free := rfl
@[simp] theorem modPlan_power (d : Dev) (f : Plan → Plan) : (d.modPlan f).power = d.power := rfl
@[simp] theorem modPlan_chain (d : Dev) (f : Plan → Plan) : (d.modPlan f).chain = d.chain := rfl
@[simp] theorem modPlan_boot (d : Dev) (f : Plan → Plan) : (d.modPlan f).boot = d.boot := rfl
@[simp] theorem modPlan_sec (d : Dev) (f : Plan → Plan) : (d.modPlan f).sec = d.sec := rfl
@[simp] theorem modPlan_plan (d : Dev) (f : Plan → Plan) : (d.modPlan f).plan = f d.plan := rfl
@[simp] theorem modPlan_cores (d : Dev) (f : Plan → Plan) : (d.modPlan f).cores = d.cores := rfl
@[simp] theorem modPlan_mem (d : Dev) (f : Plan → Plan) : (d.modPlan f).mem = d.mem := rfl
@[simp] theorem modPlan_xl (d : Dev) (f : Plan → Plan) : (d.modPlan f).xl = d.xl := rfl
@[simp] theorem modPlan_host (d : Dev) (f : Plan → Plan) : (d.modPlan f).host = d.host := rfl
@[simp] theorem modPlan_board (d : Dev) (f : Plan → Plan) : (d.modPlan f).board = d.board := rfl
@[simp] theorem modPlan_fab (d : Dev) (f : Plan → Plan) : (d.modPlan f).fab = d.fab := rfl
@[simp] theorem modPlan_recorder (d : Dev) (f : Plan → Plan) : (d.modPlan f).recorder = d.recorder := rfl
@[simp] theorem modPlan_cnt (d : Dev) (f : Plan → Plan) : (d.modPlan f).cnt = d.cnt := rfl
@[simp] theorem modPlan_due (d : Dev) (f : Plan → Plan) : (d.modPlan f).due = d.due := rfl
@[simp] theorem modPlan_out (d : Dev) (f : Plan → Plan) : (d.modPlan f).out = d.out := rfl

/-! ## modMem -/

@[simp] theorem modMem_time (d : Dev) (f : Mem → Mem) : (d.modMem f).time = d.time := rfl
@[simp] theorem modMem_free (d : Dev) (f : Mem → Mem) : (d.modMem f).free = d.free := rfl
@[simp] theorem modMem_power (d : Dev) (f : Mem → Mem) : (d.modMem f).power = d.power := rfl
@[simp] theorem modMem_chain (d : Dev) (f : Mem → Mem) : (d.modMem f).chain = d.chain := rfl
@[simp] theorem modMem_boot (d : Dev) (f : Mem → Mem) : (d.modMem f).boot = d.boot := rfl
@[simp] theorem modMem_sec (d : Dev) (f : Mem → Mem) : (d.modMem f).sec = d.sec := rfl
@[simp] theorem modMem_plan (d : Dev) (f : Mem → Mem) : (d.modMem f).plan = d.plan := rfl
@[simp] theorem modMem_cores (d : Dev) (f : Mem → Mem) : (d.modMem f).cores = d.cores := rfl
@[simp] theorem modMem_mem (d : Dev) (f : Mem → Mem) : (d.modMem f).mem = f d.mem := rfl
@[simp] theorem modMem_xl (d : Dev) (f : Mem → Mem) : (d.modMem f).xl = d.xl := rfl
@[simp] theorem modMem_host (d : Dev) (f : Mem → Mem) : (d.modMem f).host = d.host := rfl
@[simp] theorem modMem_board (d : Dev) (f : Mem → Mem) : (d.modMem f).board = d.board := rfl
@[simp] theorem modMem_fab (d : Dev) (f : Mem → Mem) : (d.modMem f).fab = d.fab := rfl
@[simp] theorem modMem_recorder (d : Dev) (f : Mem → Mem) : (d.modMem f).recorder = d.recorder := rfl
@[simp] theorem modMem_cnt (d : Dev) (f : Mem → Mem) : (d.modMem f).cnt = d.cnt := rfl
@[simp] theorem modMem_due (d : Dev) (f : Mem → Mem) : (d.modMem f).due = d.due := rfl
@[simp] theorem modMem_out (d : Dev) (f : Mem → Mem) : (d.modMem f).out = d.out := rfl

/-! ## modXl -/

@[simp] theorem modXl_time (d : Dev) (f : Xlate → Xlate) : (d.modXl f).time = d.time := rfl
@[simp] theorem modXl_free (d : Dev) (f : Xlate → Xlate) : (d.modXl f).free = d.free := rfl
@[simp] theorem modXl_power (d : Dev) (f : Xlate → Xlate) : (d.modXl f).power = d.power := rfl
@[simp] theorem modXl_chain (d : Dev) (f : Xlate → Xlate) : (d.modXl f).chain = d.chain := rfl
@[simp] theorem modXl_boot (d : Dev) (f : Xlate → Xlate) : (d.modXl f).boot = d.boot := rfl
@[simp] theorem modXl_sec (d : Dev) (f : Xlate → Xlate) : (d.modXl f).sec = d.sec := rfl
@[simp] theorem modXl_plan (d : Dev) (f : Xlate → Xlate) : (d.modXl f).plan = d.plan := rfl
@[simp] theorem modXl_cores (d : Dev) (f : Xlate → Xlate) : (d.modXl f).cores = d.cores := rfl
@[simp] theorem modXl_mem (d : Dev) (f : Xlate → Xlate) : (d.modXl f).mem = d.mem := rfl
@[simp] theorem modXl_xl (d : Dev) (f : Xlate → Xlate) : (d.modXl f).xl = f d.xl := rfl
@[simp] theorem modXl_host (d : Dev) (f : Xlate → Xlate) : (d.modXl f).host = d.host := rfl
@[simp] theorem modXl_board (d : Dev) (f : Xlate → Xlate) : (d.modXl f).board = d.board := rfl
@[simp] theorem modXl_fab (d : Dev) (f : Xlate → Xlate) : (d.modXl f).fab = d.fab := rfl
@[simp] theorem modXl_recorder (d : Dev) (f : Xlate → Xlate) : (d.modXl f).recorder = d.recorder := rfl
@[simp] theorem modXl_cnt (d : Dev) (f : Xlate → Xlate) : (d.modXl f).cnt = d.cnt := rfl
@[simp] theorem modXl_due (d : Dev) (f : Xlate → Xlate) : (d.modXl f).due = d.due := rfl
@[simp] theorem modXl_out (d : Dev) (f : Xlate → Xlate) : (d.modXl f).out = d.out := rfl

/-! ## modHost -/

@[simp] theorem modHost_time (d : Dev) (f : HostIf → HostIf) : (d.modHost f).time = d.time := rfl
@[simp] theorem modHost_free (d : Dev) (f : HostIf → HostIf) : (d.modHost f).free = d.free := rfl
@[simp] theorem modHost_power (d : Dev) (f : HostIf → HostIf) : (d.modHost f).power = d.power := rfl
@[simp] theorem modHost_chain (d : Dev) (f : HostIf → HostIf) : (d.modHost f).chain = d.chain := rfl
@[simp] theorem modHost_boot (d : Dev) (f : HostIf → HostIf) : (d.modHost f).boot = d.boot := rfl
@[simp] theorem modHost_sec (d : Dev) (f : HostIf → HostIf) : (d.modHost f).sec = d.sec := rfl
@[simp] theorem modHost_plan (d : Dev) (f : HostIf → HostIf) : (d.modHost f).plan = d.plan := rfl
@[simp] theorem modHost_cores (d : Dev) (f : HostIf → HostIf) : (d.modHost f).cores = d.cores := rfl
@[simp] theorem modHost_mem (d : Dev) (f : HostIf → HostIf) : (d.modHost f).mem = d.mem := rfl
@[simp] theorem modHost_xl (d : Dev) (f : HostIf → HostIf) : (d.modHost f).xl = d.xl := rfl
@[simp] theorem modHost_host (d : Dev) (f : HostIf → HostIf) : (d.modHost f).host = f d.host := rfl
@[simp] theorem modHost_board (d : Dev) (f : HostIf → HostIf) : (d.modHost f).board = d.board := rfl
@[simp] theorem modHost_fab (d : Dev) (f : HostIf → HostIf) : (d.modHost f).fab = d.fab := rfl
@[simp] theorem modHost_recorder (d : Dev) (f : HostIf → HostIf) : (d.modHost f).recorder = d.recorder := rfl
@[simp] theorem modHost_cnt (d : Dev) (f : HostIf → HostIf) : (d.modHost f).cnt = d.cnt := rfl
@[simp] theorem modHost_due (d : Dev) (f : HostIf → HostIf) : (d.modHost f).due = d.due := rfl
@[simp] theorem modHost_out (d : Dev) (f : HostIf → HostIf) : (d.modHost f).out = d.out := rfl

/-! ## modBoard -/

@[simp] theorem modBoard_time (d : Dev) (f : Board → Board) : (d.modBoard f).time = d.time := rfl
@[simp] theorem modBoard_free (d : Dev) (f : Board → Board) : (d.modBoard f).free = d.free := rfl
@[simp] theorem modBoard_power (d : Dev) (f : Board → Board) : (d.modBoard f).power = d.power := rfl
@[simp] theorem modBoard_chain (d : Dev) (f : Board → Board) : (d.modBoard f).chain = d.chain := rfl
@[simp] theorem modBoard_boot (d : Dev) (f : Board → Board) : (d.modBoard f).boot = d.boot := rfl
@[simp] theorem modBoard_sec (d : Dev) (f : Board → Board) : (d.modBoard f).sec = d.sec := rfl
@[simp] theorem modBoard_plan (d : Dev) (f : Board → Board) : (d.modBoard f).plan = d.plan := rfl
@[simp] theorem modBoard_cores (d : Dev) (f : Board → Board) : (d.modBoard f).cores = d.cores := rfl
@[simp] theorem modBoard_mem (d : Dev) (f : Board → Board) : (d.modBoard f).mem = d.mem := rfl
@[simp] theorem modBoard_xl (d : Dev) (f : Board → Board) : (d.modBoard f).xl = d.xl := rfl
@[simp] theorem modBoard_host (d : Dev) (f : Board → Board) : (d.modBoard f).host = d.host := rfl
@[simp] theorem modBoard_board (d : Dev) (f : Board → Board) : (d.modBoard f).board = f d.board := rfl
@[simp] theorem modBoard_fab (d : Dev) (f : Board → Board) : (d.modBoard f).fab = d.fab := rfl
@[simp] theorem modBoard_recorder (d : Dev) (f : Board → Board) : (d.modBoard f).recorder = d.recorder := rfl
@[simp] theorem modBoard_cnt (d : Dev) (f : Board → Board) : (d.modBoard f).cnt = d.cnt := rfl
@[simp] theorem modBoard_due (d : Dev) (f : Board → Board) : (d.modBoard f).due = d.due := rfl
@[simp] theorem modBoard_out (d : Dev) (f : Board → Board) : (d.modBoard f).out = d.out := rfl

/-! ## modFab -/

@[simp] theorem modFab_time (d : Dev) (f : Fabric → Fabric) : (d.modFab f).time = d.time := rfl
@[simp] theorem modFab_free (d : Dev) (f : Fabric → Fabric) : (d.modFab f).free = d.free := rfl
@[simp] theorem modFab_power (d : Dev) (f : Fabric → Fabric) : (d.modFab f).power = d.power := rfl
@[simp] theorem modFab_chain (d : Dev) (f : Fabric → Fabric) : (d.modFab f).chain = d.chain := rfl
@[simp] theorem modFab_boot (d : Dev) (f : Fabric → Fabric) : (d.modFab f).boot = d.boot := rfl
@[simp] theorem modFab_sec (d : Dev) (f : Fabric → Fabric) : (d.modFab f).sec = d.sec := rfl
@[simp] theorem modFab_plan (d : Dev) (f : Fabric → Fabric) : (d.modFab f).plan = d.plan := rfl
@[simp] theorem modFab_cores (d : Dev) (f : Fabric → Fabric) : (d.modFab f).cores = d.cores := rfl
@[simp] theorem modFab_mem (d : Dev) (f : Fabric → Fabric) : (d.modFab f).mem = d.mem := rfl
@[simp] theorem modFab_xl (d : Dev) (f : Fabric → Fabric) : (d.modFab f).xl = d.xl := rfl
@[simp] theorem modFab_host (d : Dev) (f : Fabric → Fabric) : (d.modFab f).host = d.host := rfl
@[simp] theorem modFab_board (d : Dev) (f : Fabric → Fabric) : (d.modFab f).board = d.board := rfl
@[simp] theorem modFab_fab (d : Dev) (f : Fabric → Fabric) : (d.modFab f).fab = f d.fab := rfl
@[simp] theorem modFab_recorder (d : Dev) (f : Fabric → Fabric) : (d.modFab f).recorder = d.recorder := rfl
@[simp] theorem modFab_cnt (d : Dev) (f : Fabric → Fabric) : (d.modFab f).cnt = d.cnt := rfl
@[simp] theorem modFab_due (d : Dev) (f : Fabric → Fabric) : (d.modFab f).due = d.due := rfl
@[simp] theorem modFab_out (d : Dev) (f : Fabric → Fabric) : (d.modFab f).out = d.out := rfl

/-! ## modRec -/

@[simp] theorem modRec_time (d : Dev) (f : Recorder → Recorder) : (d.modRec f).time = d.time := rfl
@[simp] theorem modRec_free (d : Dev) (f : Recorder → Recorder) : (d.modRec f).free = d.free := rfl
@[simp] theorem modRec_power (d : Dev) (f : Recorder → Recorder) : (d.modRec f).power = d.power := rfl
@[simp] theorem modRec_chain (d : Dev) (f : Recorder → Recorder) : (d.modRec f).chain = d.chain := rfl
@[simp] theorem modRec_boot (d : Dev) (f : Recorder → Recorder) : (d.modRec f).boot = d.boot := rfl
@[simp] theorem modRec_sec (d : Dev) (f : Recorder → Recorder) : (d.modRec f).sec = d.sec := rfl
@[simp] theorem modRec_plan (d : Dev) (f : Recorder → Recorder) : (d.modRec f).plan = d.plan := rfl
@[simp] theorem modRec_cores (d : Dev) (f : Recorder → Recorder) : (d.modRec f).cores = d.cores := rfl
@[simp] theorem modRec_mem (d : Dev) (f : Recorder → Recorder) : (d.modRec f).mem = d.mem := rfl
@[simp] theorem modRec_xl (d : Dev) (f : Recorder → Recorder) : (d.modRec f).xl = d.xl := rfl
@[simp] theorem modRec_host (d : Dev) (f : Recorder → Recorder) : (d.modRec f).host = d.host := rfl
@[simp] theorem modRec_board (d : Dev) (f : Recorder → Recorder) : (d.modRec f).board = d.board := rfl
@[simp] theorem modRec_fab (d : Dev) (f : Recorder → Recorder) : (d.modRec f).fab = d.fab := rfl
@[simp] theorem modRec_recorder (d : Dev) (f : Recorder → Recorder) : (d.modRec f).recorder = f d.recorder := rfl
@[simp] theorem modRec_cnt (d : Dev) (f : Recorder → Recorder) : (d.modRec f).cnt = d.cnt := rfl
@[simp] theorem modRec_due (d : Dev) (f : Recorder → Recorder) : (d.modRec f).due = d.due := rfl
@[simp] theorem modRec_out (d : Dev) (f : Recorder → Recorder) : (d.modRec f).out = d.out := rfl

/-! ## modCore -/

@[simp] theorem modCore_time (d : Dev) (c : Nat) (f : Core → Core) : (d.modCore c f).time = d.time := rfl
@[simp] theorem modCore_free (d : Dev) (c : Nat) (f : Core → Core) : (d.modCore c f).free = d.free := rfl
@[simp] theorem modCore_power (d : Dev) (c : Nat) (f : Core → Core) : (d.modCore c f).power = d.power := rfl
@[simp] theorem modCore_chain (d : Dev) (c : Nat) (f : Core → Core) : (d.modCore c f).chain = d.chain := rfl
@[simp] theorem modCore_boot (d : Dev) (c : Nat) (f : Core → Core) : (d.modCore c f).boot = d.boot := rfl
@[simp] theorem modCore_sec (d : Dev) (c : Nat) (f : Core → Core) : (d.modCore c f).sec = d.sec := rfl
@[simp] theorem modCore_plan (d : Dev) (c : Nat) (f : Core → Core) : (d.modCore c f).plan = d.plan := rfl
@[simp] theorem modCore_mem (d : Dev) (c : Nat) (f : Core → Core) : (d.modCore c f).mem = d.mem := rfl
@[simp] theorem modCore_xl (d : Dev) (c : Nat) (f : Core → Core) : (d.modCore c f).xl = d.xl := rfl
@[simp] theorem modCore_host (d : Dev) (c : Nat) (f : Core → Core) : (d.modCore c f).host = d.host := rfl
@[simp] theorem modCore_board (d : Dev) (c : Nat) (f : Core → Core) : (d.modCore c f).board = d.board := rfl
@[simp] theorem modCore_fab (d : Dev) (c : Nat) (f : Core → Core) : (d.modCore c f).fab = d.fab := rfl
@[simp] theorem modCore_recorder (d : Dev) (c : Nat) (f : Core → Core) : (d.modCore c f).recorder = d.recorder := rfl
@[simp] theorem modCore_cnt (d : Dev) (c : Nat) (f : Core → Core) : (d.modCore c f).cnt = d.cnt := rfl
@[simp] theorem modCore_due (d : Dev) (c : Nat) (f : Core → Core) : (d.modCore c f).due = d.due := rfl
@[simp] theorem modCore_out (d : Dev) (c : Nat) (f : Core → Core) : (d.modCore c f).out = d.out := rfl

/-! ## modSeq -/

@[simp] theorem modSeq_time (d : Dev) (c : Nat) (f : Seq → Seq) : (d.modSeq c f).time = d.time := rfl
@[simp] theorem modSeq_free (d : Dev) (c : Nat) (f : Seq → Seq) : (d.modSeq c f).free = d.free := rfl
@[simp] theorem modSeq_power (d : Dev) (c : Nat) (f : Seq → Seq) : (d.modSeq c f).power = d.power := rfl
@[simp] theorem modSeq_chain (d : Dev) (c : Nat) (f : Seq → Seq) : (d.modSeq c f).chain = d.chain := rfl
@[simp] theorem modSeq_boot (d : Dev) (c : Nat) (f : Seq → Seq) : (d.modSeq c f).boot = d.boot := rfl
@[simp] theorem modSeq_sec (d : Dev) (c : Nat) (f : Seq → Seq) : (d.modSeq c f).sec = d.sec := rfl
@[simp] theorem modSeq_plan (d : Dev) (c : Nat) (f : Seq → Seq) : (d.modSeq c f).plan = d.plan := rfl
@[simp] theorem modSeq_mem (d : Dev) (c : Nat) (f : Seq → Seq) : (d.modSeq c f).mem = d.mem := rfl
@[simp] theorem modSeq_xl (d : Dev) (c : Nat) (f : Seq → Seq) : (d.modSeq c f).xl = d.xl := rfl
@[simp] theorem modSeq_host (d : Dev) (c : Nat) (f : Seq → Seq) : (d.modSeq c f).host = d.host := rfl
@[simp] theorem modSeq_board (d : Dev) (c : Nat) (f : Seq → Seq) : (d.modSeq c f).board = d.board := rfl
@[simp] theorem modSeq_fab (d : Dev) (c : Nat) (f : Seq → Seq) : (d.modSeq c f).fab = d.fab := rfl
@[simp] theorem modSeq_recorder (d : Dev) (c : Nat) (f : Seq → Seq) : (d.modSeq c f).recorder = d.recorder := rfl
@[simp] theorem modSeq_cnt (d : Dev) (c : Nat) (f : Seq → Seq) : (d.modSeq c f).cnt = d.cnt := rfl
@[simp] theorem modSeq_due (d : Dev) (c : Nat) (f : Seq → Seq) : (d.modSeq c f).due = d.due := rfl
@[simp] theorem modSeq_out (d : Dev) (c : Nat) (f : Seq → Seq) : (d.modSeq c f).out = d.out := rfl

/-! ## modCtx -/

@[simp] theorem modCtx_time (d : Dev) (c : Nat) (f : Ctx → Ctx) : (d.modCtx c f).time = d.time := rfl
@[simp] theorem modCtx_free (d : Dev) (c : Nat) (f : Ctx → Ctx) : (d.modCtx c f).free = d.free := rfl
@[simp] theorem modCtx_power (d : Dev) (c : Nat) (f : Ctx → Ctx) : (d.modCtx c f).power = d.power := rfl
@[simp] theorem modCtx_chain (d : Dev) (c : Nat) (f : Ctx → Ctx) : (d.modCtx c f).chain = d.chain := rfl
@[simp] theorem modCtx_boot (d : Dev) (c : Nat) (f : Ctx → Ctx) : (d.modCtx c f).boot = d.boot := rfl
@[simp] theorem modCtx_sec (d : Dev) (c : Nat) (f : Ctx → Ctx) : (d.modCtx c f).sec = d.sec := rfl
@[simp] theorem modCtx_plan (d : Dev) (c : Nat) (f : Ctx → Ctx) : (d.modCtx c f).plan = d.plan := rfl
@[simp] theorem modCtx_cores (d : Dev) (c : Nat) (f : Ctx → Ctx) : (d.modCtx c f).cores = d.cores := rfl
@[simp] theorem modCtx_mem (d : Dev) (c : Nat) (f : Ctx → Ctx) : (d.modCtx c f).mem = d.mem := rfl
@[simp] theorem modCtx_xl (d : Dev) (c : Nat) (f : Ctx → Ctx) : (d.modCtx c f).xl = d.xl := rfl
@[simp] theorem modCtx_board (d : Dev) (c : Nat) (f : Ctx → Ctx) : (d.modCtx c f).board = d.board := rfl
@[simp] theorem modCtx_fab (d : Dev) (c : Nat) (f : Ctx → Ctx) : (d.modCtx c f).fab = d.fab := rfl
@[simp] theorem modCtx_recorder (d : Dev) (c : Nat) (f : Ctx → Ctx) : (d.modCtx c f).recorder = d.recorder := rfl
@[simp] theorem modCtx_cnt (d : Dev) (c : Nat) (f : Ctx → Ctx) : (d.modCtx c f).cnt = d.cnt := rfl
@[simp] theorem modCtx_due (d : Dev) (c : Nat) (f : Ctx → Ctx) : (d.modCtx c f).due = d.due := rfl
@[simp] theorem modCtx_out (d : Dev) (c : Nat) (f : Ctx → Ctx) : (d.modCtx c f).out = d.out := rfl

/-! ## modFunc -/

@[simp] theorem modFunc_time (d : Dev) (c : Fn) (f : Func → Func) : (d.modFunc c f).time = d.time := rfl
@[simp] theorem modFunc_free (d : Dev) (c : Fn) (f : Func → Func) : (d.modFunc c f).free = d.free := rfl
@[simp] theorem modFunc_power (d : Dev) (c : Fn) (f : Func → Func) : (d.modFunc c f).power = d.power := rfl
@[simp] theorem modFunc_chain (d : Dev) (c : Fn) (f : Func → Func) : (d.modFunc c f).chain = d.chain := rfl
@[simp] theorem modFunc_boot (d : Dev) (c : Fn) (f : Func → Func) : (d.modFunc c f).boot = d.boot := rfl
@[simp] theorem modFunc_sec (d : Dev) (c : Fn) (f : Func → Func) : (d.modFunc c f).sec = d.sec := rfl
@[simp] theorem modFunc_plan (d : Dev) (c : Fn) (f : Func → Func) : (d.modFunc c f).plan = d.plan := rfl
@[simp] theorem modFunc_cores (d : Dev) (c : Fn) (f : Func → Func) : (d.modFunc c f).cores = d.cores := rfl
@[simp] theorem modFunc_mem (d : Dev) (c : Fn) (f : Func → Func) : (d.modFunc c f).mem = d.mem := rfl
@[simp] theorem modFunc_xl (d : Dev) (c : Fn) (f : Func → Func) : (d.modFunc c f).xl = d.xl := rfl
@[simp] theorem modFunc_board (d : Dev) (c : Fn) (f : Func → Func) : (d.modFunc c f).board = d.board := rfl
@[simp] theorem modFunc_fab (d : Dev) (c : Fn) (f : Func → Func) : (d.modFunc c f).fab = d.fab := rfl
@[simp] theorem modFunc_recorder (d : Dev) (c : Fn) (f : Func → Func) : (d.modFunc c f).recorder = d.recorder := rfl
@[simp] theorem modFunc_cnt (d : Dev) (c : Fn) (f : Func → Func) : (d.modFunc c f).cnt = d.cnt := rfl
@[simp] theorem modFunc_due (d : Dev) (c : Fn) (f : Func → Func) : (d.modFunc c f).due = d.due := rfl
@[simp] theorem modFunc_out (d : Dev) (c : Fn) (f : Func → Func) : (d.modFunc c f).out = d.out := rfl

/-! ## modPort -/

@[simp] theorem modPort_time (d : Dev) (c : Nat) (f : Port → Port) : (d.modPort c f).time = d.time := rfl
@[simp] theorem modPort_free (d : Dev) (c : Nat) (f : Port → Port) : (d.modPort c f).free = d.free := rfl
@[simp] theorem modPort_power (d : Dev) (c : Nat) (f : Port → Port) : (d.modPort c f).power = d.power := rfl
@[simp] theorem modPort_chain (d : Dev) (c : Nat) (f : Port → Port) : (d.modPort c f).chain = d.chain := rfl
@[simp] theorem modPort_boot (d : Dev) (c : Nat) (f : Port → Port) : (d.modPort c f).boot = d.boot := rfl
@[simp] theorem modPort_sec (d : Dev) (c : Nat) (f : Port → Port) : (d.modPort c f).sec = d.sec := rfl
@[simp] theorem modPort_plan (d : Dev) (c : Nat) (f : Port → Port) : (d.modPort c f).plan = d.plan := rfl
@[simp] theorem modPort_cores (d : Dev) (c : Nat) (f : Port → Port) : (d.modPort c f).cores = d.cores := rfl
@[simp] theorem modPort_mem (d : Dev) (c : Nat) (f : Port → Port) : (d.modPort c f).mem = d.mem := rfl
@[simp] theorem modPort_xl (d : Dev) (c : Nat) (f : Port → Port) : (d.modPort c f).xl = d.xl := rfl
@[simp] theorem modPort_host (d : Dev) (c : Nat) (f : Port → Port) : (d.modPort c f).host = d.host := rfl
@[simp] theorem modPort_board (d : Dev) (c : Nat) (f : Port → Port) : (d.modPort c f).board = d.board := rfl
@[simp] theorem modPort_recorder (d : Dev) (c : Nat) (f : Port → Port) : (d.modPort c f).recorder = d.recorder := rfl
@[simp] theorem modPort_cnt (d : Dev) (c : Nat) (f : Port → Port) : (d.modPort c f).cnt = d.cnt := rfl
@[simp] theorem modPort_due (d : Dev) (c : Nat) (f : Port → Port) : (d.modPort c f).due = d.due := rfl
@[simp] theorem modPort_out (d : Dev) (c : Nat) (f : Port → Port) : (d.modPort c f).out = d.out := rfl

/-! ## modTileMem -/

@[simp] theorem modTileMem_time (d : Dev) (c : Nat) (f : TileMem → TileMem) : (d.modTileMem c f).time = d.time := rfl
@[simp] theorem modTileMem_free (d : Dev) (c : Nat) (f : TileMem → TileMem) : (d.modTileMem c f).free = d.free := rfl
@[simp] theorem modTileMem_power (d : Dev) (c : Nat) (f : TileMem → TileMem) : (d.modTileMem c f).power = d.power := rfl
@[simp] theorem modTileMem_chain (d : Dev) (c : Nat) (f : TileMem → TileMem) : (d.modTileMem c f).chain = d.chain := rfl
@[simp] theorem modTileMem_boot (d : Dev) (c : Nat) (f : TileMem → TileMem) : (d.modTileMem c f).boot = d.boot := rfl
@[simp] theorem modTileMem_sec (d : Dev) (c : Nat) (f : TileMem → TileMem) : (d.modTileMem c f).sec = d.sec := rfl
@[simp] theorem modTileMem_plan (d : Dev) (c : Nat) (f : TileMem → TileMem) : (d.modTileMem c f).plan = d.plan := rfl
@[simp] theorem modTileMem_cores (d : Dev) (c : Nat) (f : TileMem → TileMem) : (d.modTileMem c f).cores = d.cores := rfl
@[simp] theorem modTileMem_xl (d : Dev) (c : Nat) (f : TileMem → TileMem) : (d.modTileMem c f).xl = d.xl := rfl
@[simp] theorem modTileMem_host (d : Dev) (c : Nat) (f : TileMem → TileMem) : (d.modTileMem c f).host = d.host := rfl
@[simp] theorem modTileMem_board (d : Dev) (c : Nat) (f : TileMem → TileMem) : (d.modTileMem c f).board = d.board := rfl
@[simp] theorem modTileMem_fab (d : Dev) (c : Nat) (f : TileMem → TileMem) : (d.modTileMem c f).fab = d.fab := rfl
@[simp] theorem modTileMem_recorder (d : Dev) (c : Nat) (f : TileMem → TileMem) : (d.modTileMem c f).recorder = d.recorder := rfl
@[simp] theorem modTileMem_cnt (d : Dev) (c : Nat) (f : TileMem → TileMem) : (d.modTileMem c f).cnt = d.cnt := rfl
@[simp] theorem modTileMem_due (d : Dev) (c : Nat) (f : TileMem → TileMem) : (d.modTileMem c f).due = d.due := rfl
@[simp] theorem modTileMem_out (d : Dev) (c : Nat) (f : TileMem → TileMem) : (d.modTileMem c f).out = d.out := rfl

/-! ## modBiv -/

@[simp] theorem modBiv_time (d : Dev) (c : Nat) (f : BivPort → BivPort) : (d.modBiv c f).time = d.time := rfl
@[simp] theorem modBiv_free (d : Dev) (c : Nat) (f : BivPort → BivPort) : (d.modBiv c f).free = d.free := rfl
@[simp] theorem modBiv_power (d : Dev) (c : Nat) (f : BivPort → BivPort) : (d.modBiv c f).power = d.power := rfl
@[simp] theorem modBiv_chain (d : Dev) (c : Nat) (f : BivPort → BivPort) : (d.modBiv c f).chain = d.chain := rfl
@[simp] theorem modBiv_boot (d : Dev) (c : Nat) (f : BivPort → BivPort) : (d.modBiv c f).boot = d.boot := rfl
@[simp] theorem modBiv_sec (d : Dev) (c : Nat) (f : BivPort → BivPort) : (d.modBiv c f).sec = d.sec := rfl
@[simp] theorem modBiv_plan (d : Dev) (c : Nat) (f : BivPort → BivPort) : (d.modBiv c f).plan = d.plan := rfl
@[simp] theorem modBiv_cores (d : Dev) (c : Nat) (f : BivPort → BivPort) : (d.modBiv c f).cores = d.cores := rfl
@[simp] theorem modBiv_xl (d : Dev) (c : Nat) (f : BivPort → BivPort) : (d.modBiv c f).xl = d.xl := rfl
@[simp] theorem modBiv_host (d : Dev) (c : Nat) (f : BivPort → BivPort) : (d.modBiv c f).host = d.host := rfl
@[simp] theorem modBiv_board (d : Dev) (c : Nat) (f : BivPort → BivPort) : (d.modBiv c f).board = d.board := rfl
@[simp] theorem modBiv_fab (d : Dev) (c : Nat) (f : BivPort → BivPort) : (d.modBiv c f).fab = d.fab := rfl
@[simp] theorem modBiv_recorder (d : Dev) (c : Nat) (f : BivPort → BivPort) : (d.modBiv c f).recorder = d.recorder := rfl
@[simp] theorem modBiv_cnt (d : Dev) (c : Nat) (f : BivPort → BivPort) : (d.modBiv c f).cnt = d.cnt := rfl
@[simp] theorem modBiv_due (d : Dev) (c : Nat) (f : BivPort → BivPort) : (d.modBiv c f).due = d.due := rfl
@[simp] theorem modBiv_out (d : Dev) (c : Nat) (f : BivPort → BivPort) : (d.modBiv c f).out = d.out := rfl

/-! ## modPitchCnt -/

@[simp] theorem modPitchCnt_time (d : Dev) (c : Nat) (f : PitchCount → PitchCount) : (d.modPitchCnt c f).time = d.time := rfl
@[simp] theorem modPitchCnt_free (d : Dev) (c : Nat) (f : PitchCount → PitchCount) : (d.modPitchCnt c f).free = d.free := rfl
@[simp] theorem modPitchCnt_power (d : Dev) (c : Nat) (f : PitchCount → PitchCount) : (d.modPitchCnt c f).power = d.power := rfl
@[simp] theorem modPitchCnt_chain (d : Dev) (c : Nat) (f : PitchCount → PitchCount) : (d.modPitchCnt c f).chain = d.chain := rfl
@[simp] theorem modPitchCnt_boot (d : Dev) (c : Nat) (f : PitchCount → PitchCount) : (d.modPitchCnt c f).boot = d.boot := rfl
@[simp] theorem modPitchCnt_sec (d : Dev) (c : Nat) (f : PitchCount → PitchCount) : (d.modPitchCnt c f).sec = d.sec := rfl
@[simp] theorem modPitchCnt_plan (d : Dev) (c : Nat) (f : PitchCount → PitchCount) : (d.modPitchCnt c f).plan = d.plan := rfl
@[simp] theorem modPitchCnt_cores (d : Dev) (c : Nat) (f : PitchCount → PitchCount) : (d.modPitchCnt c f).cores = d.cores := rfl
@[simp] theorem modPitchCnt_mem (d : Dev) (c : Nat) (f : PitchCount → PitchCount) : (d.modPitchCnt c f).mem = d.mem := rfl
@[simp] theorem modPitchCnt_xl (d : Dev) (c : Nat) (f : PitchCount → PitchCount) : (d.modPitchCnt c f).xl = d.xl := rfl
@[simp] theorem modPitchCnt_host (d : Dev) (c : Nat) (f : PitchCount → PitchCount) : (d.modPitchCnt c f).host = d.host := rfl
@[simp] theorem modPitchCnt_board (d : Dev) (c : Nat) (f : PitchCount → PitchCount) : (d.modPitchCnt c f).board = d.board := rfl
@[simp] theorem modPitchCnt_fab (d : Dev) (c : Nat) (f : PitchCount → PitchCount) : (d.modPitchCnt c f).fab = d.fab := rfl
@[simp] theorem modPitchCnt_recorder (d : Dev) (c : Nat) (f : PitchCount → PitchCount) : (d.modPitchCnt c f).recorder = d.recorder := rfl
@[simp] theorem modPitchCnt_due (d : Dev) (c : Nat) (f : PitchCount → PitchCount) : (d.modPitchCnt c f).due = d.due := rfl
@[simp] theorem modPitchCnt_out (d : Dev) (c : Nat) (f : PitchCount → PitchCount) : (d.modPitchCnt c f).out = d.out := rfl

/-! ## modPitchBoard -/

@[simp] theorem modPitchBoard_time (d : Dev) (c : Nat) (f : PitchBoard → PitchBoard) : (d.modPitchBoard c f).time = d.time := rfl
@[simp] theorem modPitchBoard_free (d : Dev) (c : Nat) (f : PitchBoard → PitchBoard) : (d.modPitchBoard c f).free = d.free := rfl
@[simp] theorem modPitchBoard_power (d : Dev) (c : Nat) (f : PitchBoard → PitchBoard) : (d.modPitchBoard c f).power = d.power := rfl
@[simp] theorem modPitchBoard_chain (d : Dev) (c : Nat) (f : PitchBoard → PitchBoard) : (d.modPitchBoard c f).chain = d.chain := rfl
@[simp] theorem modPitchBoard_boot (d : Dev) (c : Nat) (f : PitchBoard → PitchBoard) : (d.modPitchBoard c f).boot = d.boot := rfl
@[simp] theorem modPitchBoard_sec (d : Dev) (c : Nat) (f : PitchBoard → PitchBoard) : (d.modPitchBoard c f).sec = d.sec := rfl
@[simp] theorem modPitchBoard_plan (d : Dev) (c : Nat) (f : PitchBoard → PitchBoard) : (d.modPitchBoard c f).plan = d.plan := rfl
@[simp] theorem modPitchBoard_cores (d : Dev) (c : Nat) (f : PitchBoard → PitchBoard) : (d.modPitchBoard c f).cores = d.cores := rfl
@[simp] theorem modPitchBoard_mem (d : Dev) (c : Nat) (f : PitchBoard → PitchBoard) : (d.modPitchBoard c f).mem = d.mem := rfl
@[simp] theorem modPitchBoard_xl (d : Dev) (c : Nat) (f : PitchBoard → PitchBoard) : (d.modPitchBoard c f).xl = d.xl := rfl
@[simp] theorem modPitchBoard_host (d : Dev) (c : Nat) (f : PitchBoard → PitchBoard) : (d.modPitchBoard c f).host = d.host := rfl
@[simp] theorem modPitchBoard_fab (d : Dev) (c : Nat) (f : PitchBoard → PitchBoard) : (d.modPitchBoard c f).fab = d.fab := rfl
@[simp] theorem modPitchBoard_recorder (d : Dev) (c : Nat) (f : PitchBoard → PitchBoard) : (d.modPitchBoard c f).recorder = d.recorder := rfl
@[simp] theorem modPitchBoard_cnt (d : Dev) (c : Nat) (f : PitchBoard → PitchBoard) : (d.modPitchBoard c f).cnt = d.cnt := rfl
@[simp] theorem modPitchBoard_due (d : Dev) (c : Nat) (f : PitchBoard → PitchBoard) : (d.modPitchBoard c f).due = d.due := rfl
@[simp] theorem modPitchBoard_out (d : Dev) (c : Nat) (f : PitchBoard → PitchBoard) : (d.modPitchBoard c f).out = d.out := rfl

/-! ## modEngine -/

@[simp] theorem modEngine_time (d : Dev) (c : Nat) (f : Engine → Engine) : (d.modEngine c f).time = d.time := rfl
@[simp] theorem modEngine_free (d : Dev) (c : Nat) (f : Engine → Engine) : (d.modEngine c f).free = d.free := rfl
@[simp] theorem modEngine_power (d : Dev) (c : Nat) (f : Engine → Engine) : (d.modEngine c f).power = d.power := rfl
@[simp] theorem modEngine_chain (d : Dev) (c : Nat) (f : Engine → Engine) : (d.modEngine c f).chain = d.chain := rfl
@[simp] theorem modEngine_boot (d : Dev) (c : Nat) (f : Engine → Engine) : (d.modEngine c f).boot = d.boot := rfl
@[simp] theorem modEngine_sec (d : Dev) (c : Nat) (f : Engine → Engine) : (d.modEngine c f).sec = d.sec := rfl
@[simp] theorem modEngine_plan (d : Dev) (c : Nat) (f : Engine → Engine) : (d.modEngine c f).plan = d.plan := rfl
@[simp] theorem modEngine_cores (d : Dev) (c : Nat) (f : Engine → Engine) : (d.modEngine c f).cores = d.cores := rfl
@[simp] theorem modEngine_mem (d : Dev) (c : Nat) (f : Engine → Engine) : (d.modEngine c f).mem = d.mem := rfl
@[simp] theorem modEngine_xl (d : Dev) (c : Nat) (f : Engine → Engine) : (d.modEngine c f).xl = d.xl := rfl
@[simp] theorem modEngine_host (d : Dev) (c : Nat) (f : Engine → Engine) : (d.modEngine c f).host = d.host := rfl
@[simp] theorem modEngine_fab (d : Dev) (c : Nat) (f : Engine → Engine) : (d.modEngine c f).fab = d.fab := rfl
@[simp] theorem modEngine_recorder (d : Dev) (c : Nat) (f : Engine → Engine) : (d.modEngine c f).recorder = d.recorder := rfl
@[simp] theorem modEngine_cnt (d : Dev) (c : Nat) (f : Engine → Engine) : (d.modEngine c f).cnt = d.cnt := rfl
@[simp] theorem modEngine_due (d : Dev) (c : Nat) (f : Engine → Engine) : (d.modEngine c f).due = d.due := rfl
@[simp] theorem modEngine_out (d : Dev) (c : Nat) (f : Engine → Engine) : (d.modEngine c f).out = d.out := rfl

/-! ## modNode -/

@[simp] theorem modNode_time (d : Dev) (c : Nat) (f : Node → Node) : (d.modNode c f).time = d.time := rfl
@[simp] theorem modNode_free (d : Dev) (c : Nat) (f : Node → Node) : (d.modNode c f).free = d.free := rfl
@[simp] theorem modNode_power (d : Dev) (c : Nat) (f : Node → Node) : (d.modNode c f).power = d.power := rfl
@[simp] theorem modNode_chain (d : Dev) (c : Nat) (f : Node → Node) : (d.modNode c f).chain = d.chain := rfl
@[simp] theorem modNode_boot (d : Dev) (c : Nat) (f : Node → Node) : (d.modNode c f).boot = d.boot := rfl
@[simp] theorem modNode_sec (d : Dev) (c : Nat) (f : Node → Node) : (d.modNode c f).sec = d.sec := rfl
@[simp] theorem modNode_plan (d : Dev) (c : Nat) (f : Node → Node) : (d.modNode c f).plan = d.plan := rfl
@[simp] theorem modNode_cores (d : Dev) (c : Nat) (f : Node → Node) : (d.modNode c f).cores = d.cores := rfl
@[simp] theorem modNode_mem (d : Dev) (c : Nat) (f : Node → Node) : (d.modNode c f).mem = d.mem := rfl
@[simp] theorem modNode_xl (d : Dev) (c : Nat) (f : Node → Node) : (d.modNode c f).xl = d.xl := rfl
@[simp] theorem modNode_host (d : Dev) (c : Nat) (f : Node → Node) : (d.modNode c f).host = d.host := rfl
@[simp] theorem modNode_fab (d : Dev) (c : Nat) (f : Node → Node) : (d.modNode c f).fab = d.fab := rfl
@[simp] theorem modNode_recorder (d : Dev) (c : Nat) (f : Node → Node) : (d.modNode c f).recorder = d.recorder := rfl
@[simp] theorem modNode_cnt (d : Dev) (c : Nat) (f : Node → Node) : (d.modNode c f).cnt = d.cnt := rfl
@[simp] theorem modNode_due (d : Dev) (c : Nat) (f : Node → Node) : (d.modNode c f).due = d.due := rfl
@[simp] theorem modNode_out (d : Dev) (c : Nat) (f : Node → Node) : (d.modNode c f).out = d.out := rfl

/-! ## modGraph -/

@[simp] theorem modGraph_time (d : Dev) (c : Nat) (f : Graph → Graph) : (d.modGraph c f).time = d.time := rfl
@[simp] theorem modGraph_free (d : Dev) (c : Nat) (f : Graph → Graph) : (d.modGraph c f).free = d.free := rfl
@[simp] theorem modGraph_power (d : Dev) (c : Nat) (f : Graph → Graph) : (d.modGraph c f).power = d.power := rfl
@[simp] theorem modGraph_chain (d : Dev) (c : Nat) (f : Graph → Graph) : (d.modGraph c f).chain = d.chain := rfl
@[simp] theorem modGraph_boot (d : Dev) (c : Nat) (f : Graph → Graph) : (d.modGraph c f).boot = d.boot := rfl
@[simp] theorem modGraph_sec (d : Dev) (c : Nat) (f : Graph → Graph) : (d.modGraph c f).sec = d.sec := rfl
@[simp] theorem modGraph_plan (d : Dev) (c : Nat) (f : Graph → Graph) : (d.modGraph c f).plan = d.plan := rfl
@[simp] theorem modGraph_cores (d : Dev) (c : Nat) (f : Graph → Graph) : (d.modGraph c f).cores = d.cores := rfl
@[simp] theorem modGraph_mem (d : Dev) (c : Nat) (f : Graph → Graph) : (d.modGraph c f).mem = d.mem := rfl
@[simp] theorem modGraph_xl (d : Dev) (c : Nat) (f : Graph → Graph) : (d.modGraph c f).xl = d.xl := rfl
@[simp] theorem modGraph_host (d : Dev) (c : Nat) (f : Graph → Graph) : (d.modGraph c f).host = d.host := rfl
@[simp] theorem modGraph_fab (d : Dev) (c : Nat) (f : Graph → Graph) : (d.modGraph c f).fab = d.fab := rfl
@[simp] theorem modGraph_recorder (d : Dev) (c : Nat) (f : Graph → Graph) : (d.modGraph c f).recorder = d.recorder := rfl
@[simp] theorem modGraph_cnt (d : Dev) (c : Nat) (f : Graph → Graph) : (d.modGraph c f).cnt = d.cnt := rfl
@[simp] theorem modGraph_due (d : Dev) (c : Nat) (f : Graph → Graph) : (d.modGraph c f).due = d.due := rfl
@[simp] theorem modGraph_out (d : Dev) (c : Nat) (f : Graph → Graph) : (d.modGraph c f).out = d.out := rfl

/-! ## modDesc -/

@[simp] theorem modDesc_time (d : Dev) (c : Nat) (f : Desc → Desc) : (d.modDesc c f).time = d.time := rfl
@[simp] theorem modDesc_free (d : Dev) (c : Nat) (f : Desc → Desc) : (d.modDesc c f).free = d.free := rfl
@[simp] theorem modDesc_power (d : Dev) (c : Nat) (f : Desc → Desc) : (d.modDesc c f).power = d.power := rfl
@[simp] theorem modDesc_chain (d : Dev) (c : Nat) (f : Desc → Desc) : (d.modDesc c f).chain = d.chain := rfl
@[simp] theorem modDesc_boot (d : Dev) (c : Nat) (f : Desc → Desc) : (d.modDesc c f).boot = d.boot := rfl
@[simp] theorem modDesc_sec (d : Dev) (c : Nat) (f : Desc → Desc) : (d.modDesc c f).sec = d.sec := rfl
@[simp] theorem modDesc_plan (d : Dev) (c : Nat) (f : Desc → Desc) : (d.modDesc c f).plan = d.plan := rfl
@[simp] theorem modDesc_cores (d : Dev) (c : Nat) (f : Desc → Desc) : (d.modDesc c f).cores = d.cores := rfl
@[simp] theorem modDesc_mem (d : Dev) (c : Nat) (f : Desc → Desc) : (d.modDesc c f).mem = d.mem := rfl
@[simp] theorem modDesc_xl (d : Dev) (c : Nat) (f : Desc → Desc) : (d.modDesc c f).xl = d.xl := rfl
@[simp] theorem modDesc_host (d : Dev) (c : Nat) (f : Desc → Desc) : (d.modDesc c f).host = d.host := rfl
@[simp] theorem modDesc_fab (d : Dev) (c : Nat) (f : Desc → Desc) : (d.modDesc c f).fab = d.fab := rfl
@[simp] theorem modDesc_recorder (d : Dev) (c : Nat) (f : Desc → Desc) : (d.modDesc c f).recorder = d.recorder := rfl
@[simp] theorem modDesc_cnt (d : Dev) (c : Nat) (f : Desc → Desc) : (d.modDesc c f).cnt = d.cnt := rfl
@[simp] theorem modDesc_due (d : Dev) (c : Nat) (f : Desc → Desc) : (d.modDesc c f).due = d.due := rfl
@[simp] theorem modDesc_out (d : Dev) (c : Nat) (f : Desc → Desc) : (d.modDesc c f).out = d.out := rfl

/-! ## modReq -/

@[simp] theorem modReq_time (d : Dev) (c : Nat) (f : Req → Req) : (d.modReq c f).time = d.time := rfl
@[simp] theorem modReq_free (d : Dev) (c : Nat) (f : Req → Req) : (d.modReq c f).free = d.free := rfl
@[simp] theorem modReq_power (d : Dev) (c : Nat) (f : Req → Req) : (d.modReq c f).power = d.power := rfl
@[simp] theorem modReq_chain (d : Dev) (c : Nat) (f : Req → Req) : (d.modReq c f).chain = d.chain := rfl
@[simp] theorem modReq_boot (d : Dev) (c : Nat) (f : Req → Req) : (d.modReq c f).boot = d.boot := rfl
@[simp] theorem modReq_sec (d : Dev) (c : Nat) (f : Req → Req) : (d.modReq c f).sec = d.sec := rfl
@[simp] theorem modReq_plan (d : Dev) (c : Nat) (f : Req → Req) : (d.modReq c f).plan = d.plan := rfl
@[simp] theorem modReq_cores (d : Dev) (c : Nat) (f : Req → Req) : (d.modReq c f).cores = d.cores := rfl
@[simp] theorem modReq_xl (d : Dev) (c : Nat) (f : Req → Req) : (d.modReq c f).xl = d.xl := rfl
@[simp] theorem modReq_host (d : Dev) (c : Nat) (f : Req → Req) : (d.modReq c f).host = d.host := rfl
@[simp] theorem modReq_board (d : Dev) (c : Nat) (f : Req → Req) : (d.modReq c f).board = d.board := rfl
@[simp] theorem modReq_fab (d : Dev) (c : Nat) (f : Req → Req) : (d.modReq c f).fab = d.fab := rfl
@[simp] theorem modReq_recorder (d : Dev) (c : Nat) (f : Req → Req) : (d.modReq c f).recorder = d.recorder := rfl
@[simp] theorem modReq_cnt (d : Dev) (c : Nat) (f : Req → Req) : (d.modReq c f).cnt = d.cnt := rfl
@[simp] theorem modReq_due (d : Dev) (c : Nat) (f : Req → Req) : (d.modReq c f).due = d.due := rfl
@[simp] theorem modReq_out (d : Dev) (c : Nat) (f : Req → Req) : (d.modReq c f).out = d.out := rfl

/-! ## modQueue -/

@[simp] theorem modQueue_time (d : Dev) (c q : Nat) (f : Queue → Queue) : (d.modQueue c q f).time = d.time := rfl
@[simp] theorem modQueue_free (d : Dev) (c q : Nat) (f : Queue → Queue) : (d.modQueue c q f).free = d.free := rfl
@[simp] theorem modQueue_power (d : Dev) (c q : Nat) (f : Queue → Queue) : (d.modQueue c q f).power = d.power := rfl
@[simp] theorem modQueue_chain (d : Dev) (c q : Nat) (f : Queue → Queue) : (d.modQueue c q f).chain = d.chain := rfl
@[simp] theorem modQueue_boot (d : Dev) (c q : Nat) (f : Queue → Queue) : (d.modQueue c q f).boot = d.boot := rfl
@[simp] theorem modQueue_sec (d : Dev) (c q : Nat) (f : Queue → Queue) : (d.modQueue c q f).sec = d.sec := rfl
@[simp] theorem modQueue_plan (d : Dev) (c q : Nat) (f : Queue → Queue) : (d.modQueue c q f).plan = d.plan := rfl
@[simp] theorem modQueue_cores (d : Dev) (c q : Nat) (f : Queue → Queue) : (d.modQueue c q f).cores = d.cores := rfl
@[simp] theorem modQueue_mem (d : Dev) (c q : Nat) (f : Queue → Queue) : (d.modQueue c q f).mem = d.mem := rfl
@[simp] theorem modQueue_xl (d : Dev) (c q : Nat) (f : Queue → Queue) : (d.modQueue c q f).xl = d.xl := rfl
@[simp] theorem modQueue_board (d : Dev) (c q : Nat) (f : Queue → Queue) : (d.modQueue c q f).board = d.board := rfl
@[simp] theorem modQueue_fab (d : Dev) (c q : Nat) (f : Queue → Queue) : (d.modQueue c q f).fab = d.fab := rfl
@[simp] theorem modQueue_recorder (d : Dev) (c q : Nat) (f : Queue → Queue) : (d.modQueue c q f).recorder = d.recorder := rfl
@[simp] theorem modQueue_cnt (d : Dev) (c q : Nat) (f : Queue → Queue) : (d.modQueue c q f).cnt = d.cnt := rfl
@[simp] theorem modQueue_due (d : Dev) (c q : Nat) (f : Queue → Queue) : (d.modQueue c q f).due = d.due := rfl
@[simp] theorem modQueue_out (d : Dev) (c q : Nat) (f : Queue → Queue) : (d.modQueue c q f).out = d.out := rfl

/-! ## modGroup -/

@[simp] theorem modGroup_time (d : Dev) (c n : Nat) (f : Group → Group) : (d.modGroup c n f).time = d.time := rfl
@[simp] theorem modGroup_free (d : Dev) (c n : Nat) (f : Group → Group) : (d.modGroup c n f).free = d.free := rfl
@[simp] theorem modGroup_power (d : Dev) (c n : Nat) (f : Group → Group) : (d.modGroup c n f).power = d.power := rfl
@[simp] theorem modGroup_chain (d : Dev) (c n : Nat) (f : Group → Group) : (d.modGroup c n f).chain = d.chain := rfl
@[simp] theorem modGroup_boot (d : Dev) (c n : Nat) (f : Group → Group) : (d.modGroup c n f).boot = d.boot := rfl
@[simp] theorem modGroup_sec (d : Dev) (c n : Nat) (f : Group → Group) : (d.modGroup c n f).sec = d.sec := rfl
@[simp] theorem modGroup_plan (d : Dev) (c n : Nat) (f : Group → Group) : (d.modGroup c n f).plan = d.plan := rfl
@[simp] theorem modGroup_mem (d : Dev) (c n : Nat) (f : Group → Group) : (d.modGroup c n f).mem = d.mem := rfl
@[simp] theorem modGroup_xl (d : Dev) (c n : Nat) (f : Group → Group) : (d.modGroup c n f).xl = d.xl := rfl
@[simp] theorem modGroup_host (d : Dev) (c n : Nat) (f : Group → Group) : (d.modGroup c n f).host = d.host := rfl
@[simp] theorem modGroup_board (d : Dev) (c n : Nat) (f : Group → Group) : (d.modGroup c n f).board = d.board := rfl
@[simp] theorem modGroup_fab (d : Dev) (c n : Nat) (f : Group → Group) : (d.modGroup c n f).fab = d.fab := rfl
@[simp] theorem modGroup_recorder (d : Dev) (c n : Nat) (f : Group → Group) : (d.modGroup c n f).recorder = d.recorder := rfl
@[simp] theorem modGroup_cnt (d : Dev) (c n : Nat) (f : Group → Group) : (d.modGroup c n f).cnt = d.cnt := rfl
@[simp] theorem modGroup_due (d : Dev) (c n : Nat) (f : Group → Group) : (d.modGroup c n f).due = d.due := rfl
@[simp] theorem modGroup_out (d : Dev) (c n : Nat) (f : Group → Group) : (d.modGroup c n f).out = d.out := rfl

/-! ## setReq -/

@[simp] theorem setReq_time (d : Dev) (t : Nat) (r : Req) : (d.setReq t r).time = d.time := rfl
@[simp] theorem setReq_free (d : Dev) (t : Nat) (r : Req) : (d.setReq t r).free = d.free := rfl
@[simp] theorem setReq_power (d : Dev) (t : Nat) (r : Req) : (d.setReq t r).power = d.power := rfl
@[simp] theorem setReq_chain (d : Dev) (t : Nat) (r : Req) : (d.setReq t r).chain = d.chain := rfl
@[simp] theorem setReq_boot (d : Dev) (t : Nat) (r : Req) : (d.setReq t r).boot = d.boot := rfl
@[simp] theorem setReq_sec (d : Dev) (t : Nat) (r : Req) : (d.setReq t r).sec = d.sec := rfl
@[simp] theorem setReq_plan (d : Dev) (t : Nat) (r : Req) : (d.setReq t r).plan = d.plan := rfl
@[simp] theorem setReq_cores (d : Dev) (t : Nat) (r : Req) : (d.setReq t r).cores = d.cores := rfl
@[simp] theorem setReq_xl (d : Dev) (t : Nat) (r : Req) : (d.setReq t r).xl = d.xl := rfl
@[simp] theorem setReq_host (d : Dev) (t : Nat) (r : Req) : (d.setReq t r).host = d.host := rfl
@[simp] theorem setReq_board (d : Dev) (t : Nat) (r : Req) : (d.setReq t r).board = d.board := rfl
@[simp] theorem setReq_fab (d : Dev) (t : Nat) (r : Req) : (d.setReq t r).fab = d.fab := rfl
@[simp] theorem setReq_recorder (d : Dev) (t : Nat) (r : Req) : (d.setReq t r).recorder = d.recorder := rfl
@[simp] theorem setReq_cnt (d : Dev) (t : Nat) (r : Req) : (d.setReq t r).cnt = d.cnt := rfl
@[simp] theorem setReq_due (d : Dev) (t : Nat) (r : Req) : (d.setReq t r).due = d.due := rfl
@[simp] theorem setReq_out (d : Dev) (t : Nat) (r : Req) : (d.setReq t r).out = d.out := rfl

/-! ## delReq -/

@[simp] theorem delReq_time (d : Dev) (t : Nat) : (d.delReq t).time = d.time := rfl
@[simp] theorem delReq_free (d : Dev) (t : Nat) : (d.delReq t).free = d.free := rfl
@[simp] theorem delReq_power (d : Dev) (t : Nat) : (d.delReq t).power = d.power := rfl
@[simp] theorem delReq_chain (d : Dev) (t : Nat) : (d.delReq t).chain = d.chain := rfl
@[simp] theorem delReq_boot (d : Dev) (t : Nat) : (d.delReq t).boot = d.boot := rfl
@[simp] theorem delReq_sec (d : Dev) (t : Nat) : (d.delReq t).sec = d.sec := rfl
@[simp] theorem delReq_plan (d : Dev) (t : Nat) : (d.delReq t).plan = d.plan := rfl
@[simp] theorem delReq_cores (d : Dev) (t : Nat) : (d.delReq t).cores = d.cores := rfl
@[simp] theorem delReq_xl (d : Dev) (t : Nat) : (d.delReq t).xl = d.xl := rfl
@[simp] theorem delReq_host (d : Dev) (t : Nat) : (d.delReq t).host = d.host := rfl
@[simp] theorem delReq_board (d : Dev) (t : Nat) : (d.delReq t).board = d.board := rfl
@[simp] theorem delReq_fab (d : Dev) (t : Nat) : (d.delReq t).fab = d.fab := rfl
@[simp] theorem delReq_recorder (d : Dev) (t : Nat) : (d.delReq t).recorder = d.recorder := rfl
@[simp] theorem delReq_cnt (d : Dev) (t : Nat) : (d.delReq t).cnt = d.cnt := rfl
@[simp] theorem delReq_due (d : Dev) (t : Nat) : (d.delReq t).due = d.due := rfl
@[simp] theorem delReq_out (d : Dev) (t : Nat) : (d.delReq t).out = d.out := rfl

/-! ## emit -/

@[simp] theorem emit_time (d : Dev) (o : Out) : (d.emit o).time = d.time := rfl
@[simp] theorem emit_free (d : Dev) (o : Out) : (d.emit o).free = d.free := rfl
@[simp] theorem emit_power (d : Dev) (o : Out) : (d.emit o).power = d.power := rfl
@[simp] theorem emit_chain (d : Dev) (o : Out) : (d.emit o).chain = d.chain := rfl
@[simp] theorem emit_boot (d : Dev) (o : Out) : (d.emit o).boot = d.boot := rfl
@[simp] theorem emit_sec (d : Dev) (o : Out) : (d.emit o).sec = d.sec := rfl
@[simp] theorem emit_plan (d : Dev) (o : Out) : (d.emit o).plan = d.plan := rfl
@[simp] theorem emit_cores (d : Dev) (o : Out) : (d.emit o).cores = d.cores := rfl
@[simp] theorem emit_mem (d : Dev) (o : Out) : (d.emit o).mem = d.mem := rfl
@[simp] theorem emit_xl (d : Dev) (o : Out) : (d.emit o).xl = d.xl := rfl
@[simp] theorem emit_host (d : Dev) (o : Out) : (d.emit o).host = d.host := rfl
@[simp] theorem emit_board (d : Dev) (o : Out) : (d.emit o).board = d.board := rfl
@[simp] theorem emit_fab (d : Dev) (o : Out) : (d.emit o).fab = d.fab := rfl
@[simp] theorem emit_recorder (d : Dev) (o : Out) : (d.emit o).recorder = d.recorder := rfl
@[simp] theorem emit_cnt (d : Dev) (o : Out) : (d.emit o).cnt = d.cnt := rfl
@[simp] theorem emit_due (d : Dev) (o : Out) : (d.emit o).due = d.due := rfl
@[simp] theorem emit_out (d : Dev) (o : Out) : (d.emit o).out = o :: d.out := rfl

/-! ## setChunkPois -/

@[simp] theorem setChunkPois_time (d : Dev) (c : Nat) (v : Bool) : (d.setChunkPois c v).time = d.time := rfl
@[simp] theorem setChunkPois_free (d : Dev) (c : Nat) (v : Bool) : (d.setChunkPois c v).free = d.free := rfl
@[simp] theorem setChunkPois_power (d : Dev) (c : Nat) (v : Bool) : (d.setChunkPois c v).power = d.power := rfl
@[simp] theorem setChunkPois_chain (d : Dev) (c : Nat) (v : Bool) : (d.setChunkPois c v).chain = d.chain := rfl
@[simp] theorem setChunkPois_boot (d : Dev) (c : Nat) (v : Bool) : (d.setChunkPois c v).boot = d.boot := rfl
@[simp] theorem setChunkPois_sec (d : Dev) (c : Nat) (v : Bool) : (d.setChunkPois c v).sec = d.sec := rfl
@[simp] theorem setChunkPois_plan (d : Dev) (c : Nat) (v : Bool) : (d.setChunkPois c v).plan = d.plan := rfl
@[simp] theorem setChunkPois_cores (d : Dev) (c : Nat) (v : Bool) : (d.setChunkPois c v).cores = d.cores := rfl
@[simp] theorem setChunkPois_xl (d : Dev) (c : Nat) (v : Bool) : (d.setChunkPois c v).xl = d.xl := rfl
@[simp] theorem setChunkPois_host (d : Dev) (c : Nat) (v : Bool) : (d.setChunkPois c v).host = d.host := rfl
@[simp] theorem setChunkPois_board (d : Dev) (c : Nat) (v : Bool) : (d.setChunkPois c v).board = d.board := rfl
@[simp] theorem setChunkPois_fab (d : Dev) (c : Nat) (v : Bool) : (d.setChunkPois c v).fab = d.fab := rfl
@[simp] theorem setChunkPois_recorder (d : Dev) (c : Nat) (v : Bool) : (d.setChunkPois c v).recorder = d.recorder := rfl
@[simp] theorem setChunkPois_cnt (d : Dev) (c : Nat) (v : Bool) : (d.setChunkPois c v).cnt = d.cnt := rfl
@[simp] theorem setChunkPois_due (d : Dev) (c : Nat) (v : Bool) : (d.setChunkPois c v).due = d.due := rfl
@[simp] theorem setChunkPois_out (d : Dev) (c : Nat) (v : Bool) : (d.setChunkPois c v).out = d.out := rfl

/-! ## Parts of the memory that its updates leave -/

@[simp] theorem setReq_bytes (d : Dev) (t : Nat) (r : Req) : (d.setReq t r).mem.bytes = d.mem.bytes := rfl
@[simp] theorem setReq_canopy (d : Dev) (t : Nat) (r : Req) : (d.setReq t r).mem.canopy = d.mem.canopy := rfl
@[simp] theorem delReq_bytes (d : Dev) (t : Nat) : (d.delReq t).mem.bytes = d.mem.bytes := rfl
@[simp] theorem delReq_canopy (d : Dev) (t : Nat) : (d.delReq t).mem.canopy = d.mem.canopy := rfl
@[simp] theorem modReq_bytes (d : Dev) (t : Nat) (f : Req → Req) : (d.modReq t f).mem.bytes = d.mem.bytes := rfl
@[simp] theorem modReq_canopy (d : Dev) (t : Nat) (f : Req → Req) : (d.modReq t f).mem.canopy = d.mem.canopy := rfl
@[simp] theorem modTileMem_bytes (d : Dev) (t : Nat) (f : TileMem → TileMem) : (d.modTileMem t f).mem.bytes = d.mem.bytes := rfl
@[simp] theorem modTileMem_canopy (d : Dev) (t : Nat) (f : TileMem → TileMem) : (d.modTileMem t f).mem.canopy = d.mem.canopy := rfl
@[simp] theorem modTileMem_reqs (d : Dev) (t : Nat) (f : TileMem → TileMem) : (d.modTileMem t f).mem.reqs = d.mem.reqs := rfl
@[simp] theorem modBiv_bytes (d : Dev) (p : Nat) (f : BivPort → BivPort) : (d.modBiv p f).mem.bytes = d.mem.bytes := rfl
@[simp] theorem modBiv_canopy (d : Dev) (p : Nat) (f : BivPort → BivPort) : (d.modBiv p f).mem.canopy = d.mem.canopy := rfl
@[simp] theorem modBiv_reqs (d : Dev) (p : Nat) (f : BivPort → BivPort) : (d.modBiv p f).mem.reqs = d.mem.reqs := rfl
@[simp] theorem setChunkPois_bytes (d : Dev) (c : Nat) (v : Bool) : (d.setChunkPois c v).mem.bytes = d.mem.bytes := rfl
@[simp] theorem setChunkPois_canopy (d : Dev) (c : Nat) (v : Bool) : (d.setChunkPois c v).mem.canopy = d.mem.canopy := rfl
@[simp] theorem setChunkPois_reqs (d : Dev) (c : Nat) (v : Bool) : (d.setChunkPois c v).mem.reqs = d.mem.reqs := rfl

/-! ## Entries of tables -/

@[simp] theorem core_modCore_self (d : Dev) (c : Nat) (f : Core → Core) : (d.modCore c f).core c = f (d.core c) := by
  simp [Dev.modCore, Dev.setCore, Dev.core]

@[simp] theorem core_modCore_ne (d : Dev) {b c : Nat} (f : Core → Core) (h : b ≠ c) :
    (d.modCore c f).core b = d.core b := by
  simp [Dev.modCore, Dev.setCore, Dev.core, h]

@[simp] theorem ctx_modCtx_self (d : Dev) (c : Nat) (f : Ctx → Ctx) : (d.modCtx c f).ctx c = f (d.ctx c) := by
  simp [Dev.modCtx, Dev.setCtx, Dev.ctx]

@[simp] theorem ctx_modCtx_ne (d : Dev) {b c : Nat} (f : Ctx → Ctx) (h : b ≠ c) : (d.modCtx c f).ctx b = d.ctx b := by
  simp [Dev.modCtx, Dev.setCtx, Dev.ctx, h]

@[simp] theorem func_modFunc_self (d : Dev) (c : Fn) (f : Func → Func) : (d.modFunc c f).func c = f (d.func c) := by
  simp [Dev.modFunc, Dev.func]

@[simp] theorem func_modFunc_ne (d : Dev) {b c : Fn} (f : Func → Func) (h : b ≠ c) :
    (d.modFunc c f).func b = d.func b := by
  simp [Dev.modFunc, Dev.func, h]

@[simp] theorem port_modPort_self (d : Dev) (c : Nat) (f : Port → Port) : (d.modPort c f).port c = f (d.port c) := by
  simp [Dev.modPort, Dev.port]

@[simp] theorem port_modPort_ne (d : Dev) {b c : Nat} (f : Port → Port) (h : b ≠ c) :
    (d.modPort c f).port b = d.port b := by
  simp [Dev.modPort, Dev.port, h]

@[simp] theorem tileMem_modTileMem_self (d : Dev) (c : Nat) (f : TileMem → TileMem) :
    (d.modTileMem c f).tileMem c = f (d.tileMem c) := by
  simp [Dev.modTileMem, Dev.tileMem]

@[simp] theorem tileMem_modTileMem_ne (d : Dev) {b c : Nat} (f : TileMem → TileMem) (h : b ≠ c) :
    (d.modTileMem c f).tileMem b = d.tileMem b := by
  simp [Dev.modTileMem, Dev.tileMem, h]

@[simp] theorem pitchCnt_modPitchCnt_self (d : Dev) (c : Nat) (f : PitchCount → PitchCount) :
    (d.modPitchCnt c f).pitchCnt c = f (d.pitchCnt c) := by
  simp [Dev.modPitchCnt, Dev.pitchCnt]

@[simp] theorem pitchCnt_modPitchCnt_ne (d : Dev) {b c : Nat} (f : PitchCount → PitchCount) (h : b ≠ c) :
    (d.modPitchCnt c f).pitchCnt b = d.pitchCnt b := by
  simp [Dev.modPitchCnt, Dev.pitchCnt, h]

@[simp] theorem engine_modEngine_self (d : Dev) (c : Nat) (f : Engine → Engine) :
    (d.modEngine c f).engine c = f (d.engine c) := by
  simp [Dev.modEngine, Dev.engine]

@[simp] theorem engine_modEngine_ne (d : Dev) {b c : Nat} (f : Engine → Engine) (h : b ≠ c) :
    (d.modEngine c f).engine b = d.engine b := by
  simp [Dev.modEngine, Dev.engine, h]

@[simp] theorem group?_modGroup_self (d : Dev) (c n : Nat) (f : Group → Group) :
    (d.modGroup c n f).group? c n = (d.group? c n).map f := by
  simp [Dev.modGroup, Dev.group?, Core.group?]

@[simp] theorem group?_modGroup_slot (d : Dev) (c : Nat) {m n : Nat} (f : Group → Group) (h : m ≠ n) :
    (d.modGroup c n f).group? c m = d.group? c m := by
  simp [Dev.modGroup, Dev.group?, Core.group?, h]

@[simp] theorem core_modGroup_ne (d : Dev) {b c : Nat} (n : Nat) (f : Group → Group) (h : b ≠ c) :
    (d.modGroup c n f).core b = d.core b := by
  simp [Dev.modGroup, h]

@[simp] theorem queue_modQueue_self (d : Dev) (c q : Nat) (f : Queue → Queue) :
    (d.modQueue c q f).queue c q = f (d.queue c q) := by
  simp [Dev.modQueue, Dev.queue, Ctx.queue]

@[simp] theorem queue_modQueue_ne (d : Dev) (c : Nat) {p q : Nat} (f : Queue → Queue) (h : p ≠ q) :
    (d.modQueue c q f).queue c p = d.queue c p := by
  simp [Dev.modQueue, Dev.queue, Ctx.queue, h]

@[simp] theorem node?_modNode_self (d : Dev) (n : Nat) (f : Node → Node) :
    (d.modNode n f).node? n = (d.node? n).map f := by
  simp [Dev.modNode, Dev.node?]

@[simp] theorem node?_modNode_ne (d : Dev) {m n : Nat} (f : Node → Node) (h : m ≠ n) :
    (d.modNode n f).node? m = d.node? m := by
  simp [Dev.modNode, Dev.node?, h]

@[simp] theorem desc?_modDesc_self (d : Dev) (n : Nat) (f : Desc → Desc) :
    (d.modDesc n f).desc? n = (d.desc? n).map f := by
  simp [Dev.modDesc, Dev.desc?]

@[simp] theorem desc?_modDesc_ne (d : Dev) {m n : Nat} (f : Desc → Desc) (h : m ≠ n) :
    (d.modDesc n f).desc? m = d.desc? m := by
  simp [Dev.modDesc, Dev.desc?, h]

@[simp] theorem req?_setReq_self (d : Dev) (t : Nat) (r : Req) : (d.setReq t r).req? t = some r := by
  simp [Dev.setReq, Dev.req?]

@[simp] theorem req?_delReq_self (d : Dev) (t : Nat) : (d.delReq t).req? t = none := by
  simp [Dev.delReq, Dev.req?]

@[simp] theorem req?_delReq_ne (d : Dev) {t u : Nat} (h : u ≠ t) : (d.delReq t).req? u = d.req? u := by
  simp [Dev.delReq, Dev.req?, h]

/-! ## Answers -/

@[simp] theorem to_next (s : State) (d : Dev) : s.to d = .next { s with dev := d } := rfl

theorem to_eq_next (s t : State) (d : Dev) : s.to d = .next t ↔ t = { s with dev := d } := by
  simp [State.to, eq_comm]

@[simp] theorem push_pending (s : State) (c : Instr) : (s.push c).pending = c :: s.pending := rfl
@[simp] theorem push_dev (s : State) (c : Instr) : (s.push c).dev = s.dev := rfl
@[simp] theorem idle_pending (s : State) : s.idle.pending = s.pending := by
  unfold State.idle
  dsimp only

theorem step_cons (s : State) (c : Instr) (rest : List Instr) (h : s.pending = c :: rest) :
    step s = exec c { s with pending := rest } := by
  simp [step, h]

/-- What a step can do: a cc passes, or the command in front runs on the rest of the queue. -/
theorem step_cases (s t : State) (h : step s = .next t) :
    (s.pending = [] ∧ t = s.idle)
    ∨ ∃ c rest, s.pending = c :: rest ∧ exec c { s with pending := rest } = .next t := by
  unfold step at h
  cases hp : s.pending with
  | nil => rw [hp] at h; exact .inl ⟨rfl, (Host.Outcome.next.inj h).symm⟩
  | cons c rest => rw [hp] at h; exact .inr ⟨c, rest, rfl, h⟩

end Sys2Proof.Machine
end

