-- ==== Sys2Proof/Laws/Keeps.lean ====
section
/-!
SUPPORT. The relation that nearly every operation satisfies: power and the trim record's voltage stay, and memory keeps its
canonical form. What keeps them keeps the invariant. One lemma per shared operation follows in the files Keeps….
-/

namespace Sys2Proof.Machine
open Sys2Proof

/-- From `d₀` to `d`, power and the trim record's voltage stay, and memory keeps its canonical form. -/
structure Keeps (d₀ d : Dev) : Prop where
  power : d.power = d₀.power
  trim : d.boot.trimMv = d₀.boot.trimMv
  bytes : Memory.wf d₀.mem.bytes = true → Memory.wf d.mem.bytes = true

namespace Keeps

theorem refl (d : Dev) : Keeps d d := ⟨rfl, rfl, id⟩

theorem trans {a b c : Dev} (h : Keeps a b) (k : Keeps b c) : Keeps a c :=
  ⟨k.power.trans h.power, k.trim.trans h.trim, fun w => k.bytes (h.bytes w)⟩

/-- A step of which nothing of the three parts is changed. -/
theorem same {a b c : Dev} (h : Keeps a b) (p : c.power = b.power) (t : c.boot.trimMv = b.boot.trimMv)
    (m : c.mem.bytes = b.mem.bytes) : Keeps a c :=
  ⟨p.trans h.power, t.trans h.trim, fun w => m ▸ h.bytes w⟩

theorem pair {α : Type} {a d : Dev} {p : Dev × α} {x : α} (h : Keeps a p.1) (e : p = (d, x)) : Keeps a d := by
  subst e; exact h

theorem pair₂ {α : Type} {a d : Dev} {p : α × Dev} {x : α} (h : Keeps a p.2) (e : p = (x, d)) : Keeps a d := by
  subst e; exact h

theorem some {a d : Dev} {p : Option Dev} (h : ∀ d, p = Option.some d → Keeps a d) (e : p = Option.some d) :
    Keeps a d := h d e

theorem inv {a b : Dev} (h : Keeps a b) (i : Inv a) : Inv b := by
  obtain ⟨m, p, t⟩ := i
  exact ⟨h.bytes m, h.power ▸ p, by unfold TrimRange; rw [h.power, h.trim]; exact t⟩

end Keeps

variable {d₀ d : Dev}

theorem keeps_modMem (f : Mem → Mem) (hf : Memory.wf d.mem.bytes = true → Memory.wf (f d.mem).bytes = true)
    (h : Keeps d₀ d) : Keeps d₀ (d.modMem f) := ⟨h.power, h.trim, fun w => hf (h.bytes w)⟩

theorem keeps_modMem' (f : Mem → Mem) (hf : (f d.mem).bytes = d.mem.bytes) (h : Keeps d₀ d) : Keeps d₀ (d.modMem f) :=
  h.same rfl rfl hf

theorem keeps_modBoot (f : Boot → Boot) (hf : (f d.boot).trimMv = d.boot.trimMv) (h : Keeps d₀ d) :
    Keeps d₀ (d.modBoot f) := h.same rfl hf rfl


theorem keeps_modChain (f : Chain → Chain) (h : Keeps d₀ d) : Keeps d₀ (d.modChain f) := h.same rfl rfl rfl
theorem keeps_modSec (f : Security → Security) (h : Keeps d₀ d) : Keeps d₀ (d.modSec f) := h.same rfl rfl rfl
theorem keeps_modPlan (f : Plan → Plan) (h : Keeps d₀ d) : Keeps d₀ (d.modPlan f) := h.same rfl rfl rfl
theorem keeps_modXl (f : Xlate → Xlate) (h : Keeps d₀ d) : Keeps d₀ (d.modXl f) := h.same rfl rfl rfl
theorem keeps_modHost (f : HostIf → HostIf) (h : Keeps d₀ d) : Keeps d₀ (d.modHost f) := h.same rfl rfl rfl
theorem keeps_modBoard (f : Board → Board) (h : Keeps d₀ d) : Keeps d₀ (d.modBoard f) := h.same rfl rfl rfl
theorem keeps_modFab (f : Fabric → Fabric) (h : Keeps d₀ d) : Keeps d₀ (d.modFab f) := h.same rfl rfl rfl
theorem keeps_modRec (f : Recorder → Recorder) (h : Keeps d₀ d) : Keeps d₀ (d.modRec f) := h.same rfl rfl rfl
theorem keeps_setCore (c : Nat) (k : Core) (h : Keeps d₀ d) : Keeps d₀ (d.setCore c k) := h.same rfl rfl rfl
theorem keeps_modCore (c : Nat) (f : Core → Core) (h : Keeps d₀ d) : Keeps d₀ (d.modCore c f) := h.same rfl rfl rfl
theorem keeps_setGroup (c n : Nat) (g : Group) (h : Keeps d₀ d) : Keeps d₀ (d.setGroup c n g) := h.same rfl rfl rfl
theorem keeps_modGroup (c n : Nat) (f : Group → Group) (h : Keeps d₀ d) : Keeps d₀ (d.modGroup c n f) := h.same rfl rfl rfl
theorem keeps_modSeq (c : Nat) (f : Seq → Seq) (h : Keeps d₀ d) : Keeps d₀ (d.modSeq c f) := h.same rfl rfl rfl
theorem keeps_setCtx (c : Nat) (x : Ctx) (h : Keeps d₀ d) : Keeps d₀ (d.setCtx c x) := h.same rfl rfl rfl
theorem keeps_modCtx (c : Nat) (f : Ctx → Ctx) (h : Keeps d₀ d) : Keeps d₀ (d.modCtx c f) := h.same rfl rfl rfl
theorem keeps_modQueue (c q : Nat) (f : Queue → Queue) (h : Keeps d₀ d) : Keeps d₀ (d.modQueue c q f) := h.same rfl rfl rfl
theorem keeps_modFunc (c : Fn) (f : Func → Func) (h : Keeps d₀ d) : Keeps d₀ (d.modFunc c f) := h.same rfl rfl rfl
theorem keeps_modPort (c : Nat) (f : Port → Port) (h : Keeps d₀ d) : Keeps d₀ (d.modPort c f) := h.same rfl rfl rfl
theorem keeps_modTileMem (c : Nat) (f : TileMem → TileMem) (h : Keeps d₀ d) : Keeps d₀ (d.modTileMem c f) := h.same rfl rfl rfl
theorem keeps_modBiv (c : Nat) (f : BivPort → BivPort) (h : Keeps d₀ d) : Keeps d₀ (d.modBiv c f) := h.same rfl rfl rfl
theorem keeps_modPitchCnt (c : Nat) (f : PitchCount → PitchCount) (h : Keeps d₀ d) : Keeps d₀ (d.modPitchCnt c f) := h.same rfl rfl rfl
theorem keeps_modPitchBoard (c : Nat) (f : PitchBoard → PitchBoard) (h : Keeps d₀ d) : Keeps d₀ (d.modPitchBoard c f) := h.same rfl rfl rfl
theorem keeps_modEngine (c : Nat) (f : Engine → Engine) (h : Keeps d₀ d) : Keeps d₀ (d.modEngine c f) := h.same rfl rfl rfl
theorem keeps_modNode (c : Nat) (f : Node → Node) (h : Keeps d₀ d) : Keeps d₀ (d.modNode c f) := h.same rfl rfl rfl
theorem keeps_modGraph (c : Nat) (f : Graph → Graph) (h : Keeps d₀ d) : Keeps d₀ (d.modGraph c f) := h.same rfl rfl rfl
theorem keeps_modDesc (c : Nat) (f : Desc → Desc) (h : Keeps d₀ d) : Keeps d₀ (d.modDesc c f) := h.same rfl rfl rfl
theorem keeps_setReq (c : Nat) (r : Req) (h : Keeps d₀ d) : Keeps d₀ (d.setReq c r) := h.same rfl rfl rfl
theorem keeps_modReq (c : Nat) (f : Req → Req) (h : Keeps d₀ d) : Keeps d₀ (d.modReq c f) := h.same rfl rfl rfl
theorem keeps_delReq (c : Nat) (h : Keeps d₀ d) : Keeps d₀ (d.delReq c) := h.same rfl rfl rfl
theorem keeps_emit (o : Out) (h : Keeps d₀ d) : Keeps d₀ (d.emit o) := h.same rfl rfl rfl
theorem keeps_setChunkPois (c : Nat) (v : Bool) (h : Keeps d₀ d) : Keeps d₀ (d.setChunkPois c v) := h.same rfl rfl rfl

theorem keeps_takeFree (h : Keeps d₀ d) : Keeps d₀ d.takeFree.2 := h.same rfl rfl rfl

theorem keeps_foldl {α : Type} (f : Dev → α → Dev) (l : List α) (h : Keeps d₀ d)
    (hf : ∀ e x, Keeps d₀ e → Keeps d₀ (f e x)) : Keeps d₀ (l.foldl f d) := by
  induction l generalizing d with
  | nil => exact h
  | cons x l ih => exact ih (hf d x h)

theorem keeps_forEach {α : Type} (f : Dev → α → Dev) (l : List α) (h : Keeps d₀ d)
    (hf : ∀ e x, Keeps d₀ e → Keeps d₀ (f e x)) : Keeps d₀ (d.forEach l f) := keeps_foldl f l h hf

theorem keeps_foldl_pair {α β : Type} (f : Dev × β → α → Dev × β) (l : List α) (p : Dev × β) (h : Keeps d₀ p.1)
    (hf : ∀ e x, Keeps d₀ e.1 → Keeps d₀ (f e x).1) : Keeps d₀ (l.foldl f p).1 := by
  induction l generalizing p with
  | nil => exact h
  | cons x l ih => exact ih _ (hf p x h)

theorem keeps_ite {c : Prop} [Decidable c] {a b : Dev} (h : c → Keeps d₀ a) (k : ¬c → Keeps d₀ b) :
    Keeps d₀ (if c then a else b) := by
  by_cases hc : c
  · rw [if_pos hc]; exact h hc
  · rw [if_neg hc]; exact k hc

/-- An answer whose module keeps. -/
theorem keeps_to {s t : State} (e : s.to d = .next t) (h : Keeps d₀ d) : Keeps d₀ t.dev := by
  cases e; exact h

end Sys2Proof.Machine
end

