-- ==== Sys2Proof/Laws/KeepsOps.lean ====
section
/-!
SUPPORT. The operations of Machine/Ops.lean keep power, trim record and the canonical form of memory.
-/

namespace Sys2Proof.Machine
open Sys2Proof

variable {d₀ d : Dev}

theorem keeps_hostSend (o : Out) (h : Keeps d₀ d) :
    Keeps d₀ (Dev.hostSend d o) := by
  unfold Dev.hostSend
  try dsimp only
  repeat'
    first
      | assumption | with_reducible apply keeps_emit | with_reducible apply keeps_modHost | intro _ | split

theorem keeps_msix (f vec : Nat) (h : Keeps d₀ d) :
    Keeps d₀ (Dev.msix d f vec) := by
  unfold Dev.msix
  try dsimp only
  repeat'
    first
      | assumption | with_reducible apply keeps_modFunc | with_reducible apply keeps_hostSend | intro _ | split

theorem keeps_cmdVector (f : Nat) (h : Keeps d₀ d) :
    Keeps d₀ (Dev.cmdVector d f) := by
  unfold Dev.cmdVector
  try dsimp only
  repeat'
    first
      | assumption | with_reducible apply keeps_msix | intro _ | split

theorem keeps_faultVector (f : Nat) (h : Keeps d₀ d) :
    Keeps d₀ (Dev.faultVector d f) := by
  unfold Dev.faultVector
  try dsimp only
  repeat'
    first
      | assumption | with_reducible apply keeps_msix | intro _ | split

theorem keeps_count (p : Option Nat) (ev n : Nat) (id : Option Ident) (h : Keeps d₀ d) :
    Keeps d₀ (Dev.count d p ev n id) := by
  unfold Dev.count
  try dsimp only
  repeat'
    first
      | assumption | with_reducible apply keeps_modPitchCnt | intro _ | split

theorem keeps_countDispatch (p : Nat) (id : Option Ident) (h : Keeps d₀ d) :
    Keeps d₀ (Dev.countDispatch d p id) := by
  unfold Dev.countDispatch
  try dsimp only
  repeat'
    first
      | assumption | with_reducible apply keeps_modPitchCnt | with_reducible apply keeps_count | intro _ | split

theorem keeps_faultFrame (e : Event) (h : Keeps d₀ d) :
    Keeps d₀ (Dev.faultFrame d e) := by
  unfold Dev.faultFrame
  try dsimp only
  repeat'
    first
      | assumption | with_reducible apply keeps_modChain | intro _ | split

theorem keeps_event (kind unit detail : Nat) (h : Keeps d₀ d) :
    Keeps d₀ (Dev.event d kind unit detail) := by
  unfold Dev.event
  try dsimp only
  repeat'
    first
      | assumption | with_reducible apply keeps_faultFrame | with_reducible apply keeps_modRec | intro _ | split

theorem keeps_writeChunked (a : Nat) (bs : List Byte) (pois : Bool) (h : Keeps d₀ d) :
    Keeps d₀ (Dev.writeChunked d a bs pois) := by
  unfold Dev.writeChunked
  try dsimp only
  repeat'
    first
      | assumption | with_reducible refine keeps_forEach _ _ ?_ ?_
      | (with_reducible refine keeps_modMem' _ ?_ ?_; exact rfl) | with_reducible apply keeps_setChunkPois
      | with_reducible refine keeps_modMem _ ?_ ?_ | exact wf_setBytes _ _ _ ‹_› | exact wf_clearBytes _ _ _ ‹_›
      | intro _ | split

end Sys2Proof.Machine
end

