-- ==== Sys2Proof/Laws/KeepsHome.lean ====
section
/-!
SUPPORT. The operations of Machine/Home.lean keep power, trim record and the canonical form of memory.
-/

namespace Sys2Proof.Machine
open Sys2Proof

variable {d₀ d : Dev}

theorem keeps_setSecPois (sector : Nat) (v : Bool) (h : Keeps d₀ d) :
    Keeps d₀ (Dev.setSecPois d sector v) := by
  unfold Dev.setSecPois
  try dsimp only
  repeat'
    first
      | assumption | with_reducible apply keeps_setChunkPois | intro _ | split

theorem keeps_bivTimeouts (n k : Nat) (h : Keeps d₀ d) :
    Keeps d₀ (Dev.bivTimeouts d n k) := by
  unfold Dev.bivTimeouts
  try dsimp only
  repeat'
    first
      | assumption | with_reducible apply keeps_modBiv | intro _ | split

theorem keeps_memWriteLine (line : Nat) (v : LineView) (secs : List Nat) (p : Option Nat) (id : Option Ident) (h : Keeps d₀ d) :
    Keeps d₀ (Dev.memWriteLine d line v secs p id) := by
  unfold Dev.memWriteLine
  try dsimp only
  repeat'
    first
      | assumption | with_reducible refine keeps_forEach _ _ ?_ ?_
      | (with_reducible refine keeps_modMem' _ ?_ ?_; exact rfl) | with_reducible apply keeps_bivTimeouts
      | with_reducible apply keeps_setSecPois | with_reducible apply keeps_modBiv | with_reducible apply keeps_count
      | with_reducible refine keeps_modMem _ ?_ ?_ | exact wf_setBytes _ _ _ ‹_› | exact wf_clearBytes _ _ _ ‹_›
      | intro _ | split

theorem keeps_canPut (k : Nat) (v : LineView) (dirty use : Bool) (h : Keeps d₀ d) :
    Keeps d₀ (Dev.canPut d k v dirty use) := by
  unfold Dev.canPut
  try dsimp only
  repeat'
    first
      | assumption | (with_reducible refine keeps_modMem' _ ?_ ?_; exact rfl)
      | with_reducible refine keeps_modMem _ ?_ ?_ | exact wf_setBytes _ _ _ ‹_› | exact wf_clearBytes _ _ _ ‹_›
      | intro _ | split

theorem keeps_canDrop (k : Nat) (h : Keeps d₀ d) :
    Keeps d₀ (Dev.canDrop d k) := by
  unfold Dev.canDrop
  try dsimp only
  repeat'
    first
      | assumption | (with_reducible refine keeps_modMem' _ ?_ ?_; exact rfl)
      | with_reducible refine keeps_modMem _ ?_ ?_ | exact wf_setBytes _ _ _ ‹_› | exact wf_clearBytes _ _ _ ‹_›
      | intro _ | split

theorem keeps_canEvict (k : Nat) (h : Keeps d₀ d) :
    Keeps d₀ (Dev.canEvict d k) := by
  unfold Dev.canEvict
  try dsimp only
  repeat'
    first
      | assumption | with_reducible apply keeps_canDrop | with_reducible apply keeps_memWriteLine | intro _ | split

theorem keeps_canAlloc (keys : List Nat) (line : Nat) (v : LineView) (dirty : Bool) (h : Keeps d₀ d) :
    Keeps d₀ (Dev.canAlloc d keys line v dirty) := by
  unfold Dev.canAlloc
  try dsimp only
  repeat'
    first
      | assumption | (with_reducible refine keeps_modMem' _ ?_ ?_; exact rfl) | with_reducible apply keeps_canEvict
      | with_reducible refine keeps_modMem _ ?_ ?_ | exact wf_setBytes _ _ _ ‹_› | exact wf_clearBytes _ _ _ ‹_›
      | intro _ | split

theorem keeps_answer (tag : Nat) (resp : List Byte) (pois : List Nat) (olds : List (Nat × W64)) (h : Keeps d₀ d) :
    Keeps d₀ (Dev.answer d tag resp pois olds) := by
  unfold Dev.answer
  try dsimp only
  repeat'
    first
      | assumption | with_reducible apply keeps_modReq | with_reducible apply keeps_modCore | intro _ | split

theorem keeps_countErr (corrected : Bool) (p : Option Nat) (h : Keeps d₀ d) :
    Keeps d₀ (Dev.countErr d corrected p) := by
  unfold Dev.countErr
  try dsimp only
  repeat'
    first
      | assumption | with_reducible apply keeps_count | intro _ | split

theorem keeps_quarantine (pg : Nat) (h : Keeps d₀ d) :
    Keeps d₀ (Dev.quarantine d pg) := by
  unfold Dev.quarantine
  try dsimp only
  repeat'
    first
      | assumption | (with_reducible refine keeps_modMem' _ ?_ ?_; exact rfl) | with_reducible apply keeps_modTileMem
      | with_reducible apply keeps_event | with_reducible refine keeps_modMem _ ?_ ?_ | exact wf_setBytes _ _ _ ‹_›
      | exact wf_clearBytes _ _ _ ‹_› | intro _ | split

theorem keeps_sectorUe (sector : Nat) (h : Keeps d₀ d) :
    Keeps d₀ (Dev.sectorUe d sector) := by
  unfold Dev.sectorUe
  try dsimp only
  repeat'
    first
      | assumption | with_reducible apply keeps_modTileMem | with_reducible apply keeps_event
      | with_reducible apply keeps_countErr | intro _ | split

theorem keeps_sectorCe (sector errs : Nat) (h : Keeps d₀ d) :
    Keeps d₀ (Dev.sectorCe d sector errs) := by
  unfold Dev.sectorCe
  try dsimp only
  repeat'
    first
      | assumption | (with_reducible refine keeps_modMem' _ ?_ ?_; exact rfl) | with_reducible apply keeps_modTileMem
      | with_reducible apply keeps_event | with_reducible apply keeps_countErr
      | with_reducible refine keeps_modMem _ ?_ ?_ | exact wf_setBytes _ _ _ ‹_› | exact wf_clearBytes _ _ _ ‹_›
      | intro _ | split

theorem keeps_readSector (sector err : Nat) (h : Keeps d₀ d) :
    Keeps d₀ (Dev.readSector d sector err).1 := by
  unfold Dev.readSector
  try dsimp only
  repeat'
    first
      | assumption | (with_reducible refine keeps_modMem' _ ?_ ?_; exact rfl) | with_reducible apply keeps_sectorCe
      | with_reducible apply keeps_sectorUe | with_reducible refine keeps_modMem _ ?_ ?_ | exact wf_setBytes _ _ _ ‹_›
      | exact wf_clearBytes _ _ _ ‹_› | intro _ | split
  · exact (keeps_sectorUe _ (keeps_modMem' _ rfl h)).same rfl rfl rfl
  · exact h.same rfl rfl rfl

theorem keeps_send (r : Req) (h : Keeps d₀ d) :
    Keeps d₀ (Dev.send d r).1 := h.same rfl rfl rfl

theorem keeps_repairReads (t : Nat) (h : Keeps d₀ d) :
    Keeps d₀ (Dev.repairReads d t) := by
  unfold Dev.repairReads
  split
  · exact h
  · dsimp only
    split
    · exact keeps_modMem' _ rfl h
    · exact keeps_forEach _ _ (keeps_modMem' _ rfl h) fun _ _ he => keeps_send _ he

theorem keeps_startRepair (pg : Nat) (held : List Nat) (h : Keeps d₀ d) :
    Keeps d₀ (Dev.startRepair d pg held) := by
  unfold Dev.startRepair
  try dsimp only
  repeat'
    first
      | assumption | with_reducible apply keeps_modTileMem | with_reducible apply keeps_repairReads | intro _ | split

theorem keeps_quarantineOnUe (line : Nat) (ue : Bool) (h : Keeps d₀ d) :
    Keeps d₀ (Dev.quarantineOnUe d line ue) := by
  unfold Dev.quarantineOnUe
  try dsimp only
  repeat'
    first
      | assumption | with_reducible apply keeps_quarantine | intro _ | split

theorem keeps_serveWaiting (line : Nat) (acc : Dev × LineView × Bool) (t : Nat) (h : Keeps d₀ acc.1) :
    Keeps d₀ (serveWaiting line acc t).1 := by
  unfold serveWaiting
  split
  · exact h
  · split
    · exact h
    · exact keeps_answer _ _ _ _ h

theorem keeps_deliverLine (line : Nat) (v : LineView) (tags : List Nat) (h : Keeps d₀ d) :
    Keeps d₀ (Dev.deliverLine d line v tags) := by
  have hx : Keeps d₀ (tags.foldl (serveWaiting line) (d, v, false)).1 :=
    keeps_foldl_pair _ _ _ h fun _ _ he => keeps_serveWaiting _ _ _ he
  unfold Dev.deliverLine
  dsimp only
  repeat'
    first
      | exact hx | exact keeps_canAlloc _ _ _ _ hx | exact keeps_memWriteLine _ _ _ _ _ hx | split

theorem keeps_leavePort (f : Nat × List Nat) (h : Keeps d₀ d) :
    Keeps d₀ (Dev.leavePort d f) := by
  unfold Dev.leavePort
  try dsimp only
  repeat'
    first
      | assumption | (with_reducible refine keeps_modMem' _ ?_ ?_; exact rfl)
      | with_reducible refine keeps_modMem _ ?_ ?_ | exact wf_setBytes _ _ _ ‹_› | exact wf_clearBytes _ _ _ ‹_›
      | intro _ | split

theorem keeps_portReadDone (line err0 err1 : Nat) (h : Keeps d₀ d) :
    Keeps d₀ (Dev.portReadDone d line err0 err1) := by
  unfold Dev.portReadDone
  try dsimp only
  repeat'
    first
      | assumption | with_reducible apply keeps_leavePort | with_reducible apply keeps_count
      | with_reducible apply keeps_deliverLine | with_reducible apply keeps_readSector
      | with_reducible apply keeps_startRepair | with_reducible apply keeps_quarantineOnUe
      | (with_reducible refine Keeps.pair ?_ ‹Dev.readSector _ _ _ = _›; with_reducible apply keeps_readSector)
      | intro _ | split

theorem keeps_bivResponse (line : Nat) (pois0 pois1 : Bool) (h : Keeps d₀ d) :
    Keeps d₀ (Dev.bivResponse d line pois0 pois1) := by
  unfold Dev.bivResponse
  try dsimp only
  repeat'
    first
      | assumption | (with_reducible refine keeps_modMem' _ ?_ ?_; exact rfl) | with_reducible apply keeps_count
      | with_reducible apply keeps_modBiv | with_reducible apply keeps_deliverLine
      | with_reducible refine keeps_modMem _ ?_ ?_ | exact wf_setBytes _ _ _ ‹_› | exact wf_clearBytes _ _ _ ‹_›
      | intro _ | split

theorem keeps_startFetch (tag line : Nat) (h : Keeps d₀ d) :
    Keeps d₀ (Dev.startFetch d tag line) := by
  unfold Dev.startFetch
  try dsimp only
  repeat'
    first
      | assumption | (with_reducible refine keeps_modMem' _ ?_ ?_; exact rfl) | with_reducible apply keeps_modReq
      | with_reducible apply keeps_deliverLine | with_reducible refine keeps_modMem _ ?_ ?_
      | exact wf_setBytes _ _ _ ‹_› | exact wf_clearBytes _ _ _ ‹_› | intro _ | split

theorem keeps_canEcc (k : Nat) (sec : Option Nat) (ecc : EccObs) (h : Keeps d₀ d) :
    Keeps d₀ (Dev.canEcc d k sec ecc).1 := by
  unfold Dev.canEcc
  try dsimp only
  repeat'
    first
      | assumption | (with_reducible refine keeps_modMem' _ ?_ ?_; exact rfl) | with_reducible apply keeps_modTileMem
      | with_reducible apply keeps_event | with_reducible apply keeps_countErr | with_reducible apply keeps_canDrop
      | with_reducible apply keeps_takeFree
      | (with_reducible refine Keeps.pair₂ ?_ ‹Dev.takeFree _ = _›; with_reducible apply keeps_takeFree)
      | with_reducible refine keeps_modMem _ ?_ ?_ | exact wf_setBytes _ _ _ ‹_› | exact wf_clearBytes _ _ _ ‹_›
      | intro _ | split

theorem keeps_homeAccess (tag : Nat) (line : Nat) (r : Req) (ecc : EccObs) (h : Keeps d₀ d) :
    Keeps d₀ (Dev.homeAccess d tag line r ecc) := by
  unfold Dev.homeAccess
  try dsimp only
  repeat'
    first
      | assumption | (with_reducible refine keeps_modMem' _ ?_ ?_; exact rfl) | with_reducible apply keeps_startRepair
      | with_reducible apply keeps_count | with_reducible apply keeps_modReq | with_reducible apply keeps_canEcc
      | with_reducible apply keeps_startFetch | with_reducible apply keeps_canPut | with_reducible apply keeps_answer
      | with_reducible apply keeps_memWriteLine | with_reducible apply keeps_canAlloc
      | (with_reducible refine Keeps.pair ?_ ‹Dev.canEcc _ _ _ _ = _›; with_reducible apply keeps_canEcc)
      | with_reducible refine keeps_modMem _ ?_ ?_ | exact wf_setBytes _ _ _ ‹_› | exact wf_clearBytes _ _ _ ‹_›
      | intro _ | split

theorem keeps_beginRepairs (pages : List Nat) (h : Keeps d₀ d) :
    Keeps d₀ (Dev.beginRepairs d pages) := by
  unfold Dev.beginRepairs
  try dsimp only
  repeat'
    first
      | assumption | with_reducible refine keeps_forEach _ _ ?_ ?_ | with_reducible apply keeps_startRepair | intro _
      | split

theorem keeps_meetSector (s : Nat) (h : Keeps d₀ d) :
    Keeps d₀ (Dev.meetSector d s) := by
  unfold Dev.meetSector
  try dsimp only
  repeat'
    first
      | assumption | with_reducible apply keeps_sectorCe | with_reducible apply keeps_sectorUe
      | with_reducible apply keeps_quarantineOnUe | intro _ | split

theorem keeps_endFetch (line : Nat) (h : Keeps d₀ d) :
    Keeps d₀ (Dev.endFetch d line) := by
  unfold Dev.endFetch
  try dsimp only
  repeat'
    first
      | assumption | with_reducible apply keeps_bivResponse | with_reducible apply keeps_portReadDone | intro _
      | split

theorem keeps_readEcc (a n : Nat) (seen : EccSeen) (h : Keeps d₀ d) :
    Keeps d₀ (Dev.readEcc d a n seen) := by
  unfold Dev.readEcc
  try dsimp only
  repeat'
    first
      | assumption | with_reducible refine keeps_forEach _ _ ?_ ?_ | with_reducible apply keeps_canEcc
      | with_reducible apply keeps_setSecPois
      | (with_reducible refine Keeps.pair ?_ ‹Dev.canEcc _ _ _ _ = _›; with_reducible apply keeps_canEcc) | intro _
      | split

theorem keeps_passRead (a n : Nat) (p : Option Nat) (id : Option Ident) (h : Keeps d₀ d) :
    Keeps d₀ (Dev.passRead d a n p id) := by
  unfold Dev.passRead
  try dsimp only
  repeat'
    first
      | assumption | with_reducible refine keeps_forEach _ _ ?_ ?_ | with_reducible apply keeps_count
      | with_reducible apply keeps_modBiv | with_reducible apply keeps_meetSector | intro _ | split

theorem keeps_writeLineThrough (line : Nat) (bs : List (Nat × Byte)) (ps : List Nat) (p : Option Nat) (id : Option Ident) (h : Keeps d₀ d) :
    Keeps d₀ (Dev.writeLineThrough d line bs ps p id) := by
  unfold Dev.writeLineThrough
  try dsimp only
  repeat'
    first
      | assumption | with_reducible refine keeps_forEach _ _ ?_ ?_ | with_reducible apply keeps_endFetch
      | with_reducible apply keeps_count | with_reducible apply keeps_canPut | with_reducible apply keeps_meetSector
      | with_reducible apply keeps_memWriteLine | intro _ | split

theorem keeps_noteFlags (c off n : Nat) (h : Keeps d₀ d) :
    Keeps d₀ (Dev.noteFlags d c off n) := by
  unfold Dev.noteFlags
  try dsimp only
  repeat'
    first
      | assumption | with_reducible refine keeps_forEach _ _ ?_ ?_ | with_reducible apply keeps_modCore | intro _
      | split

theorem keeps_noteFlagBytes (a : Nat) (bs : List (Nat × Byte)) (h : Keeps d₀ d) :
    Keeps d₀ (Dev.noteFlagBytes d a bs) := by
  unfold Dev.noteFlagBytes
  try dsimp only
  repeat'
    first
      | assumption | with_reducible refine keeps_forEach _ _ ?_ ?_ | with_reducible apply keeps_noteFlags | intro _
      | split

theorem keeps_writeMem (a : Nat) (bs : List (Nat × Byte)) (ps : List Nat) (p : Option Nat) (id : Option Ident) (h : Keeps d₀ d) :
    Keeps d₀ (Dev.writeMem d a bs ps p id) := by
  unfold Dev.writeMem
  try dsimp only
  repeat'
    first
      | assumption | with_reducible refine keeps_forEach _ _ ?_ ?_ | with_reducible refine keeps_foldl _ _ ?_ ?_
      | (with_reducible refine keeps_modMem' _ ?_ ?_; exact rfl) | with_reducible apply keeps_writeLineThrough
      | with_reducible apply keeps_noteFlagBytes | with_reducible apply keeps_setChunkPois
      | with_reducible refine keeps_modMem _ ?_ ?_ | exact wf_foldl _ (fun m b hm => wf_setByte m _ _ hm) _ _ ‹_› | exact wf_clearBytes _ _ _ ‹_›
      | intro _ | split

theorem keeps_performNow (r : Req) (h : Keeps d₀ d) :
    Keeps d₀ (Dev.performNow d r) := by
  unfold Dev.performNow
  try dsimp only
  repeat'
    first
      | assumption | with_reducible refine keeps_forEach _ _ ?_ ?_ | with_reducible apply keeps_endFetch
      | with_reducible apply keeps_count | with_reducible apply keeps_canPut | with_reducible apply keeps_meetSector
      | with_reducible apply keeps_memWriteLine | with_reducible apply keeps_canAlloc | intro _ | split

end Sys2Proof.Machine
end

