-- ==== Sys2Proof/Laws/PerInstr.lean ====
section
/-!
SUPPORT. Statements about every command as syntax, one lemma a constructor. `Row`: the opcode table gives the row no bits,
so that no word, of whatever length, spells the command.
-/

namespace Sys2Proof.Laws.Row
open Sys2Proof

def Statement (i : Instr) : Prop := ∀ nbits w : Nat, decodeTableWord nbits w ≠ some i

theorem regWrite (fn : Fn) (off width : Nat) (v : W64) : Statement (.regWrite fn off width v) := fun _ _ h => nomatch h
theorem rcRead (fn : Fn) (off width : Nat) : Statement (.rcRead fn off width) := fun _ _ h => nomatch h
theorem cmdHalfWrite (fn : Fn) (reg : CmdReg) (lo : W32) : Statement (.cmdHalfWrite fn reg lo) := fun _ _ h => nomatch h
theorem ifverSelWrite (fn : Fn) (v : W32) : Statement (.ifverSelWrite fn v) := fun _ _ h => nomatch h
theorem pwrEnAssert : Statement (.pwrEnAssert) := fun _ _ h => nomatch h
theorem railRegulated : Statement (.railRegulated) := fun _ _ h => nomatch h
theorem pwrEnDeassert : Statement (.pwrEnDeassert) := fun _ _ h => nomatch h
theorem vinLoss : Statement (.vinLoss) := fun _ _ h => nomatch h
theorem railFault : Statement (.railFault) := fun _ _ h => nomatch h
theorem thermTrip : Statement (.thermTrip) := fun _ _ h => nomatch h
theorem tempWarning (die : Nat) (celsius : Int) : Statement (.tempWarning die celsius) := fun _ _ h => nomatch h
theorem porRelease (straps : BitVec 5) (mid : BitVec 2) : Statement (.porRelease straps mid) := fun _ _ h => nomatch h
theorem strapOutputEnable : Statement (.strapOutputEnable) := fun _ _ h => nomatch h
theorem mainPllUnlock : Statement (.mainPllUnlock) := fun _ _ h => nomatch h
theorem pciePllUnlock : Statement (.pciePllUnlock) := fun _ _ h => nomatch h
theorem pciePllRelock : Statement (.pciePllRelock) := fun _ _ h => nomatch h
theorem perstAssert : Statement (.perstAssert) := fun _ _ h => nomatch h
theorem perstDeassert : Statement (.perstDeassert) := fun _ _ h => nomatch h
theorem configRequest (fn : Fn) (off : Nat) : Statement (.configRequest fn off) := fun _ _ h => nomatch h
theorem vfEnableWrite (v : Bool) : Statement (.vfEnableWrite v) := fun _ _ h => nomatch h
theorem chnInHigh : Statement (.chnInHigh) := fun _ _ h => nomatch h
theorem headTokenStart : Statement (.headTokenStart) := fun _ _ h => nomatch h
theorem chnPulseRx (widthNs : Nat) : Statement (.chnPulseRx widthNs) := fun _ _ h => nomatch h
theorem levelFault : Statement (.levelFault) := fun _ _ h => nomatch h
theorem tokenFrameRx (f : ChainFrame) : Statement (.tokenFrameRx f) := fun _ _ h => nomatch h
theorem tokenSend : Statement (.tokenSend) := fun _ _ h => nomatch h
theorem enumTimeout : Statement (.enumTimeout) := fun _ _ h => nomatch h
theorem sideFrameRx (f : ChainFrame) : Statement (.sideFrameRx f) := fun _ _ h => nomatch h
theorem faultFrameRx (f : ChainFrame) : Statement (.faultFrameRx f) := fun _ _ h => nomatch h
theorem downFrameRx (f : ChainFrame) : Statement (.downFrameRx f) := fun _ _ h => nomatch h
theorem chnFrameSend : Statement (.chnFrameSend) := fun _ _ h => nomatch h
theorem chnBufferedForward : Statement (.chnBufferedForward) := fun _ _ h => nomatch h
theorem chnHeartbeatSend : Statement (.chnHeartbeatSend) := fun _ _ h => nomatch h
theorem upstreamLost : Statement (.upstreamLost) := fun _ _ h => nomatch h
theorem upLostClear : Statement (.upLostClear) := fun _ _ h => nomatch h
theorem serviceTimeout : Statement (.serviceTimeout) := fun _ _ h => nomatch h
theorem stewardRom (flashAnswers : Bool) : Statement (.stewardRom flashAnswers) := fun _ _ h => nomatch h
theorem firmwareImage (flashAnswers : Bool) : Statement (.firmwareImage flashAnswers) := fun _ _ h => nomatch h
theorem measuredBoot : Statement (.measuredBoot) := fun _ _ h => nomatch h
theorem sramRepairBist (r : BistResult) : Statement (.sramRepairBist r) := fun _ _ h => nomatch h
theorem ageingMarginReplan (readings : List (List Int)) : Statement (.ageingMarginReplan readings) := fun _ _ h => nomatch h
theorem linkTraining (ports : List TrainResult) (biv : List BivTrain) : Statement (.linkTraining ports biv) := fun _ _ h => nomatch h
theorem sitePlanLoad (readable : Bool) : Statement (.sitePlanLoad readable) := fun _ _ h => nomatch h
theorem hostVisible : Statement (.hostVisible) := fun _ _ h => nomatch h
theorem stwRecovGo (fn : Fn) (v : W32) : Statement (.stwRecovGo fn v) := fun _ _ h => nomatch h
theorem recovCheckDone : Statement (.recovCheckDone) := fun _ _ h => nomatch h
theorem recovProgramDone : Statement (.recovProgramDone) := fun _ _ h => nomatch h
theorem ageingRemeasure (readings : List Int) : Statement (.ageingRemeasure readings) := fun _ _ h => nomatch h
theorem plnStageWrite (fn : Fn) (off width : Nat) (v : W64) : Statement (.plnStageWrite fn off width v) := fun _ _ h => nomatch h
theorem plnCommit (fn : Fn) (v : W32) : Statement (.plnCommit fn v) := fun _ _ h => nomatch h
theorem stagedWrite (fn : Fn) (off width : Nat) (v : W64) : Statement (.stagedWrite fn off width v) := fun _ _ h => nomatch h
theorem rangeTableCommit (fn : Fn) (cid : Nat) (v : W32) : Statement (.rangeTableCommit fn cid v) := fun _ _ h => nomatch h
theorem queueRingCommit (fn : Fn) (cid q : Nat) (v : W32) : Statement (.queueRingCommit fn cid q v) := fun _ _ h => nomatch h
theorem edgeSpillCommit (fn : Fn) (cid : Nat) (v : W32) : Statement (.edgeSpillCommit fn cid v) := fun _ _ h => nomatch h
theorem roundingSeedCommit (fn : Fn) (core : Nat) (v : W32) : Statement (.roundingSeedCommit fn core v) := fun _ _ h => nomatch h
theorem pcSamplesCommit (fn : Fn) (pitch : Nat) (v : W32) : Statement (.pcSamplesCommit fn pitch v) := fun _ _ h => nomatch h
theorem watchpointCommit (fn : Fn) (pitch n : Nat) (v : W64) : Statement (.watchpointCommit fn pitch n v) := fun _ _ h => nomatch h
theorem counterCommit (fn : Fn) (pitch n : Nat) (v : W64) : Statement (.counterCommit fn pitch n v) := fun _ _ h => nomatch h
theorem linkKeyLoad (fn : Fn) (port : Nat) (v : W32) : Statement (.linkKeyLoad fn port v) := fun _ _ h => nomatch h
theorem linkKeyUse (fn : Fn) (port : Nat) (v : W32) : Statement (.linkKeyUse fn port v) := fun _ _ h => nomatch h
theorem linkKeyModeSet (fn : Fn) (port : Nat) (v : W32) : Statement (.linkKeyModeSet fn port v) := fun _ _ h => nomatch h
theorem recorderWindowCommit (fn : Fn) (v : W32) : Statement (.recorderWindowCommit fn v) := fun _ _ h => nomatch h
theorem evrScanDone : Statement (.evrScanDone) := fun _ _ h => nomatch h
theorem groupPlace (core : Nat) : Statement (.groupPlace core) := fun _ _ h => nomatch h
theorem groupEnd (core slot : Nat) : Statement (.groupEnd core slot) := fun _ _ h => nomatch h
theorem resultWriteback (core slot : Nat) : Statement (.resultWriteback core slot) := fun _ _ h => nomatch h
theorem nop (core slot : Nat) : Statement (.nop core slot) := fun _ _ h => nomatch h
theorem mov (core slot : Nat) : Statement (.mov core slot) := fun _ _ h => nomatch h
theorem movi (core slot : Nat) : Statement (.movi core slot) := fun _ _ h => nomatch h
theorem sel (core slot : Nat) : Statement (.sel core slot) := fun _ _ h => nomatch h
theorem iadd (core slot : Nat) : Statement (.iadd core slot) := fun _ _ h => nomatch h
theorem isub (core slot : Nat) : Statement (.isub core slot) := fun _ _ h => nomatch h
theorem imul (core slot : Nat) : Statement (.imul core slot) := fun _ _ h => nomatch h
theorem imulh (core slot : Nat) : Statement (.imulh core slot) := fun _ _ h => nomatch h
theorem imad (core slot : Nat) : Statement (.imad core slot) := fun _ _ h => nomatch h
theorem imin (core slot : Nat) : Statement (.imin core slot) := fun _ _ h => nomatch h
theorem imax (core slot : Nat) : Statement (.imax core slot) := fun _ _ h => nomatch h
theorem and (core slot : Nat) : Statement (.and core slot) := fun _ _ h => nomatch h
theorem or (core slot : Nat) : Statement (.or core slot) := fun _ _ h => nomatch h
theorem xor (core slot : Nat) : Statement (.xor core slot) := fun _ _ h => nomatch h
theorem shl (core slot : Nat) : Statement (.shl core slot) := fun _ _ h => nomatch h
theorem shr (core slot : Nat) : Statement (.shr core slot) := fun _ _ h => nomatch h
theorem sar (core slot : Nat) : Statement (.sar core slot) := fun _ _ h => nomatch h
theorem fadd (core slot : Nat) : Statement (.fadd core slot) := fun _ _ h => nomatch h
theorem fmul (core slot : Nat) : Statement (.fmul core slot) := fun _ _ h => nomatch h
theorem ffma (core slot : Nat) : Statement (.ffma core slot) := fun _ _ h => nomatch h
theorem fmin (core slot : Nat) : Statement (.fmin core slot) := fun _ _ h => nomatch h
theorem fmax (core slot : Nat) : Statement (.fmax core slot) := fun _ _ h => nomatch h
theorem isetp (core slot : Nat) : Statement (.isetp core slot) := fun _ _ h => nomatch h
theorem fsetp (core slot : Nat) : Statement (.fsetp core slot) := fun _ _ h => nomatch h
theorem plop (core slot : Nat) : Statement (.plop core slot) := fun _ _ h => nomatch h
theorem cvt (core slot : Nat) : Statement (.cvt core slot) := fun _ _ h => nomatch h
theorem sfn (core slot : Nat) : Statement (.sfn core slot) := fun _ _ h => nomatch h
theorem ballot (core slot : Nat) : Statement (.ballot core slot) := fun _ _ h => nomatch h
theorem bcast (core slot : Nat) : Statement (.bcast core slot) := fun _ _ h => nomatch h
theorem shfl (core slot : Nat) : Statement (.shfl core slot) := fun _ _ h => nomatch h
theorem bra (core slot : Nat) : Statement (.bra core slot) := fun _ _ h => nomatch h
theorem brx (core slot : Nat) : Statement (.brx core slot) := fun _ _ h => nomatch h
theorem exit (core slot : Nat) : Statement (.exit core slot) := fun _ _ h => nomatch h
theorem ld (core slot : Nat) (ecc : EccObs) : Statement (.ld core slot ecc) := fun _ _ h => nomatch h
theorem st (core : Nat) (slot : Nat × EccObs) : Statement (.st core slot) := fun _ _ h => nomatch h
theorem atom (core slot : Nat) : Statement (.atom core slot) := fun _ _ h => nomatch h
theorem pf (core slot : Nat) : Statement (.pf core slot) := fun _ _ h => nomatch h
theorem l1inv (core slot : Nat) : Statement (.l1inv core slot) := fun _ _ h => nomatch h
theorem fence (core slot : Nat) : Statement (.fence core slot) := fun _ _ h => nomatch h
theorem flgset (core slot : Nat) : Statement (.flgset core slot) := fun _ _ h => nomatch h
theorem flgwait (core slot : Nat) : Statement (.flgwait core slot) := fun _ _ h => nomatch h
theorem flgrd (core slot : Nat) : Statement (.flgrd core slot) := fun _ _ h => nomatch h
theorem loadDataReturn (core tag : Nat) : Statement (.loadDataReturn core tag) := fun _ _ h => nomatch h
theorem atomReturn (core tag : Nat) : Statement (.atomReturn core tag) := fun _ _ h => nomatch h
theorem groupLivelock (core slot : Nat) : Statement (.groupLivelock core slot) := fun _ _ h => nomatch h
theorem flgwaitSatisfied (core : Nat) (slot : Nat × EccObs) : Statement (.flgwaitSatisfied core slot) := fun _ _ h => nomatch h
theorem fenceComplete (core slot : Nat) : Statement (.fenceComplete core slot) := fun _ _ h => nomatch h
theorem releaseSend (core slot : Nat) : Statement (.releaseSend core slot) := fun _ _ h => nomatch h
theorem wbEntryTimeout (core entry : Nat) (ecc : EccObs) : Statement (.wbEntryTimeout core entry ecc) := fun _ _ h => nomatch h
theorem wbDrainAck (core entry : Nat) : Statement (.wbDrainAck core entry) := fun _ _ h => nomatch h
theorem dbgSelect (fn : Fn) (core : Nat) (v : W32) : Statement (.dbgSelect fn core v) := fun _ _ h => nomatch h
theorem dbgStep (fn : Fn) (core : Nat) (v : W32) : Statement (.dbgStep fn core v) := fun _ _ h => nomatch h
theorem dbgResume (fn : Fn) (core : Nat) (v : W32) : Statement (.dbgResume fn core v) := fun _ _ h => nomatch h
theorem dbgKill (fn : Fn) (core : Nat) (v : W32) : Statement (.dbgKill fn core v) := fun _ _ h => nomatch h
theorem dbgStepEnd (core slot : Nat) : Statement (.dbgStepEnd core slot) := fun _ _ h => nomatch h
theorem dbgRdataWrite (fn : Fn) (core : Nat) (v : W32) : Statement (.dbgRdataWrite fn core v) := fun _ _ h => nomatch h
theorem ctxFlagsWrite (fn : Fn) (cid : Nat) (v : W32) : Statement (.ctxFlagsWrite fn cid v) := fun _ _ h => nomatch h
theorem arrayProgramStart (core : Nat) : Statement (.arrayProgramStart core) := fun _ _ h => nomatch h
theorem seqNop (core : Nat) : Statement (.seqNop core) := fun _ _ h => nomatch h
theorem wait (core : Nat) : Statement (.wait core) := fun _ _ h => nomatch h
theorem waitExpiry (core : Nat) : Statement (.waitExpiry core) := fun _ _ h => nomatch h
theorem setb (core : Nat) : Statement (.setb core) := fun _ _ h => nomatch h
theorem addb (core : Nat) : Statement (.addb core) := fun _ _ h => nomatch h
theorem loop (core : Nat) : Statement (.loop core) := fun _ _ h => nomatch h
theorem ldw (core : Nat × EccSeen) : Statement (.ldw core) := fun _ _ h => nomatch h
theorem ldwt (core : Nat × EccSeen) : Statement (.ldwt core) := fun _ _ h => nomatch h
theorem stationaryLoadDone (core : Nat) : Statement (.stationaryLoadDone core) := fun _ _ h => nomatch h
theorem pass (core : Nat × EccSeen) : Statement (.pass core) := fun _ _ h => nomatch h
theorem passRowEnter (core : Nat) (seen : EccSeen) : Statement (.passRowEnter core seen) := fun _ _ h => nomatch h
theorem passRowWrite (core : Nat) (upsets : List Upset) : Statement (.passRowWrite core upsets) := fun _ _ h => nomatch h
theorem aclr (core : Nat) : Statement (.aclr core) := fun _ _ h => nomatch h
theorem adrn (core : Nat × EccSeen) : Statement (.adrn core) := fun _ _ h => nomatch h
theorem convertedRowWrite (core : Nat) : Statement (.convertedRowWrite core) := fun _ _ h => nomatch h
theorem setf (core : Nat) : Statement (.setf core) := fun _ _ h => nomatch h
theorem waitf (core : Nat × EccObs) : Statement (.waitf core) := fun _ _ h => nomatch h
theorem waitfSatisfied (core : Nat × EccObs) : Statement (.waitfSatisfied core) := fun _ _ h => nomatch h
theorem seqUnitFree (core : Nat × EccSeen) : Statement (.seqUnitFree core) := fun _ _ h => nomatch h
theorem end_ (core : Nat) : Statement (.end_ core) := fun _ _ h => nomatch h
theorem programComplete (core : Nat) : Statement (.programComplete core) := fun _ _ h => nomatch h
theorem portReadDone (line : Nat) (err0 err1 : Nat) : Statement (.portReadDone line err0 err1) := fun _ _ h => nomatch h
theorem sectorRewrite (tile : Nat) : Statement (.sectorRewrite tile) := fun _ _ h => nomatch h
theorem patrolScrub (tile : Nat) (err : Nat) : Statement (.patrolScrub tile err) := fun _ _ h => nomatch h
theorem homeRead (tag : Nat) (ecc : EccObs) : Statement (.homeRead tag ecc) := fun _ _ h => nomatch h
theorem homeWrite (tag : Nat × EccObs) : Statement (.homeWrite tag) := fun _ _ h => nomatch h
theorem homeAtomic (tag : Nat × EccObs) : Statement (.homeAtomic tag) := fun _ _ h => nomatch h
theorem homeAddWrite (tag : Nat × EccObs) : Statement (.homeAddWrite tag) := fun _ _ h => nomatch h
theorem homePegSignal (tag : Nat × EccObs) : Statement (.homePegSignal tag) := fun _ _ h => nomatch h
theorem bivResponse (line : Nat) (pois0 pois1 : Bool) : Statement (.bivResponse line pois0 pois1) := fun _ _ h => nomatch h
theorem bivPortTimeout (port : Nat) : Statement (.bivPortTimeout port) := fun _ _ h => nomatch h
theorem map (fn : Fn) (w : CmdWrite) : Statement (.map fn w) := fun _ _ h => nomatch h
theorem inval (fn : Fn) (w : CmdWrite) : Statement (.inval fn w) := fun _ _ h => nomatch h
theorem invalDrainDone (fn : Fn) : Statement (.invalDrainDone fn) := fun _ _ h => nomatch h
theorem rangeWalkRead (walk : Nat) : Statement (.rangeWalkRead walk) := fun _ _ h => nomatch h
theorem pfFlr : Statement (.pfFlr) := fun _ _ h => nomatch h
theorem vfFlr (vf : Fn) : Statement (.vfFlr vf) := fun _ _ h => nomatch h
theorem bar4Resize (fn : Fn) (log2 : Nat) : Statement (.bar4Resize fn log2) := fun _ _ h => nomatch h
theorem bar4WinWrite (fn : Fn) (v : W64) : Statement (.bar4WinWrite fn v) := fun _ _ h => nomatch h
theorem bar4Read (fn : Fn) (off len : Nat) : Statement (.bar4Read fn off len) := fun _ _ h => nomatch h
theorem bar4Write (fn : Fn) (off : Nat) (data : List Byte) (ep : Bool) : Statement (.bar4Write fn off data ep) := fun _ _ h => nomatch h
theorem create (fn : Fn) (v : W32) : Statement (.create fn v) := fun _ _ h => nomatch h
theorem destroy (fn : Fn) (v : W32) : Statement (.destroy fn v) := fun _ _ h => nomatch h
theorem teardownDrainEnd (cid : Nat) : Statement (.teardownDrainEnd cid) := fun _ _ h => nomatch h
theorem pageZeroised (page : Nat) : Statement (.pageZeroised page) := fun _ _ h => nomatch h
theorem contextEvict (pitch : Nat) : Statement (.contextEvict pitch) := fun _ _ h => nomatch h
theorem contextLoad (pitch : Nat) : Statement (.contextLoad pitch) := fun _ _ h => nomatch h
theorem queueDoorbell (fn : Fn) (cid q : Nat) (tail : W32) : Statement (.queueDoorbell fn cid q tail) := fun _ _ h => nomatch h
theorem queueSlotRead (cid q : Nat) (cmd : List Byte) : Statement (.queueSlotRead cid q cmd) := fun _ _ h => nomatch h
theorem nopCmd (cid q : Nat) : Statement (.nopCmd cid q) := fun _ _ h => nomatch h
theorem graphCmd (cid q : Nat) : Statement (.graphCmd cid q) := fun _ _ h => nomatch h
theorem kernelCmd (cid q : Nat) : Statement (.kernelCmd cid q) := fun _ _ h => nomatch h
theorem copyCmd (cid q : Nat) : Statement (.copyCmd cid q) := fun _ _ h => nomatch h
theorem remoteCmd (cid q : Nat) : Statement (.remoteCmd cid q) := fun _ _ h => nomatch h
theorem pegSignalCmd (cid q : Nat) : Statement (.pegSignalCmd cid q) := fun _ _ h => nomatch h
theorem pegWaitCmd (cid q : Nat) : Statement (.pegWaitCmd cid q) := fun _ _ h => nomatch h
theorem hostNotifyCmd (cid q : Nat) : Statement (.hostNotifyCmd cid q) := fun _ _ h => nomatch h
theorem pegWaitQueuePoll (cid q : Nat) : Statement (.pegWaitQueuePoll cid q) := fun _ _ h => nomatch h
theorem pegRegister (fn : Fn) (w : CmdWrite) : Statement (.pegRegister fn w) := fun _ _ h => nomatch h
theorem pegWithdraw (fn : Fn) (w : CmdWrite) : Statement (.pegWithdraw fn w) := fun _ _ h => nomatch h
theorem contextQuery (fn : Fn) (v : W32) : Statement (.contextQuery fn v) := fun _ _ h => nomatch h
theorem queryComplete (fn : Fn) : Statement (.queryComplete fn) := fun _ _ h => nomatch h
theorem nodeAdmit (pitch : Nat) : Statement (.nodeAdmit pitch) := fun _ _ h => nomatch h
theorem kernelNodeDispatch (pitch : Nat × Bool) : Statement (.kernelNodeDispatch pitch) := fun _ _ h => nomatch h
theorem copyNodeDispatch (pitch : Nat × Bool) : Statement (.copyNodeDispatch pitch) := fun _ _ h => nomatch h
theorem remoteNodeDispatch (pitch : Nat × Bool) : Statement (.remoteNodeDispatch pitch) := fun _ _ h => nomatch h
theorem pegSignalNodeDispatch (pitch : Nat × Bool) : Statement (.pegSignalNodeDispatch pitch) := fun _ _ h => nomatch h
theorem hostNotifyNodeDispatch (pitch : Nat × Bool) : Statement (.hostNotifyNodeDispatch pitch) := fun _ _ h => nomatch h
theorem pegWaitNodePoll (pitch : Nat) : Statement (.pegWaitNodePoll pitch) := fun _ _ h => nomatch h
theorem kernelNodeComplete (node : Nat) : Statement (.kernelNodeComplete node) := fun _ _ h => nomatch h
theorem descriptorBegin (engine : Nat) : Statement (.descriptorBegin engine) := fun _ _ h => nomatch h
theorem dmaChunk (engine : Nat) (seen : EccSeen) : Statement (.dmaChunk engine seen) := fun _ _ h => nomatch h
theorem orderedSignalSend (engine : Nat) : Statement (.orderedSignalSend engine) := fun _ _ h => nomatch h
theorem descriptorComplete (desc : Nat) : Statement (.descriptorComplete desc) := fun _ _ h => nomatch h
theorem flitRx (port : Nat) (f : Flit) : Statement (.flitRx port f) := fun _ _ h => nomatch h
theorem packetTransit (port : Nat) : Statement (.packetTransit port) := fun _ _ h => nomatch h
theorem readRx (port : Nat × EccSeen) : Statement (.readRx port) := fun _ _ h => nomatch h
theorem readRespRx (port : Nat) : Statement (.readRespRx port) := fun _ _ h => nomatch h
theorem writeRx (port : Nat) : Statement (.writeRx port) := fun _ _ h => nomatch h
theorem writeFinalRx (port : Nat) : Statement (.writeFinalRx port) := fun _ _ h => nomatch h
theorem addRx (port : Nat) : Statement (.addRx port) := fun _ _ h => nomatch h
theorem addFinalRx (port : Nat) : Statement (.addFinalRx port) := fun _ _ h => nomatch h
theorem signalRx (port : Nat) : Statement (.signalRx port) := fun _ _ h => nomatch h
theorem ackRx (port : Nat) : Statement (.ackRx port) := fun _ _ h => nomatch h
theorem retryResend (tag : Nat) : Statement (.retryResend tag) := fun _ _ h => nomatch h
theorem unreachRx (port : Nat) : Statement (.unreachRx port) := fun _ _ h => nomatch h
theorem holdRx (port : Nat) : Statement (.holdRx port) := fun _ _ h => nomatch h
theorem echoRx (port : Nat) : Statement (.echoRx port) := fun _ _ h => nomatch h
theorem echoReplyRx (port : Nat) : Statement (.echoReplyRx port) := fun _ _ h => nomatch h
theorem seqQueryRx (port : Nat) : Statement (.seqQueryRx port) := fun _ _ h => nomatch h
theorem seqReplyRx (port : Nat) : Statement (.seqReplyRx port) := fun _ _ h => nomatch h
theorem keyCheckRx (port : Nat) : Statement (.keyCheckRx port) := fun _ _ h => nomatch h
theorem holdSend (tag : Nat) : Statement (.holdSend tag) := fun _ _ h => nomatch h
theorem echoSend (dev : Nat) : Statement (.echoSend dev) := fun _ _ h => nomatch h
theorem unreachTimeout (dev : Nat) : Statement (.unreachTimeout dev) := fun _ _ h => nomatch h
theorem unreachClear (fn : Fn) (k : Nat) (v : W64) : Statement (.unreachClear fn k v) := fun _ _ h => nomatch h
theorem laneAlarm (port lane : Nat) : Statement (.laneAlarm port lane) := fun _ _ h => nomatch h
theorem flitLossTimeout (port : Nat) : Statement (.flitLossTimeout port) := fun _ _ h => nomatch h
theorem retrainEnd (port : Nat) (r : TrainResult) : Statement (.retrainEnd port r) := fun _ _ h => nomatch h
theorem deadPortRetry (port : Nat) : Statement (.deadPortRetry port) := fun _ _ h => nomatch h
theorem pitchSave (fn : Fn) (v : W32) : Statement (.pitchSave fn v) := fun _ _ h => nomatch h
theorem pitchRestore (fn : Fn) (v : W32) : Statement (.pitchRestore fn v) := fun _ _ h => nomatch h
theorem saveComplete : Statement (.saveComplete) := fun _ _ h => nomatch h
theorem restoreComplete : Statement (.restoreComplete) := fun _ _ h => nomatch h
theorem carriedReply (core tag : Nat) : Statement (.carriedReply core tag) := fun _ _ h => nomatch h
theorem repairComplete (tile : Nat) : Statement (.repairComplete tile) := fun _ _ h => nomatch h
theorem repairTimeout (tile : Nat) : Statement (.repairTimeout tile) := fun _ _ h => nomatch h
theorem quarantineClear (fn : Fn) (tile : Nat) (v : W32) : Statement (.quarantineClear fn tile v) := fun _ _ h => nomatch h
theorem stewardWatchdog : Statement (.stewardWatchdog) := fun _ _ h => nomatch h
theorem stewardRestartDone : Statement (.stewardRestartDone) := fun _ _ h => nomatch h
theorem partnerCheck (core : Nat) : Statement (.partnerCheck core) := fun _ _ h => nomatch h
theorem checkCompare (core : Nat) (err : W32) : Statement (.checkCompare core err) := fun _ _ h => nomatch h
theorem diceTestDue (core : Nat) : Statement (.diceTestDue core) := fun _ _ h => nomatch h
theorem diceSegmentStart (core : Nat) : Statement (.diceSegmentStart core) := fun _ _ h => nomatch h
theorem diceSegmentEnd (core : Nat) (pass : Bool) : Statement (.diceSegmentEnd core pass) := fun _ _ h => nomatch h
theorem diceSegmentAbandon (core : Nat) : Statement (.diceSegmentAbandon core) := fun _ _ h => nomatch h
theorem packGo (fn : Fn) (w : CmdWrite) : Statement (.packGo fn w) := fun _ _ h => nomatch h
theorem packVerifyDone : Statement (.packVerifyDone) := fun _ _ h => nomatch h
theorem dbgUnlock (fn : Fn) (w : CmdWrite) : Statement (.dbgUnlock fn w) := fun _ _ h => nomatch h
theorem tokenVerifyDone (nonce : BitVec 128) : Statement (.tokenVerifyDone nonce) := fun _ _ h => nomatch h
theorem dbgRelock (fn : Fn) (w : CmdWrite) : Statement (.dbgRelock fn w) := fun _ _ h => nomatch h
theorem eventApply : Statement (.eventApply) := fun _ _ h => nomatch h
theorem evrClear (fn : Fn) (v : W32) : Statement (.evrClear fn v) := fun _ _ h => nomatch h
theorem pcSample (pitch : Nat) : Statement (.pcSample pitch) := fun _ _ h => nomatch h
theorem powerCapWindow (est : List PowerEst) : Statement (.powerCapWindow est) := fun _ _ h => nomatch h
theorem setEndpointId (eid : MctpPort × Nat) : Statement (.setEndpointId eid) := fun _ _ h => nomatch h
theorem pldmDiscovery (cmd : MctpPort × Nat) : Statement (.pldmDiscovery cmd) := fun _ _ h => nomatch h
theorem pldmSensorRead (id : MctpPort × Nat) (reading : Int) : Statement (.pldmSensorRead id reading) := fun _ _ h => nomatch h
theorem pldmEffecterSet (id : MctpPort × Nat) (watts : Nat) : Statement (.pldmEffecterSet id watts) := fun _ _ h => nomatch h
theorem pldmFwUpdate (component : MctpPort × Nat) (image : List Byte) : Statement (.pldmFwUpdate component image) := fun _ _ h => nomatch h
theorem getVersion (p : SpdmPort) : Statement (.getVersion p) := fun _ _ h => nomatch h
theorem getCapabilities (p : SpdmPort) : Statement (.getCapabilities p) := fun _ _ h => nomatch h
theorem negotiateAlgorithms (p : SpdmPort) (offered : List Byte) : Statement (.negotiateAlgorithms p offered) := fun _ _ h => nomatch h
theorem getDigests (p : SpdmPort) : Statement (.getDigests p) := fun _ _ h => nomatch h
theorem getCertificate (p : SpdmPort) (slot off len : Nat) : Statement (.getCertificate p slot off len) := fun _ _ h => nomatch h
theorem challenge (p : SpdmPort) (slot : Nat) (req : List Byte) : Statement (.challenge p slot req) := fun _ _ h => nomatch h
theorem getMeasurements (p : SpdmPort) (index : Nat) (signed : Bool) (req : List Byte) : Statement (.getMeasurements p index signed req) := fun _ _ h => nomatch h
theorem keyExchange (p : SpdmPort) (req : List Byte) : Statement (.keyExchange p req) := fun _ _ h => nomatch h
theorem finish (p : SpdmPort) (session : Nat) (req : List Byte) : Statement (.finish p session req) := fun _ _ h => nomatch h
theorem keyUpdate (p : SpdmPort) (session : Nat) : Statement (.keyUpdate p session) := fun _ _ h => nomatch h
theorem spdmHeartbeat (p : SpdmPort) (session : Nat) : Statement (.spdmHeartbeat p session) := fun _ _ h => nomatch h
theorem endSession (p : SpdmPort) (session : Nat) : Statement (.endSession p session) := fun _ _ h => nomatch h
theorem getPqSig (p : SpdmPort) (off len : Nat) : Statement (.getPqSig p off len) := fun _ _ h => nomatch h
theorem getPqCert (p : SpdmPort) (off len : Nat) : Statement (.getPqCert p off len) := fun _ _ h => nomatch h
theorem getChainFp (p : SpdmPort) (first : Nat) : Statement (.getChainFp p first) := fun _ _ h => nomatch h
theorem spdmUnsupported (p : SpdmPort) (code : Nat) : Statement (.spdmUnsupported p code) := fun _ _ h => nomatch h
theorem planCommitEnd : Statement (.planCommitEnd) := fun _ _ h => nomatch h
theorem quarantineClearDone (tile : Nat) : Statement (.quarantineClearDone tile) := fun _ _ h => nomatch h
theorem pcieLinkL0 : Statement (.pcieLinkL0) := fun _ _ h => nomatch h
theorem scratchpadBankAccess (core bank : Nat) (ecc : EccObs) : Statement (.scratchpadBankAccess core bank ecc) := fun _ _ h => nomatch h
theorem flitSlot (port : Nat) : Statement (.flitSlot port) := fun _ _ h => nomatch h
theorem stewardStop : Statement (.stewardStop) := fun _ _ h => nomatch h
theorem atsInvalidateRequest (fn : Fn) (itag : Nat) : Statement (.atsInvalidateRequest fn itag) := fun _ _ h => nomatch h
theorem doeDiscovery (index : Nat) : Statement (.doeDiscovery index) := fun _ _ h => nomatch h
theorem ideKeyManagement (p : SpdmPort) (session : Nat) (req : List Byte) : Statement (.ideKeyManagement p session req) := fun _ _ h => nomatch h

end Sys2Proof.Laws.Row
end

