-- ==== Sys2Proof/WellFormed.lean ====
section
/-!
DEFINITION. Which operands of a command name something the device has: functions, cores, slots, pitches, tiles,
ports, contexts, queues and register widths (R15 to R19, R347, R353). The meanings do not rely on it: a command that
names nothing has no effect there.
-/

namespace Sys2Proof

/-- PF, VF 1 to 64, or the steward (65). -/
def Fn.ok (f : Fn) : Bool := decide (f ≤ 65)

def coreOk (c : Nat) : Bool := decide (c < 256)
def slotOk (g : Nat) : Bool := decide (g < 48)
def pitchOk (p : Nat) : Bool := decide (p < 64)
def tileOk (t : Nat) : Bool := decide (t < 4)
def portOk (p : Nat) : Bool := decide (p < 12)
def cidOk (c : Nat) : Bool := decide (c < 4096)
def queueOk (q : Nat) : Bool := decide (q < 8)
def engineOk (e : Nat) : Bool := decide (e < 68)

/-- A register access is 32 or 64 bits wide, aligned to its width, within the 64 MiB of BAR0 or the 256 MiB of BAR2,
which the model puts at offset 0x1000_0000 (log 14). -/
def accessOk (off width : Nat) : Bool :=
  (width == 4 || width == 8) && decide (off % width = 0)
    && (decide (off + width ≤ 0x4000000) || decide (0x10000000 ≤ off) && decide (off + width ≤ 0x20000000))

/-- A chain frame as R45 lays it out: whole words of payload, at most 15. -/
def ChainFrame.ok (f : ChainFrame) : Bool := f.payload.length % 4 == 0 && decide (f.payload.length ≤ 60)

/-- A flit as R407 lays it out. -/
def Flit.wf (f : Flit) : Bool := f.body.length + f.tag.length == 244 && decide (f.credit < 64)

/-- Well-formed commands. -/
def Instr.wf : Instr → Bool
  | .regWrite fn off width _ => fn.ok && accessOk off width
  | .rcRead fn off width => fn.ok && accessOk off width
  | .cmdHalfWrite fn _ _ => fn.ok
  | .ifverSelWrite fn _ => fn.ok
  | .tempWarning die _ => decide (die < 5)
  | .configRequest fn off => fn.ok && decide (off < 4096)
  | .tokenFrameRx f => f.ok
  | .sideFrameRx f => f.ok
  | .faultFrameRx f => f.ok
  | .downFrameRx f => f.ok
  | .linkTraining ports biv => ports.length == 12 && biv.length == 2 && biv.all fun b =>
    [0, 1, 2, 4, 8].contains b.width && decide (b.rate ≤ 3) && decide (b.gib ≤ 1024) && (b.width == 0) == (b.rate == 0)
  | .ageingMarginReplan readings => readings.all fun r => r.length == 384
  | .ageingRemeasure readings => readings.length == 384
  | .stwRecovGo fn _ => fn.ok
  | .plnStageWrite fn off width _ => fn.ok && accessOk off width
  | .plnCommit fn _ => fn.ok
  | .stagedWrite fn off width _ => fn.ok && accessOk off width
  | .rangeTableCommit fn cid _ => fn.ok && cidOk cid
  | .queueRingCommit fn cid q _ => fn.ok && cidOk cid && queueOk q
  | .edgeSpillCommit fn cid _ => fn.ok && cidOk cid
  | .roundingSeedCommit fn core _ => fn.ok && coreOk core
  | .pcSamplesCommit fn pitch _ => fn.ok && pitchOk pitch
  | .watchpointCommit fn pitch n _ => fn.ok && pitchOk pitch && decide (n < 8)
  | .counterCommit fn pitch n _ => fn.ok && pitchOk pitch && decide (n < 8)
  | .linkKeyLoad fn port _ => fn.ok && portOk port
  | .linkKeyUse fn port _ => fn.ok && portOk port
  | .linkKeyModeSet fn port _ => fn.ok && portOk port
  | .recorderWindowCommit fn _ => fn.ok
  | .groupPlace core => coreOk core
  | .groupEnd core slot => coreOk core && slotOk slot
  | .resultWriteback core slot => coreOk core && slotOk slot
  | .nop core slot => coreOk core && slotOk slot
  | .mov core slot => coreOk core && slotOk slot
  | .movi core slot => coreOk core && slotOk slot
  | .sel core slot => coreOk core && slotOk slot
  | .iadd core slot => coreOk core && slotOk slot
  | .isub core slot => coreOk core && slotOk slot
  | .imul core slot => coreOk core && slotOk slot
  | .imulh core slot => coreOk core && slotOk slot
  | .imad core slot => coreOk core && slotOk slot
  | .imin core slot => coreOk core && slotOk slot
  | .imax core slot => coreOk core && slotOk slot
  | .and core slot => coreOk core && slotOk slot
  | .or core slot => coreOk core && slotOk slot
  | .xor core slot => coreOk core && slotOk slot
  | .shl core slot => coreOk core && slotOk slot
  | .shr core slot => coreOk core && slotOk slot
  | .sar core slot => coreOk core && slotOk slot
  | .fadd core slot => coreOk core && slotOk slot
  | .fmul core slot => coreOk core && slotOk slot
  | .ffma core slot => coreOk core && slotOk slot
  | .fmin core slot => coreOk core && slotOk slot
  | .fmax core slot => coreOk core && slotOk slot
  | .isetp core slot => coreOk core && slotOk slot
  | .fsetp core slot => coreOk core && slotOk slot
  | .plop core slot => coreOk core && slotOk slot
  | .cvt core slot => coreOk core && slotOk slot
  | .sfn core slot => coreOk core && slotOk slot
  | .ballot core slot => coreOk core && slotOk slot
  | .bcast core slot => coreOk core && slotOk slot
  | .shfl core slot => coreOk core && slotOk slot
  | .bra core slot => coreOk core && slotOk slot
  | .brx core slot => coreOk core && slotOk slot
  | .exit core slot => coreOk core && slotOk slot
  | .ld core slot _ => coreOk core && slotOk slot
  | .st core (slot, _) => coreOk core && slotOk slot
  | .atom core slot => coreOk core && slotOk slot
  | .pf core slot => coreOk core && slotOk slot
  | .l1inv core slot => coreOk core && slotOk slot
  | .fence core slot => coreOk core && slotOk slot
  | .flgset core slot => coreOk core && slotOk slot
  | .flgwait core slot => coreOk core && slotOk slot
  | .flgrd core slot => coreOk core && slotOk slot
  | .groupLivelock core slot => coreOk core && slotOk slot
  | .flgwaitSatisfied core (slot, _) => coreOk core && slotOk slot
  | .fenceComplete core slot => coreOk core && slotOk slot
  | .releaseSend core slot => coreOk core && slotOk slot
  | .loadDataReturn core _ => coreOk core
  | .atomReturn core _ => coreOk core
  | .wbEntryTimeout core _ _ => coreOk core
  | .wbDrainAck core _ => coreOk core
  | .dbgSelect fn core _ => fn.ok && coreOk core
  | .dbgStep fn core _ => fn.ok && coreOk core
  | .dbgResume fn core _ => fn.ok && coreOk core
  | .dbgKill fn core _ => fn.ok && coreOk core
  | .dbgStepEnd core slot => coreOk core && slotOk slot
  | .dbgRdataWrite fn core _ => fn.ok && coreOk core
  | .ctxFlagsWrite fn cid _ => fn.ok && cidOk cid
  | .arrayProgramStart core => coreOk core
  | .seqNop core => coreOk core
  | .wait core => coreOk core
  | .waitExpiry core => coreOk core
  | .setb core => coreOk core
  | .addb core => coreOk core
  | .loop core => coreOk core
  | .ldw (core, _) => coreOk core
  | .ldwt (core, _) => coreOk core
  | .stationaryLoadDone core => coreOk core
  | .pass (core, _) => coreOk core
  | .passRowEnter core _ => coreOk core
  | .passRowWrite core _ => coreOk core
  | .aclr core => coreOk core
  | .adrn (core, _) => coreOk core
  | .convertedRowWrite core => coreOk core
  | .setf core => coreOk core
  | .waitf (core, _) => coreOk core
  | .waitfSatisfied (core, _) => coreOk core
  | .seqUnitFree (core, _) => coreOk core
  | .end_ core => coreOk core
  | .programComplete core => coreOk core
  | .sectorRewrite tile => tileOk tile
  | .patrolScrub tile _ => tileOk tile
  | .bivPortTimeout port => decide (port < 2)
  | .map fn _ => fn.ok
  | .inval fn _ => fn.ok
  | .invalDrainDone fn => fn.ok
  | .vfFlr vf => decide (1 ≤ vf ∧ vf ≤ 64)
  | .bar4Resize fn log2 => fn.ok && decide (28 ≤ log2 ∧ log2 ≤ 34)
  | .bar4WinWrite fn _ => fn.ok
  | .bar4Read fn _ len => fn.ok && decide (len ≤ 4096)
  | .bar4Write fn _ data _ => fn.ok && decide (data.length ≤ 512)
  | .create fn _ => fn.ok
  | .destroy fn _ => fn.ok
  | .teardownDrainEnd cid => cidOk cid
  | .contextEvict pitch => pitchOk pitch
  | .contextLoad pitch => pitchOk pitch
  | .queueDoorbell fn cid q _ => fn.ok && cidOk cid && queueOk q
  | .queueSlotRead cid q cmd => cidOk cid && queueOk q && cmd.length == 64
  | .nopCmd cid q => cidOk cid && queueOk q
  | .graphCmd cid q => cidOk cid && queueOk q
  | .kernelCmd cid q => cidOk cid && queueOk q
  | .copyCmd cid q => cidOk cid && queueOk q
  | .remoteCmd cid q => cidOk cid && queueOk q
  | .pegSignalCmd cid q => cidOk cid && queueOk q
  | .pegWaitCmd cid q => cidOk cid && queueOk q
  | .hostNotifyCmd cid q => cidOk cid && queueOk q
  | .pegWaitQueuePoll cid q => cidOk cid && queueOk q
  | .pegRegister fn _ => fn.ok
  | .pegWithdraw fn _ => fn.ok
  | .contextQuery fn _ => fn.ok
  | .queryComplete fn => fn.ok
  | .nodeAdmit pitch => pitchOk pitch
  | .kernelNodeDispatch pitch => pitchOk pitch.1
  | .copyNodeDispatch pitch => pitchOk pitch.1
  | .remoteNodeDispatch pitch => pitchOk pitch.1
  | .pegSignalNodeDispatch pitch => pitchOk pitch.1
  | .hostNotifyNodeDispatch pitch => pitchOk pitch.1
  | .pegWaitNodePoll pitch => pitchOk pitch
  | .descriptorBegin engine => engineOk engine
  | .dmaChunk engine _ => engineOk engine
  | .orderedSignalSend engine => engineOk engine
  | .flitRx port f => portOk port && f.wf
  | .packetTransit port => portOk port
  | .readRx (port, _) => portOk port
  | .readRespRx port => portOk port
  | .writeRx port => portOk port
  | .writeFinalRx port => portOk port
  | .addRx port => portOk port
  | .addFinalRx port => portOk port
  | .signalRx port => portOk port
  | .ackRx port => portOk port
  | .unreachRx port => portOk port
  | .holdRx port => portOk port
  | .echoRx port => portOk port
  | .echoReplyRx port => portOk port
  | .seqQueryRx port => portOk port
  | .seqReplyRx port => portOk port
  | .keyCheckRx port => portOk port
  | .echoSend dev => decide (dev < 4096)
  | .unreachTimeout dev => decide (dev < 4096)
  | .unreachClear fn k _ => fn.ok && decide (k < 64)
  | .laneAlarm port lane => portOk port && decide (lane < 9)
  | .flitLossTimeout port => portOk port
  | .retrainEnd port _ => portOk port
  | .deadPortRetry port => portOk port
  | .pitchSave fn _ => fn.ok
  | .pitchRestore fn _ => fn.ok
  | .carriedReply core _ => coreOk core
  | .repairComplete tile => tileOk tile
  | .repairTimeout tile => tileOk tile
  | .quarantineClear fn tile _ => fn.ok && tileOk tile
  | .partnerCheck core => coreOk core
  | .checkCompare core _ => coreOk core
  | .diceTestDue core => coreOk core
  | .diceSegmentStart core => coreOk core
  | .diceSegmentEnd core _ => coreOk core
  | .diceSegmentAbandon core => coreOk core
  | .packGo fn _ => fn.ok
  | .dbgUnlock fn _ => fn.ok
  | .dbgRelock fn _ => fn.ok
  | .evrClear fn _ => fn.ok
  | .pcSample pitch => pitchOk pitch
  | .powerCapWindow est => est.all fun e => pitchOk e.pitch
  | .quarantineClearDone tile => tileOk tile
  | .scratchpadBankAccess core bank _ => coreOk core && decide (bank < 16)
  | .flitSlot port => portOk port
  | .atsInvalidateRequest fn _ => fn.ok
  | .pwrEnAssert | .railRegulated | .pwrEnDeassert | .vinLoss | .railFault | .thermTrip | .porRelease _ _
  | .strapOutputEnable | .mainPllUnlock | .pciePllUnlock | .pciePllRelock | .perstAssert | .perstDeassert
  | .vfEnableWrite _ | .chnInHigh | .headTokenStart | .chnPulseRx _ | .levelFault | .tokenSend | .enumTimeout
  | .chnFrameSend | .chnBufferedForward | .chnHeartbeatSend | .upstreamLost | .upLostClear | .serviceTimeout
  | .stewardRom _ | .firmwareImage _ | .measuredBoot | .sramRepairBist _ | .sitePlanLoad _ | .hostVisible
  | .recovCheckDone | .recovProgramDone | .evrScanDone | .portReadDone _ _ _ | .homeRead _ _ | .homeWrite _
  | .homeAtomic _ | .homeAddWrite _ | .homePegSignal _ | .bivResponse _ _ _ | .rangeWalkRead _ | .pfFlr
  | .pageZeroised _ | .kernelNodeComplete _ | .descriptorComplete _ | .retryResend _ | .holdSend _ | .saveComplete
  | .restoreComplete | .stewardWatchdog | .stewardRestartDone | .packVerifyDone | .tokenVerifyDone _ | .eventApply
  | .setEndpointId _ | .pldmDiscovery _ | .pldmSensorRead _ _ | .pldmEffecterSet _ _ | .pldmFwUpdate _ _
  | .getVersion _ | .getCapabilities _ | .negotiateAlgorithms _ _ | .getDigests _ | .getCertificate _ _ _ _
  | .challenge _ _ _ | .getMeasurements _ _ _ _ | .keyExchange _ _ | .finish _ _ _ | .keyUpdate _ _
  | .spdmHeartbeat _ _ | .endSession _ _ | .getPqSig _ _ _ | .getPqCert _ _ _ | .getChainFp _ _
  | .spdmUnsupported _ _ | .planCommitEnd | .pcieLinkL0 | .stewardStop | .doeDiscovery _
  | .ideKeyManagement _ _ _ => true

end Sys2Proof
end

