-- ==== Sys2Proof/Tests/Slice0.lean ====
section
/-!
SUPPORT. Tests: an ill-formed command for each check of `Instr.wf`; single operations whose results the manual states;
and, for each statement with hypotheses, a state and operands that meet them (`witness_<statement>`, one conjunct a
clause, at the bound where a clause has one).
-/

namespace Sys2Proof.Tests
open Sys2Proof Sys2Proof.Machine

-- one theorem after the other: many threads at once need more memory than the check has
set_option Elab.async false

/-! ## Small modules -/

/-- Powered, linked, at full service, 2 s after its own time 0. -/
def on : Dev :=
  { time := 2100000000
    power := { pwrEn := true, railsUp := 5, pwrGood := true, porReleased := true, mainLock := true, pcieLock := true
               perstLow := false, pcieL0 := true }
    boot := { stage := 10 } }

/-- `on` before a stage of start-up. -/
def before (stage : Nat) : Dev := { on with boot := { stage := stage - 1 } }

/-- The state with this module and nothing waiting. -/
def at_ (d : Dev) : State := { dev := d }

/-! ## Witnesses: power, pins, start-up -/

theorem witness_EmptyQueueIsOneCycle :
    let waits : Dev := { on with due := [.rangeTable 4095 64 1] }
    let programs : Dev := { on with boot := { stage := 10, fwProg := some (1, [], on.time + 2) } }
    let sends : Dev := { on with
      chain := { phase := 1, tokenEnters2 := true, busyUntil := on.time + 1 }, boot := { stage := 6 } }
    State.reset.pending = []
    ∧ (waits.due = [.rangeTable 4095 64 1] ∧ waits.plan.commit = none ∧ waits.cores = [] ∧ waits.board.engines = []
      ∧ ∀ c, (waits.ctx c).dying = false)
    ∧ (programs.due = [] ∧ programs.plan.commit = none ∧ programs.boot.fwProg = some (1, [], on.time + 2)
      ∧ programs.time + 1 < on.time + 2)
    ∧ (on.due = [] ∧ on.boot.fwProg = none ∧ on.chain.phase ≠ 1)
    ∧ (sends.due = [] ∧ sends.chain.phase = 1 ∧ sends.chain.tokenEnters2 = true ∧ sends.chain.tokenDue = none
      ∧ sends.chain.busyUntil ≤ sends.time + 1 ∧ sends.boot.stage = 6) :=
  ⟨rfl, ⟨rfl, rfl, rfl, rfl, fun _ => rfl⟩, by decide, by decide, by decide⟩

theorem witness_RailsComeUp :
    let off : Power := {}
    let resting : Power := { lockedOut := true, pwrEnLowAt := some (on.time - ccUs 100000) }
    let tooSoon : Power := { lockedOut := true, pwrEnLowAt := some (on.time - ccUs 100000 + 1) }
    (off.pwrEn = false ∧ off.lockedOut = false)
    ∧ (resting.pwrEn = false ∧ ∃ t, resting.pwrEnLowAt = some t ∧ t + ccUs 100000 ≤ on.time)
    ∧ (tooSoon.pwrEn = false ∧ tooSoon.lockedOut = true ∧ ∀ t, tooSoon.pwrEnLowAt = some t → on.time < t + ccUs 100000)
    ∧ (let p : Power := { pwrEn := true, raising := true, railsUp := 3 }
       p.pwrEn = true ∧ p.raising = true ∧ p.railsUp < 4)
    ∧ (let p : Power := { pwrEn := true, raising := true, railsUp := 4 }
       p.pwrEn = true ∧ p.raising = true ∧ p.railsUp = 4)
    ∧ (let p : Power := { pwrEn := true, railsUp := 5, pwrGood := true, pwrGoodAt := on.time - ccUs 2000 }
       p.pwrGood = true ∧ p.porReleased = false ∧ p.pwrGoodAt + ccUs 2000 ≤ on.time)
    ∧ (let d := { on with boot := { on.boot with stageEnd := [(1, on.rootCc - 50000)] } }
       d.power.porReleased = true ∧ tget 0 d.boot.stageEnd 1 + 50000 ≤ d.rootCc) := by
  refine ⟨by decide, ⟨rfl, _, rfl, by decide⟩, ⟨rfl, rfl, ?_⟩, by decide, by decide, by decide, by decide⟩
  intro t h; cases h; decide

theorem witness_RailsFall : on.power.pwrEn = true ∧ on.power.pwrGood = true
    ∧ (on.power.railsUp ≠ 0 ∨ on.power.raising = true) ∧ on.power.mainLock = true := by decide

theorem witness_TemperatureWarningHasHysteresis :
    on.power.pwrGood = true ∧ (4 : Nat) < 5 ∧ (105 : Int) ≤ 105 ∧ (104 : Int) < 105 ∧ (95 : Int) ≤ 95 ∧ (89 : Int) < 90
    ∧ (90 : Int) ≤ 94 ∧ (94 : Int) < 95 := by decide

theorem witness_LinkGoesDownAndUp :
    let down : Power := { on.power with pcieL0 := false }
    on.power.pcieLock = true ∧ on.power.mainLock = true
    ∧ (on.power.perstLow = false ∧ on.host.ctxs = [] ∧ on.mem.reqs = [])
    ∧ (on.power.pcieL0 = true ∧ on.configServed = true)
    ∧ (down.perstLow = false ∧ down.pcieLock = true ∧ down.pcieL0 = false) := by decide

theorem witness_ConfigurationRequests :
    let early := before 5
    let unserved := before 4
    let recov : Dev := { on with boot := { stage := 2, recovery := true } }
    (on.configReach 0 = true ∧ on.configServed = true)
    ∧ (unserved.configReach 0 = true ∧ unserved.configServed = false ∧ unserved.power.pcieL0 = true)
    ∧ (recov.power.pcieL0 = true ∧ recov.boot.recovery = true ∧ recov.configReach 0 = true)
    ∧ (on.power.pcieL0 = true ∧ on.boot.recovery = false ∧ on.boot.stage = 10)
    ∧ (early.power.pcieL0 = true ∧ early.boot.recovery = false ∧ 4 ≤ early.boot.stage ∧ early.boot.stage < 10)
    ∧ (early.configReach 0 = true ∧ 28 ≤ 34)
    ∧ (on.reach 0 = true ∧ isPf 0 = true
      ∧ ((0x10000000 : W64).toNat / 2 ^ 28 % 2 ^ 6 * 2 ^ 28) % 2 ^ (on.func 0).bar4Log2 = 0
      ∧ (let d := on.modFunc 0 fun f => { f with bar4Log2 := 29 }
         d.reach 0 = true ∧ ((0x10000000 : W64).toNat / 2 ^ 28 % 2 ^ 6 * 2 ^ 28) % 2 ^ (d.func 0).bar4Log2 ≠ 0)) := by
  decide +kernel
/-- A module of the chain in a phase. -/
def chained (c : Chain) : Dev := { on with chain := c }
/-- The head of its chain: strap 4. -/
def headDev (c : Chain) : Dev := { on with chain := c, power := { on.power with straps := 0x10 } }

/-- A TOKEN frame for the next module, and a frame of a TYPE from another one. -/
def tokenF : ChainFrame := sealFrame { typ := 1, dest := 5, src := 4, payload := [], crc := 0, stop := true }
def otherF (typ : BitVec 4) : ChainFrame :=
  sealFrame { typ := typ, dest := 0xFFF, src := 9, payload := [1, 0, 0, 0], crc := 0, stop := true }
/-- A frame of module `src` itself; from the head, SERVICE. -/
def selfF (typ : BitVec 4) (src : BitVec 12) : ChainFrame :=
  sealFrame { typ := typ, dest := 0xFFF, src := src, payload := [2, 0, 0, 0], crc := 0, stop := true }

theorem witness_TokenEnumeration :
    (let d : Dev := { chained {} with boot := { stage := 6 } }
     d.chain.phase = 0 ∧ d.isHead = false ∧ d.atStage7 = true)
    ∧ (chained { phase := 2 }).chain.phase ≠ 0
    ∧ (let d := headDev { phase := 1, chnInHigh := true, chnInHighAt := on.time - ccUs 100, phase1At := on.time - ccUs 100 }
       let c := d.chain
       d.isHead = true ∧ c.phase = 1 ∧ c.chnInHigh = true ∧ c.headTokenSent = false ∧ d.chnSilent = false
       ∧ c.chnInHighAt + ccUs 100 ≤ d.time ∧ c.phase1At + ccUs 100 ≤ d.time)
    ∧ (let d := chained { phase := 1 }
       d.chain.phase = 1 ∧ d.isHead = false ∧ d.chain.idValid = false ∧ d.chain.chainErr = false ∧ tokenF.typ = 1
       ∧ tokenF.dest ≠ 0 ∧ frameOk tokenF = true)
    ∧ (let d := chained { phase := 1, tokenDue := some (tokenF, on.time) }
       d.chain.tokenDue = some (tokenF, on.time) ∧ d.chain.phase = 1 ∧ on.time ≤ d.time ∧ d.chnSilent = false)
    ∧ (chained { stewardStopped := true }).chnSilent = true
    ∧ (let d := chained { phase := 1, phase1At := on.time - ccUs 1300000 }
       d.chain.phase = 1 ∧ d.chain.phase1At + ccUs 1300000 ≤ d.time ∧ d.boot.recovery = false) := by
  decide +kernel

theorem witness_FramesGoOn :
    let d (phase : Nat) : Dev := chained { phase := phase, idValid := true, devId := 3 }
    let busy (c : Chain) : Bool :=
      decide (c.ownBusy = true ∧ on.time < c.busyUntil ∨ c.bufBusy = true ∧ on.time < c.busyUntil ∨ c.buffered ≠ [])
    let ok (d : Dev) (f : ChainFrame) : Bool := frameOk f && !d.chnOwn f && !d.chnSilent
    let holds (phase n : Nat) : Dev := chained { phase := phase, idValid := true, devId := 3, ownBusy := true
                                                 busyUntil := on.time + 1, buffered := List.replicate n (otherF 3) }
    -- an idle line, in each phase
    (ok (d 2) (otherF 2) ∧ (d 2).chain.rxHold = false ∧ ¬busy (d 2).chain ∧ (d 2).chain.phase = 2 ∧ (otherF 2).typ = 2)
    ∧ (ok (d 3) (otherF 3) ∧ ¬busy (d 3).chain ∧ (d 3).chain.phase = 3 ∧ (otherF 3).typ = 3)
    ∧ (ok (d 3) (otherF 4) ∧ (otherF 4).typ = 4)
    -- a busy line, with room in the buffer and without
    ∧ (ok (holds 2 1) (otherF 2) ∧ busy (holds 2 1).chain ∧ (holds 2 1).chain.buffered.length < 2)
    ∧ (ok (holds 2 2) (otherF 2) ∧ busy (holds 2 2).chain ∧ 2 ≤ (holds 2 2).chain.buffered.length)
    ∧ (ok (holds 3 1) (otherF 3) ∧ busy (holds 3 1).chain) ∧ (ok (holds 3 2) (otherF 4) ∧ busy (holds 3 2).chain)
    ∧ (let c := chained { phase := 3, buffered := [otherF 3] }
       c.chain.buffered = otherF 3 :: [] ∧ c.chnSilent = false ∧ c.chnBusy = false)
    -- own frames come back
    ∧ (let h := headDev { phase := 2, serviceSent := true, idValid := true }
       (selfF 2 0).typ = 2 ∧ h.chnOwn (selfF 2 0) = true ∧ frameOk (selfF 2 0) = true ∧ h.isHead = true
         ∧ h.chain.phase = 2
       ∧ h.chain.serviceSent = true ∧ leNat ((selfF 2 0).payload.take 4) % 256 = 2)
    ∧ ((d 2).chnOwn (selfF 3 3) = true ∧ frameOk (selfF 3 3) = true ∧ 2 ≤ (d 2).chain.phase ∧ (selfF 3 3).typ = 3
      ∧ (d 2).chnOwn (selfF 4 3) = true ∧ frameOk (selfF 4 3) = true ∧ (selfF 4 3).typ = 4)
    -- types that are reserved, or that the phase does not allow
    ∧ (ok (d 3) (otherF 0) ∧ ok (d 3) (otherF 5) ∧ (d 3).chain.phase ≠ 0 ∧ (d 3).chain.rxHold = false ∧ ¬busy (d 3).chain
      ∧ (otherF 0).typ = 0 ∧ 5 ≤ (otherF 5).typ.toNat)
    ∧ (ok (d 3) (otherF 1) ∧ (otherF 1).typ = 1 ∧ ok (d 3) (otherF 2) ∧ ok (d 2) (otherF 3) ∧ ok (d 2) (otherF 4)
      ∧ ¬busy (d 2).chain)
    -- the module's own frames
    ∧ (let c := chained { phase := 2, own := [otherF 2], busyUntil := on.time - ccUs 2 }
       c.chain.own = otherF 2 :: [] ∧ 2 ≤ c.chain.phase ∧ c.chnSilent = false ∧ c.chain.buffered = []
       ∧ c.chnFollows = false ∧ c.chain.busyUntil + ccUs 2 ≤ c.time)
    ∧ (let c := chained { phase := 2, own := [otherF 2], busyUntil := on.time - ccUs 2 + 1 }
       c.chain.own ≠ [] ∧ c.chain.busyUntil ≠ 0 ∧ c.time < c.chain.busyUntil + ccUs 2)
    ∧ (chained { phase := 2, frameStart := true, frameAt := on.time }).chnFollows = true := by
  intro d busy ok holds
  refine ⟨?_, ?_, ?_, ?_, ?_, ?_, ?_, ?_, ?_, ?_, ?_, ?_, ?_, ?_, ?_⟩ <;> decide +kernel

theorem witness_GuyLine :
    let d := chained { phase := 3, heardAt := on.time - ccUs 300, heartbeatAt := on.time }
    (d.chain.phase ≠ 0 ∧ 500 ≤ 1400) ∧ (1600 ≤ 2400) ∧ (499 < 500 ∧ 1400 < 1599 ∧ 1599 < 1600 ∧ 2400 < 19999
      ∧ 19999 < 20000)
    ∧ (d.chain.phase = 3 ∧ d.chain.upLost = false ∧ 20000 ≤ 20000)
    ∧ (d.chain.frameStart = false ∧ d.chain.heardAt + ccUs 300 ≤ d.time)
    ∧ (d.chnSilent = false ∧ d.chain.heartbeatAt ≤ d.time ∧ d.chnBusy = false ∧ d.chnFollows = false
      ∧ d.chain.busyUntil ≤ d.chain.heartbeatAt)
    ∧ (let d := chained { phase := 3, heartbeatAt := on.time - 2, busyUntil := on.time - 1 }
       d.chain.phase = 3 ∧ d.chnSilent = false ∧ d.chain.heartbeatAt < d.chain.busyUntil
       ∧ d.time < d.chain.busyUntil + ccUs 2 ∧ d.chain.heartbeatAt ≤ d.time ∧ d.chnFollows = false)
    ∧ (let c : Chain := { upLost := true, goodSince := some (on.time - ccUs 1000), goodLast := on.time }
       c.upLost = true ∧ c.goodSince = some (on.time - ccUs 1000) ∧ on.time - ccUs 1000 + ccUs 1000 ≤ c.goodLast
       ∧ on.time ≤ c.goodLast + ccUs 300)
    ∧ (let d := { headDev { phase := 2 } with boot := { stage := 10, stageEnd := [(10, on.rootCc - 50000000)] } }
       d.isHead = true ∧ d.chain.phase = 2 ∧ d.boot.stage = 10 ∧ d.chain.serviceSent = false
       ∧ tget 0 d.boot.stageEnd 10 + 50000000 ≤ d.rootCc) := by
  decide +kernel

theorem witness_FirmwareStages :
    let recov := { before 2 with power := { on.power with straps := 1 } }
    ((before 2).mayRun 2 = true ∧ (before 2).power.straps.getLsbD 0 = false)
    ∧ (recov.mayRun 2 = true ∧ recov.power.straps.getLsbD 0 = true)
    ∧ (before 3).mayRun 3 = true ∧ (before 4).mayRun 4 = true := by decide +kernel

theorem witness_ServiceStages :
    let r : BistResult := { granules := [255], quads := [], ways := [(3, 31)], hubBad := false, summary := [] }
    let plan : Dev := { on with boot := { stage := 8, flash := [(flashImageLen, 1)] } }
    let trains (n : Nat) : Dev := { on with boot := { stage := 7, stageEnd := [(7, on.rootCc - n)] } }
    ((before 5).mayRun 5 = true ∧ r.quads = [] ∧ (before 5).boot.trimRetired = [] ∧ r.hubBad = false ∧ r.granules ≠ [])
    ∧ (before 6).mayRun 6 = true
    ∧ ((trains 4999999).mayRun 8 = true ∧ (trains 4999999).rootCc < tget 0 (trains 4999999).boot.stageEnd 7 + 5000000)
    ∧ ((trains 5000000).mayRun 8 = true ∧ tget 0 (trains 5000000).boot.stageEnd 7 + 5000000 ≤ (trains 5000000).rootCc)
    ∧ (before 9).mayRun 9 = true ∧ (before 9).flashPlan = []
    ∧ (plan.mayRun 9 = true ∧ plan.flashPlan ≠ []) ∧ (before 10).mayRun 10 = true := by decide +kernel

theorem witness_RecoveryAndUpkeep :
    let recov (st : Nat) : Dev := { on with boot := { stage := 2, recovery := true, recovState := st } }
    let slow (mv : Nat) : Dev := { on with
      boot := { stage := 10, remeasureAt := on.time }, power := { on.power with vddCoreMv := mv } }
    let stuck : Dev := { on with chain := { stewardStopped := true } }
    ((recov 0).power.pcieL0 = true ∧ (recov 0).boot.recovery = true ∧ (1 : W32).getLsbD 0 = true
      ∧ (recov 0).boot.recovState ≠ 1 ∧ (recov 0).boot.recovState ≠ 2)
    ∧ ((recov 1).boot.recovery = true ∧ (recov 1).boot.recovState = 1)
    ∧ ((recov 2).boot.recovery = true ∧ (recov 2).boot.recovState = 2)
    ∧ ((slow 795).boot.stage = 10 ∧ (slow 795).chain.stewardStopped = false
      ∧ (slow 795).boot.remeasureAt ≤ (slow 795).time
      ∧ guardPs ≤ minSlack (List.replicate 384 12) (slow 795).quadsInService
      ∧ minSlack (List.replicate 384 11) (slow 795).quadsInService < guardPs ∧ (slow 795).power.vddCoreMv < 800)
    ∧ ((slow 800).boot.stage = 10 ∧ (slow 800).chain.stewardStopped = false
      ∧ (slow 800).boot.remeasureAt ≤ (slow 800).time
      ∧ minSlack (List.replicate 384 11) (slow 800).quadsInService < guardPs ∧ 800 ≤ (slow 800).power.vddCoreMv)
    ∧ (stuck.chain.stewardStopped = true ∧ stuck.boot.stewardRestarting = false ∧ stuck.recorder.queue.length < 256)
    ∧ ({ on with boot := { stewardRestarting := true } } : Dev).boot.stewardRestarting = true := by
  decide +kernel

/-! ## Witnesses: thread groups -/

/-- A group of 32 active lanes at PC 0, whose context is 1. -/
def grp : Group := { stack := [{ pc := 0, rpc := 0xFFFF, mask := 0xFFFFFFFF }], cid := 1, node := 1 }

/-- A live context of pitch 0. -/
def liveCtx : Ctx := { exists_ := true, destroyed := false, pitch := 0, slot := some 0 }

/-- Full service, with a plan that makes pitch 0 valid on quad 0 with VF 1, every granule and way, and hub engine 0; the
device ID is 1. -/
def planned : Dev :=
  { on with plan := { running := some [(0x110, 1), (0x111, 1), (0x113, 1), (0x118, 1)] }
            chain := { idValid := true, devId := 1 }
            host := { ctxs := [(1, liveCtx)] } }

/-- `planned`, with a group in slot 3 of core 0 whose next instruction has the word `w`. -/
def issuing (w : Nat) (g : Group := grp) : Dev :=
  { planned with cores := [(0, { Core.init 0 with slots := [(3, g)], touched := 1 })]
                 mem := { bytes := setBytes [] (imemAddr 0 0) (leBytes 8 w) } }

/-- An unguarded word of an opcode. -/
def word (op : Nat) (rest : Nat := 0) : Nat := op + 0x700 + rest

/-- The instruction word issues on `issuing w`. -/
def Issuable (w op : Nat) (g : Group := grp) : Prop := Issues (issuing w g) 0 3 op g (parseTg w)

/-- As a Bool, so that many words are checked at once. -/
def issuable (w op : Nat) (g : Group := grp) : Bool :=
  let d := issuing w g
  decide (d.chosen 0 = some 3) && decide (d.fetchWord 0 g.pc = w) && decide (tgOp? w = some op) && tgAssigned w
    && decide (g.consumes (parseTg w) = [])

theorem issuable_issues {w op : Nat} {g : Group} (h : issuable w op g = true) : Issuable w op g := by
  simp only [issuable, Bool.and_eq_true, decide_eq_true_eq] at h
  obtain ⟨⟨⟨⟨h1, h2⟩, h3⟩, h4⟩, h5⟩ := h
  exact ⟨h1, rfl, by rw [h2], by rw [h2]; exact h3, by rw [h2]; exact h4, h5⟩

theorem witness_GroupsComeAndGo :
    let nd : Node := { typ := 0, pitch := 0, cid := 1, graph := 1, index := 0 }
    let d : Dev := { planned with cores := [(0, { Core.init 0 with waiting := [{ node := 1, num := 7 }] })]
                                  board := { nodes := [(1, nd)] } }
    let k := d.core 0
    (k.waiting = { node := 1, num := 7 } :: [] ∧ k.freeSlot d.time = some 0 ∧ d.node? 1 = some nd
      ∧ k.lastPlace ≠ some d.time
      ∧ k.saved = false ∧ k.testing = false ∧ (d.ctx nd.cid).live = true)
    ∧ (let g : Group := { grp with stack := [] }
       (issuing 0 g).group? 0 3 = some g ∧ g.stack = [] ∧ g.halted = false ∧ g.stepping ≠ 2
       ∧ (issuing 0 g).groupDrained g = true)
    ∧ (let p : PendWrite := { vals := [], dests := [.t 1], due := on.time }
       let g : Group := { grp with pend := [p], notReady := [.t 1] }
       (issuing 0 g).group? 0 3 = some g ∧ g.pend = [p] ∧ p.due ≤ on.time) := by
  decide +kernel

theorem witness_IntegerInstructions :
    ∀ op ∈ [0x01, 0x02, 0x08, 0x09, 0x0A, 0x0B, 0x0C, 0x0D, 0x0E, 0x10, 0x11, 0x12, 0x14, 0x15, 0x16],
      Issuable (word op) op := fun op h =>
  issuable_issues ((by decide +kernel : ∀ op ∈ [0x01, 0x02, 0x08, 0x09, 0x0A, 0x0B, 0x0C, 0x0D, 0x0E, 0x10, 0x11, 0x12,
    0x14, 0x15, 0x16], issuable (word op) op = true) op h)

theorem witness_FloatInstructions :
    (∀ op ∈ [0x18, 0x19, 0x1A, 0x1B, 0x1C, 0x28], Issuable (word op) op) ∧ Issuable (word 0x24 (2 ^ 40)) 0x24 :=
  ⟨fun op h => issuable_issues ((by decide +kernel : ∀ op ∈ [0x18, 0x19, 0x1A, 0x1B, 0x1C, 0x28],
    issuable (word op) op = true) op h), issuable_issues (by decide +kernel)⟩

/-- Scalar destination and sources. -/
def scalars : Nat := 2 ^ 12 + 2 ^ 19 + 2 ^ 26

theorem witness_PredicateAndLaneInstructions :
    Issuable 0 0x00 ∧ (∀ op ∈ [0x03, 0x20, 0x21, 0x22, 0x2E], Issuable (word op) op)
    ∧ ((parseTg (word 0x03)).ds = false ∧ (parseTg (word 0x03 scalars)).ds = true)
    ∧ Issuable (word 0x03 scalars) 0x03 ∧ Issuable (word 0x2C (2 ^ 12)) 0x2C
    ∧ Issuable (word 0x2D (2 ^ 12 + 2 ^ 26)) 0x2D
    ∧ ((parseTg (word 0x2E)).ds = false ∧ (parseTg (word 0x2E scalars)).ds = true) ∧ Issuable (word 0x2E scalars) 0x2E :=
  ⟨issuable_issues (by decide +kernel), fun op h => issuable_issues ((by decide +kernel :
    ∀ op ∈ [0x03, 0x20, 0x21, 0x22, 0x2E], issuable (word op) op = true) op h), by decide, issuable_issues (by decide +kernel),
    issuable_issues (by decide +kernel), issuable_issues (by decide +kernel), by decide, issuable_issues (by decide +kernel)⟩

/-- A word of format B guarded by p0, which is true in lane 0 only, and by its negation. -/
def branch (op : Nat) (rest : Nat) : Nat := op + rest
def oneLane : Group := { grp with preg := [(0, true)] }

theorem witness_BranchInstructions :
    let taken (w : Nat) (g : Group) := g.active.filter fun l => g.guard (parseTg w) l
    let others (w : Nat) (g : Group) := g.active.filter fun l => !g.guard (parseTg w) l
    (Issuable (word 0x38) 0x38 ∧ others (word 0x38) grp = [])
    ∧ (Issuable (branch 0x38 0) 0x38 ∧ others (branch 0x38 0) grp ≠ [] ∧ taken (branch 0x38 0) grp = [])
    ∧ (Issuable (branch 0x38 0) 0x38 oneLane ∧ others (branch 0x38 0) oneLane ≠ [] ∧ taken (branch 0x38 0) oneLane ≠ []
      ∧ oneLane.stack.length + 2 ≤ 32)
    ∧ (Issuable (branch 0x39 0) 0x39 ∧ taken (branch 0x39 0) grp = [])
    ∧ (Issuable (word 0x39) 0x39 ∧ taken (word 0x39) grp ≠ [] ∧ others (word 0x39) grp = [] ∧ (grp.s 0).toNat ≤ 0xFFFF
      ∧ (grp.s 0).toNat % 8 = 0)
    ∧ Issuable (word 0x3A) 0x3A := by
  refine ⟨⟨issuable_issues (by decide +kernel), by decide +kernel⟩, ⟨issuable_issues (by decide +kernel), by decide +kernel⟩,
    ⟨issuable_issues (by decide +kernel), by decide +kernel⟩, ⟨issuable_issues (by decide +kernel), by decide +kernel⟩,
    ⟨issuable_issues (by decide +kernel), by decide +kernel⟩, issuable_issues (by decide +kernel)⟩

theorem witness_UnassignedEncodingFaults :
    let d := issuing 0xFF
    d.chosen 0 = some 3 ∧ d.group? 0 3 = some grp ∧ tgOp? (d.fetchWord 0 grp.pc) = none ∧ grp.compat = false
    ∧ (d.core 0).flt.valid.bit = false ∧ (d.ctx grp.cid).live = true ∧ (d.ctx grp.cid).fault = 0 := by
  decide +kernel

/-! ## Witnesses: memory instructions -/

/-- A group with lane 0 active alone. -/
def one : Group := { grp with stack := [{ pc := 0, rpc := 0xFFFF, mask := 1 }] }

/-- A line of the device's own stacked memory, as a physical address of device 1 over 128. -/
def line0 : Nat := 2 ^ 37 + 0x40
def pa0 (_l : Nat) : Nat := line0 * 128

/-- `issuing w one`, with a range from address 0 to `pa0` in the range cache of tile 0. -/
def mapped (w : Nat) (k : Core → Core := id) : Dev :=
  let e : RangeEntry := { pstart := line0 * 128, len := 1, valid := true, r := true, w := true, a := true }
  let d := issuing w one
  { d with cores := [(0, k (d.core 0))]
           xl := { d.xl with cache := [(0, [{ pitch := 0, cid := 1, ent := e, used := 0 }])] } }

/-- `InLine`, as a Bool. -/
def inLine (d : Dev) (g : Group) (i : TgInst) : Bool :=
  !(g.memLanes i).isEmpty && decide ((d.pitchCnt ((d.pitchOfCore 0).getD 64)).watch = []) && decide (d.mem.reqs = [])
    && (g.memLanes i).all fun l =>
      decide (g.laneVa i l % i.accBytes = 0 ∧ pa0 l / 128 = line0 ∧ (pa0 l + i.accBytes - 1) / 128 = line0)
        && match d.cacheGet (tileOf 0) ((d.pitchOfCore 0).getD 64) g.cid (g.laneVa i l) with
          | some e => d.allowed i e (g.laneVa i l) && decide (d.direct (e.target (g.laneVa i l)) = pa0 l)
          | none => false

theorem inLine_inLine {d : Dev} {g : Group} {i : TgInst} (h : inLine d g i = true) : InLine d 0 g i line0 pa0 := by
  simp only [inLine, Bool.and_eq_true, List.all_eq_true, decide_eq_true_eq] at h
  obtain ⟨⟨⟨h1, h2⟩, h3⟩, h4⟩ := h
  refine ⟨by rintro h; simp [h] at h1, h2, h3, fun l hl => ?_⟩
  obtain ⟨⟨a, b, c⟩, e⟩ := h4 l hl
  refine ⟨a, b, c, ?_⟩
  split at e
  · rename_i x hx
    simp only [Bool.and_eq_true, decide_eq_true_eq] at e
    exact ⟨x, hx, e.1, e.2⟩
  · simp at e

theorem homeLine0 (w : Nat) (k : Core → Core) : HomeLine (mapped w k) line0 := by
  exact ⟨rfl, rfl⟩

/-- `Issues` of the group of lane 0 on `mapped`. -/
def mappedIssues (w op : Nat) (k : Core → Core := id) : Bool :=
  let d := mapped w k
  decide (d.chosen 0 = some 3) && decide (d.group? 0 3 = some one) && decide (d.fetchWord 0 one.pc = w)
    && decide (tgOp? w = some op) && tgAssigned w && decide (one.consumes (parseTg w) = []) && inLine d one (parseTg w)

theorem mapped_issues {w op : Nat} {k : Core → Core} (h : mappedIssues w op k = true) :
    Issues (mapped w k) 0 3 op one (parseTg w) ∧ InLine (mapped w k) 0 one (parseTg w) line0 pa0
      ∧ HomeLine (mapped w k) line0 := by
  simp only [mappedIssues, Bool.and_eq_true, decide_eq_true_eq] at h
  obtain ⟨⟨⟨⟨⟨⟨h1, h2⟩, h3⟩, h4⟩, h5⟩, h6⟩, h7⟩ := h
  exact ⟨⟨h1, h2, by rw [h3], by rw [h3]; exact h4, by rw [h3]; exact h5, h6⟩, inLine_inLine h7, homeLine0 w k⟩

/-- A core that holds `line0` in its L1. -/
def withLine (k : Core) : Core := { k with l1 := [{ line := 0x40, data := [(0, 0xAB)] }] }

theorem witness_LoadsAndStores :
    (Issues (mapped (word 0x40) withLine) 0 3 0x40 one (parseTg (word 0x40))
      ∧ InLine (mapped (word 0x40) withLine) 0 one (parseTg (word 0x40)) line0 pa0
        ∧ HomeLine (mapped (word 0x40) withLine) line0
      ∧ (parseTg (word 0x40)).mod_ / 16 % 4 = 0
      ∧ ((((mapped (word 0x40) withLine).core 0).l1.find? fun y => y.line == line0 % 2 ^ 37)
          = some { line := 0x40, data := [(0, 0xAB)] })
      ∧ ∀ w ∈ ((mapped (word 0x40) withLine).core 0).wb, w.line ≠ line0)
    ∧ (Issues (mapped (word 0x41)) 0 3 0x41 one (parseTg (word 0x41))
      ∧ InLine (mapped (word 0x41)) 0 one (parseTg (word 0x41)) line0 pa0 ∧ HomeLine (mapped (word 0x41)) line0
      ∧ (parseTg (word 0x41)).mod_ / 16 % 4 = 0 ∧ (∀ w ∈ ((mapped (word 0x41)).core 0).wb, w.line ≠ line0)
      ∧ ((mapped (word 0x41)).core 0).wb.length < 16 ∧ one.memLanes (parseTg (word 0x41)) = [0]) := by
  obtain ⟨a, b, c⟩ := mapped_issues (w := word 0x40) (op := 0x40) (k := withLine) (by decide +kernel)
  obtain ⟨a', b', c'⟩ := mapped_issues (w := word 0x41) (op := 0x41) (k := id) (by decide +kernel)
  exact ⟨⟨a, b, c, by decide +kernel⟩, a', b', c', by decide +kernel⟩

theorem witness_AtomicsPrefetchesAndInvalidations :
    (Issues (mapped (word 0x42)) 0 3 0x42 one (parseTg (word 0x42))
      ∧ InLine (mapped (word 0x42)) 0 one (parseTg (word 0x42)) line0 pa0 ∧ HomeLine (mapped (word 0x42)) line0
      ∧ (parseTg (word 0x42)).mod_ / 64 % 4 = 0 ∧ ((mapped (word 0x42)).core 0).mregs = []
      ∧ ((mapped (word 0x42)).core 0).atoms = [] ∧ ((mapped (word 0x42)).core 0).wb = []
      ∧ (regionOf (localOf (line0 * 128))).isBiv = false)
    ∧ (Issues (mapped (word 0x43 (2 ^ 40))) 0 3 0x43 one (parseTg (word 0x43 (2 ^ 40)))
      ∧ InLine (mapped (word 0x43 (2 ^ 40))) 0 one (parseTg (word 0x43 (2 ^ 40))) line0 pa0
      ∧ HomeLine (mapped (word 0x43 (2 ^ 40))) line0 ∧ (parseTg (word 0x43 (2 ^ 40))).mod_ % 2 = 1)
    ∧ (Issuable (word 0x44 (2 ^ 40)) 0x44 ∧ (parseTg (word 0x44 (2 ^ 40))).mod_ % 2 = 1
      ∧ (issuing (word 0x44 (2 ^ 40))).mem.reqs = []
      ∧ lookup? ((issuing (word 0x44 (2 ^ 40))).core 0).loads 0 = none) := by
  obtain ⟨a, b, c⟩ := mapped_issues (w := word 0x42) (op := 0x42) (k := id) (by decide +kernel)
  obtain ⟨a', b', c'⟩ := mapped_issues (w := word 0x43 (2 ^ 40)) (op := 0x43) (k := id) (by decide +kernel)
  exact ⟨⟨a, b, c, by decide +kernel⟩, ⟨a', b', c', by decide +kernel⟩, issuable_issues (by decide +kernel), by decide +kernel⟩

theorem witness_FencesAndFlags :
    let d (b : Barrier) : Dev := issuing 0 { grp with barriers := [b] }
    (Issuable (word 0x45) 0x45 ∧ (issuing (word 0x45)).mem.reqs = [] ∧ ((issuing (word 0x45)).core 0).wb = [])
    ∧ ((d (.fence 2 [] [])).group? 0 3 = some { grp with barriers := [.fence 2 [] []] }
      ∧ (d (.fence 2 [] [])).fenceClear 0 { grp with barriers := [.fence 2 [] []] } 2 [] [] = true)
    ∧ Issuable (word 0x48 (2 ^ 26)) 0x48 ∧ Issuable (word 0x49 (2 ^ 12 + 2 ^ 26)) 0x49
    ∧ ((d (.flgwait 5 0 2)).group? 0 3 = some { grp with barriers := [.flgwait 5 0 2] }
      ∧ (0 : W32).toNat ≤ ((d (.flgwait 5 0 2)).flagSeen 0 5).1.toNat
      ∧ (d (.flgwait 5 0 2)).bankOk 0 (bankOfUnit (flagOffset 5 / 64 * 64)) 6 = true
      ∧ (let t := (d (.flgwait 5 0 2)).modCore 0 fun k =>
           { k with bankAt := [(bankOfUnit (flagOffset 5 / 64 * 64), on.time)] }
         t.group? 0 3 = some { grp with barriers := [.flgwait 5 0 2] } ∧ (0 : W32).toNat ≤ (t.flagSeen 0 5).1.toNat
         ∧ t.bankOk 0 (bankOfUnit (flagOffset 5 / 64 * 64)) 6 = false))
    ∧ Issuable (word 0x4A (2 ^ 12 + 2 ^ 26)) 0x4A :=
  ⟨⟨issuable_issues (by decide +kernel), by decide +kernel⟩, by decide +kernel, issuable_issues (by decide +kernel),
    issuable_issues (by decide +kernel), by decide +kernel, issuable_issues (by decide +kernel)⟩

theorem witness_WriteBufferDrains :
    let w : WbEntry := { id := 4, line := line0, bytes := [(0, 1)], lastWrite := on.time - 64, cid := 1, slot := 3 }
    let rel : WbEntry := { w with release := some (3, [1], [2]) }
    let sent : WbEntry := { w with tag := some 9 }
    let r : Req := { kind := .write [(0, 1)] [], addr := line0 * 128, org := .drain 0 4, st := 2 }
    let d (w : WbEntry) : Dev := mapped 0 fun k => { k with wb := [w] }
    let d' : Dev := (d sent).setReq 9 r
    (((d w).core 0).wb = [w] ∧ w.draining = false ∧ w.release = none ∧ w.tag = none ∧ w.lastWrite + 64 ≤ (d w).time
      ∧ (d w).mem.reqs = [] ∧ devOf (w.line * 128) = (d w).ownId)
    ∧ (((d rel).core 0).wb = [rel] ∧ rel.release = some (3, [1], [2]) ∧ rel.tag = none ∧ (d rel).group? 0 3 = some one
      ∧ (∀ a ∈ one.accs, a.id ∉ [1]) ∧ rel.id ∉ [2] ∧ ((d rel).ctx one.cid).carriedWrites = 0
      ∧ ((d rel).core 0).atoms = [] ∧ (d rel).mem.reqs = [] ∧ devOf (rel.line * 128) = (d rel).ownId)
    ∧ ((d'.core 0).wb = [sent] ∧ sent.tag = some 9 ∧ d'.mem.reqs = [(9, r)] ∧ r.st = 2 ∧ r.status = 0
      ∧ r.orphan = false ∧ (d'.core 0).stage = none ∧ (d'.core 0).atoms = []) := by
  decide +kernel

theorem witness_ReturnsAndBankGrants :
    let op : LoadOp := { slot := 3, at_ := on.time - 8, width := 4, signed := false, acquire := false, dest := 1
                         lanes := [(0, line0 * 128), (31, line0 * 128 + 124)], await := [9] }
    let a : AtomOp := { slot := 3, op := 0, typ := 0, mark := 0, dest := 1, succPred := 7, remote := true, await := [9]
                        sent := true }
    let r (org : Origin) : Req := { kind := .read, addr := line0 * 128, org := org, st := 2 }
    let dl := (mapped 0 fun k => { k with loads := [(5, op)] }).setReq 9 (r (.load 0 5))
    let da := (mapped 0 fun k => { k with atoms := [(5, a)] }).setReq 9 (r (.atom 0 5))
    let slow : Group := { one with liveDue := true, livePc := 8 }
    let q : SpadReq := { kind := .store 0 3 6 [(4, 0x5A)] [], unit := 0x3C0, own := true, since := on.time }
    let dq := mapped 0 fun k => { k with spadQ := [q] }
    (dl.group? 0 3 = some one ∧ dl.mem.reqs = [(9, r (.load 0 5))] ∧ lookup? (dl.core 0).loads 5 = some op
      ∧ op.slot = 3 ∧ op.got = [] ∧ op.acquire = false ∧ op.at_ + op.minLat ≤ dl.time ∧ op.lanes ≠ []
      ∧ (∀ l ∈ op.lanes, l.2 / 128 = line0 * 128 / 128 ∧ (l.2 + op.width - 1) / 128 = line0 * 128 / 128) ∧ 0 < op.width
      ∧ (op.lanes.map fun l => l.1).Nodup ∧ (dl.core 0).stage = none ∧ (dl.core 0).saved = false)
    ∧ (da.group? 0 3 = some one ∧ da.mem.reqs = [(9, r (.atom 0 5))] ∧ lookup? (da.core 0).atoms 5 = some a ∧ a.slot = 3
      ∧ a.sent = true ∧ a.await = [9] ∧ a.remote = true ∧ (da.core 0).saved = false ∧ (da.core 0).stage = none)
    ∧ ((r (.load 0 5)).st = 2 ∧ (r (.load 0 5)).status = 0 ∧ (r (.atom 0 5)).orphan = false)
    ∧ (let ds := mapped 0 fun k => { k with saved := true }
       ds.group? 0 3 = some one ∧ (ds.core 0).saved = true)
    ∧ ((issuing 0 slow).group? 0 3 = some slow ∧ slow.liveDue = true ∧ slow.halted = false ∧ slow.compat = false
      ∧ ((issuing 0 slow).core 0).flt.valid.bit = false ∧ ((issuing 0 slow).ctx slow.cid).live = true)
    ∧ (dq.group? 0 3 = some one ∧ (dq.core 0).spadQ = [q] ∧ bankOfUnit q.unit = 15
      ∧ q.kind = .store 0 3 6 [(4, 0x5A)] [] ∧ dq.bankOk 0 15 (q.cls dq.time) = true ∧ (dq.core 0).bankWait = []
      ∧ (dq.core 0).testing = false ∧ (dq.core 0).stage = none ∧ q.unit + 64 ≤ 0x200000) := by
  decide +kernel

/-! ## Witnesses: the array -/

/-- `planned`, with an array program of context 1 in core 0 at PC 0 whose next word is `w`, and a descriptor at offset
0x40 of the scratchpad. -/
def program (w : Nat) (desc : List Byte := []) (q : Seq := { st := 1, cid := 1, node := 1, base := [(0, 0x40)] })
    (k : Core → Core := id) : Dev :=
  { planned with cores := [(0, k { Core.init 0 with seq := q, block := { fmt := 5 }, touched := 1 })]
                 mem := { bytes := setBytes (setBytes [] (imemAddr 0 0) (leBytes 8 w)) (spadAddr 0 0x40) desc } }

/-- `SeqIssues`, as a Bool. -/
def seqIssuable (d : Dev) (op w : Nat) : Bool :=
  let q := (d.core 0).seq
  d.seqMay 0 && decide (w = d.fetchWord 0 q.pc) && decide (seqOp? w = some op) && seqWordOk q.pc w && q.unitFree w

theorem seqIssuable_issues {d : Dev} {op w : Nat} (h : seqIssuable d op w = true) : SeqIssues d 0 op w := by
  simp only [seqIssuable, Bool.and_eq_true, decide_eq_true_eq] at h
  exact ⟨h.1.1.1.1, h.1.1.1.2, h.1.1.2, h.1.2, h.2⟩

/-- A LOOP of 2 turns up to 0x10, and a WAIT of the greatest length. -/
def loopWord : Nat := 0x0C + 2 * 2 ^ 16 + 0x10 * 2 ^ 32
def waitWord : Nat := 0x01 + 0xFFFFFF * 2 ^ 8

theorem witness_SequencerInstructions :
    (∀ op ∈ [0x00, 0x08, 0x09, 0x41, 0x7F], SeqIssues (program op) 0 op op)
    ∧ SeqIssues (program waitWord) 0 0x01 waitWord
    ∧ (loopWord / 2 ^ 16 % 2 ^ 16 ≠ 0 ∧ SeqIssues (program loopWord) 0 0x0C loopWord)
    ∧ ((0x0C + 0x10 * 2 ^ 32) / 2 ^ 16 % 2 ^ 16 = 0
      ∧ SeqIssues (program (0x0C + 0x10 * 2 ^ 32)) 0 0x0C (0x0C + 0x10 * 2 ^ 32))
    ∧ (((program 0x41).waitfSees 0 0x41).2 = false ∧ (program 0x41).waitfReady 0 0x41 = true)
    ∧ (let d := program 0x41 [] { st := 3, cid := 1 }
       SeqIssues d 0 0x41 0x41 ∧ (d.core 0).seq.st = 3)
    ∧ (let q := ((program 0 [] { st := 1, cid := 1, waiting := true, ac := 5, issueAt := 5 }).core 0).seq
       q.waiting = true ∧ q.issueAt ≤ q.ac) :=
  ⟨fun op h => seqIssuable_issues ((by decide +kernel : ∀ op ∈ [0x00, 0x08, 0x09, 0x41, 0x7F],
    seqIssuable (program op) op op = true) op h), seqIssuable_issues (by decide +kernel),
    ⟨by decide, seqIssuable_issues (by decide +kernel)⟩, ⟨by decide, seqIssuable_issues (by decide +kernel)⟩,
    by decide +kernel, ⟨seqIssuable_issues (by decide +kernel), by decide +kernel⟩, by decide +kernel⟩

/-- A stationary descriptor of OFP8 E4M3 rows at offset 0, and a drain descriptor of 64 rows. -/
def statDesc : List Byte := zeros 16 ++ [5] ++ zeros 15
def drainDesc : List Byte := zeros 0x18 ++ [2, 0, 64] ++ zeros 5

/-- What an array instruction asks of its descriptor's bank is granted. -/
abbrev Grants (d : Dev) (off : Nat) : Prop := Granted (fetched d 0) 0 4 0 (unitsOf off 32)

theorem witness_StationaryLoads :
    let held : Seq := { st := 2, cid := 1, node := 1, base := [(0, 0x40)] }
    let l : LoadFl := { n := 0, src := 0, stride := 0, scl := 0, sclStride := 0, done := 64 }
    let loaded : Seq := { st := 1, cid := 1, ac := 64, load := some l }
    (∀ op ∈ [0x10, 0x11], SeqIssues (program op statDesc) 0 op op)
    ∧ ((program 0x10 statDesc).seqRead 0 (((program 0x10 statDesc).core 0).seq.descOff 0 0) 32 = (statDesc, false)
      ∧ ((program 0x10 statDesc).core 0).seq.statOk statDesc false = true
      ∧ ((program 0x10 statDesc).core 0).seq.statOk statDesc true = true)
    ∧ ((∀ op ∈ [0x10, 0x11], Grants (program op statDesc) 0x40 ∧ Grants (program op statDesc held) 0x40)
      ∧ Mild [(0x40, .corrected)])
    ∧ (let d := program 0x10 statDesc { st := 1, cid := 1, node := 1, base := [(0, 0x40)] } fun k =>
         { k with bankAt := [(1, on.time)] }
       SeqIssues d 0 0x10 0x10 ∧ (d.core 0).seq.descOff 0 0 = 0x40 ∧ ¬ Grants d 0x40)
    ∧ (∀ op ∈ [0x10, 0x11], SeqIssues (program op statDesc held) 0 op op) ∧ held.st = 2
    ∧ ((program 0 [] loaded).arrayRuns 0 = true ∧ loaded.load = some l ∧ l.done = 64 ∧ l.n + 64 ≤ loaded.ac)
    ∧ (program 0 [] loaded fun k => { k with saved := true }).arrayRuns 0 = false :=
  ⟨fun op h => seqIssuable_issues ((by decide +kernel : ∀ op ∈ [0x10, 0x11],
      seqIssuable (program op statDesc) op op = true) op h), by decide +kernel,
    ⟨by unfold Grants Granted; decide +kernel, by unfold Mild; decide +kernel⟩,
    ⟨seqIssuable_issues (by decide +kernel), by decide +kernel, by unfold Grants Granted; decide +kernel⟩,
    fun op h => seqIssuable_issues ((by decide +kernel : ∀ op ∈ [0x10, 0x11],
      seqIssuable (program op statDesc { st := 2, cid := 1, node := 1, base := [(0, 0x40)] }) op op = true) op h),
    by decide +kernel⟩

/-- A PASS of 64 rows, and one of none that clears tile 3. -/
def passWord : Nat := 0x20 + 64 * 2 ^ 12
def noPassWord : Nat := 0x20 + 3 * 2 ^ 8 + 2 ^ 10
def passDesc : List Byte := [5] ++ zeros 31

theorem witness_PassesAndDrains :
    let desc (d : Dev) := d.seqRead 0 ((d.core 0).seq.descOff 0 0) 32
    (SeqIssues (program passWord passDesc) 0 0x20 passWord ∧ desc (program passWord passDesc) = (passDesc, false)
      ∧ passOk passDesc ((program passWord passDesc).core 0).block.fmt 0x40 = true ∧ passWord / 2 ^ 12 % 2 ^ 7 ≠ 0
      ∧ Grants (program passWord passDesc) 0x40)
    ∧ (SeqIssues (program noPassWord passDesc) 0 0x20 noPassWord ∧ desc (program noPassWord passDesc) = (passDesc, false)
      ∧ noPassWord / 2 ^ 12 % 2 ^ 7 = 0 ∧ Grants (program noPassWord passDesc) 0x40)
    ∧ SeqIssues (program (0x30 + 3 * 2 ^ 8)) 0 0x30 (0x30 + 3 * 2 ^ 8)
    ∧ (SeqIssues (program 0x31 drainDesc) 0 0x31 0x31 ∧ desc (program 0x31 drainDesc) = (drainDesc, false)
      ∧ ((program 0x31 drainDesc).core 0).seq.drainOk drainDesc = true
        ∧ ((program 0x31 drainDesc).core 0).seq.audit = false
      ∧ Grants (program 0x31 drainDesc) 0x40) :=
  ⟨⟨seqIssuable_issues (by decide +kernel), by unfold Grants Granted; decide +kernel⟩,
    ⟨seqIssuable_issues (by decide +kernel), by unfold Grants Granted; decide +kernel⟩,
    seqIssuable_issues (by decide +kernel), seqIssuable_issues (by decide +kernel), by unfold Grants Granted; decide +kernel⟩

theorem witness_RowsEnterAndLeave :
    let p : PassFl := { n := 0, k := 1, m := 64, tile := 3, clear := false, row0 := 0, rstride := 64, scl := 0, sclStride := 0
                        sfmt := 7, blk := { fmt := 7 } }
    let entered : PassFl := { p with rows := [{}] }
    let x : DrainFl := { n := 0, rows := 64, dst := 0, dstride := 256, dscl := 0, dsclStride := 0, ofmt := 2, stoch := false }
    let q (p : List PassFl) (x : List DrainFl) : Seq := { st := 1, cid := 1, ac := 600, passes := p, drains := x }
    let d (p : List PassFl) (x : List DrainFl) : Dev := program 0x40 [] (q p x)
    ((d [p] []).arrayRuns 0 = true ∧ (q [p] []).enterDue = some p ∧ Granted (d [p] []) 0 4 1 (q [p] []).enterUnits)
    ∧ ((q [entered] []).writeDue = some entered ∧ entered.rows[entered.written]? = some {} ∧ entered.clear = false
      ∧ (d [entered] []).arrayRuns 0 = true ∧ (d [entered] []).aclrFirst 0 3 = false)
    ∧ (let us := [Upset.sum 0 0 1, Upset.sum 63 0 1]
       failing (rowSums entered {} us) = (0, 0) :: [(63, 0)] ∧ entered.tile < 4 ∧ entered.written < 64
       ∧ ((d [entered] []).core 0).resValid.bit = false ∧ ((d [entered] []).core 0).flt.valid.bit = false
       ∧ (q [entered] []).compat = false ∧ ((d [entered] []).ctx 1).live = true)
    ∧ ((q [] [x]).convDue = some x ∧ x.add = none ∧ (d [] [x]).arrayRuns 0 = true
      ∧ Granted (d [] [x]) 0 3 4 (q [] [x]).convertUnits)
    ∧ (seqIssuable (d [] []) 0x40 0x40 = true ∧ Granted (fetched (d [] []) 0) 0 4 0 [flagOffset 0 / 64 * 64]) := by
  unfold Granted; decide +kernel

theorem witness_ArrayPrograms :
    let nd : Node := { typ := 0, pitch := 0, cid := 1, graph := 1, index := 0 }
    let d : Dev := { planned with cores := [(0, { Core.init 0 with progQueue := [1] })], board := { nodes := [(1, nd)] } }
    let q : Seq := { st := 1, cid := 1, node := 1, ac := 90, endAt := some 90 }
    let d' : Dev := { program 0x7F [] q with board := { nodes := [(1, nd)] } }
    ((d.core 0).progQueue = 1 :: [] ∧ d.node? 1 = some nd ∧ (d.core 0).seq.st = 0 ∧ (d.core 0).saved = false
      ∧ (d.core 0).testing = false ∧ (d.ctx nd.cid).live = true ∧ d.checksPending 0 = false)
    ∧ (q.endAt = some 90 ∧ 90 ≤ q.ac ∧ q.writeDue = none ∧ q.convDue = none ∧ d'.arrayRuns 0 = true ∧ q.load = none
      ∧ d'.node? q.node = some nd) := by
  decide +kernel

/-! ## Witnesses: registers and control -/

theorem witness_ReadClearsAndWriteOneClears :
    let r : Rc := { held := 3, fresh := 1, at_ := 5 }
    (r.at_ < 6 ∧ 6 < 7 ∧ r.held + r.fresh ≤ 4) ∧ r.held + r.fresh + 1 ≤ 5 ∧ (6 : Nat) ≠ 7 := by decide

theorem witness_RegisterAccesses :
    let off := coreBase + 0x1000 * 255 + 0x410
    (on.canRead 3 0x44 = false) ∧ on.canRead 0 0x44 = true
    ∧ (on.canRead 0 off = true ∧ on.reach 0 = true ∧ on.boot.recovery = false ∧ (0x80000000 : W64).getLsbD 31 = true)
    ∧ (let d := issuing 0
       let o := { d with sec := { unlocked := 1 } }
       o.canRead 0 (coreBase + 0x450) = true ∧ o.reachDbg 0 0 = true)
    ∧ on.reachCmd 0 .dbg = true
    ∧ (on.reachPf 0 = true ∧ on.fullService = true ∧ ∀ x ∈ on.host.ctxs, x.2.slot = none)
    ∧ (∃ x ∈ ({ on with host := { ctxs := [(1, { slot := some 0 })] } } : Dev).host.ctxs, x.2.slot ≠ none) := by
  decide +kernel

theorem witness_StagedPairs :
    let q : Queue := { head := 5, tail := 5 }
    let d := { planned with host := { ctxs := [(4095, { liveCtx with queues := [(7, q)] })] } }
    let t := { on with xl := { granKind := [(0, 1)] } }
    (d.reachPf 0 = true ∧ 4095 < 4096 ∧ (on.ctx 4095).exists_ = false)
    ∧ (let i := on.modFunc 0 fun f => { f with xlInval := some (4095, 0, [], [], []) }
       i.invalHeld 4095 = true)
    ∧ (0 : W32).toNat % 2 ^ 25 = 0
    ∧ (t.reachPf 0 = true ∧ (4096 : W32).toNat % 2 ^ 13 ≤ 4096 ∧ t.invalHeld 4095 = false
      ∧ (t.ctx 4095).rtabShadow + 32 * 4096 ≤ 0x400000000 ∧ (t.ctx 4095).rtabShadow < 0x400000000
      ∧ allGrans (t.ctx 4095).rtabShadow (32 * 4096) (fun g => t.granKind g == 1) = true)
    ∧ (d.reachCtx 0 4095 = true ∧ (d.ctx 4095).exists_ = true ∧ (d.ctx 4095).dying = false
      ∧ (d.queue 4095 7).head = (d.queue 4095 7).tail ∧ 6 ≤ (16 : W32).toNat % 2 ^ 5 ∧ (16 : W32).toNat % 2 ^ 5 ≤ 16)
    ∧ ((0x1000000 : W32).toNat % 2 ^ 25 ≤ 2 ^ 24 ∧ d.edgesSpilled 4095 = 0
      ∧ (d.ctx 4095).spillShadow * 4096 + 4 * 2 ^ 24 ≤ 0x400000000
      ∧ allGrans ((d.ctx 4095).spillShadow * 4096) (4 * 2 ^ 24) (fun g => d.granOwner g == some (d.ctx 4095).pitch) = true)
    ∧ (d.reachCore 0 255 = true ∧ ((1 : W32) ++ (d.core 255).seedLoShadow : W64) ≠ 0
      ∧ (let z := d.modCore 255 fun k => { k with seedLoShadow := 0 }
         ((0 : W32) ++ (z.core 255).seedLoShadow : W64) = 0)) := by
  decide +kernel

theorem witness_CountersAndSamples :
    let pcs : Pcs := { ctl := 3 + 8 * 2 ^ 8 + 12 * 2 ^ 16 }
    let d := { planned with cnt := [(0, { prog := [(7, { selShadow := 0x1F })], pcs := pcs
                                          watch := [(7, { shadow := 2 ^ 59 + 2 ^ 56 + 8 })] })] }
    (d.reachPitch 0 0 = true ∧ 7 < 8 ∧ (tget ({} : ProgCounter) (d.pitchCnt 0).prog 7).selShadow ≤ 0x1F
      ∧ (0 : W64).getLsbD 35 = false)
    ∧ (let w := tget ({} : Watch) (d.pitchCnt 0).watch 7
       w.shadow.toNat % 2 ^ 56 ≤ (8 : W64).toNat % 2 ^ 56 ∧ w.shadow.toNat / 2 ^ 56 % 8 ≠ 0)
    ∧ ((BitVec.ofNat 32 (24 * 2 ^ 8 + 30 * 2 ^ 16)).toNat / 2 ^ 16 % 2 ^ 5 ≤ 30
      ∧ (d.pitchCnt 0).pcs.shadow.toNat + 2 ^ 30 ≤ 0x400000000
      ∧ allGrans (d.pitchCnt 0).pcs.shadow.toNat (2 ^ 30) (fun g => d.granOwner g == some 0) = true)
    ∧ (d.pitchValid 0 = true ∧ pcs.ctl.getLsbD 0 = true ∧ pcs.ctl.getLsbD 1 = true ∧ pcs.ctl.getLsbD 2 = false
      ∧ pcs.stopped = false ∧ d.hubCc % 2 ^ (pcs.ctl.toNat / 2 ^ 8 % 2 ^ 5) = 0 ∧ pcs.sampledAt ≠ some d.hubCc
      ∧ d.mem.reqs = [] ∧ d.coresOf 0 ≠ [] ∧ (d.coresOf 0).length ≤ 256
      ∧ ∀ core ∈ d.coresOf 0, (d.core core).saved = false) := by
  decide +kernel

theorem witness_EventRecorder :
    let e : Event := { kind := 0x12, sev := 0, unit := 0, detail := 720, time := on.time - 2 }
    let r : Recorder := { queue := [e], bins := [(5, e.newBin)] }
    let d : Dev := { on with recorder := r }
    let k (b : Nat × Bin) : Bool := b.2.kind == e.kind && b.2.unit == e.unit
    (r.queue = e :: [] ∧ e.time / 2 < d.hubCc / 2 ∧ r.lastApply ≠ some (d.hubCc / 2))
    ∧ (∀ odd ∈ [0, 1], ∃ t ∈ [0, 1], ({ d with time := d.time + t } : Dev).hubCc % 2 = odd)
    ∧ (({ r with applying := some e }).applying = some e ∧ r.bins.find? k = some (5, e.newBin))
    ∧ (([] : Tab Bin).find? k = none ∧ freeBin [] = some 0) ∧ d.reachPf 0 = true
    ∧ (r.done = true ∧ (16 : W32).toNat % 32 ≠ 0 ∧ (16 : W32).toNat % 32 ≤ 16)
    ∧ ({ r with scan := some r.bins }).scan = some r.bins := by
  decide +kernel

theorem witness_LinkKeys :
    let q : Port := { keys := [(0, { loaded := true, check := some (Config.aesZeroBlock 0) })] }
    (on.reachPf 0 = true ∧ 11 < 12) ∧ ((on.port 11).keyCommitOk 2 = true ∧ (2 : W32).getLsbD 1 = true)
    ∧ (q.keyCommitOk 4 = true ∧ (4 : W32).getLsbD 1 = false ∧ (4 : W32).getLsbD 2 = true)
    ∧ ((on.port 11).keyCommitOk 0 = true ∧ (0 : W32).getLsbD 2 = false) ∧ (on.port 11).keyCommitOk 4 = false := by
  refine ⟨by decide +kernel, by decide +kernel, ⟨?_, by decide, by decide⟩, by decide +kernel, by decide +kernel⟩
  simp [Port.keyCommitOk, Port.key, KeySlot.matches, tget, lookup?, b2n, BitVec.getLsbD, Nat.testBit, Port.keyCtlBit]

/-- A plan in which pitch 0 has every quad, granule and way. -/
def wholePlan : Tab Byte := [(0x110, 1), (0x111, 1), (0x113, 1)] ++ (List.range 8).map fun i => (0x118 + i, 0xFF)

theorem wholePlan_byte {o : Nat} (h : 0x120 ≤ o) : tget 0#8 wholePlan o = 0#8 := by
  have e : wholePlan = [(0x110, 1), (0x111, 1), (0x113, 1), (0x118, 0xFF), (0x119, 0xFF), (0x11A, 0xFF), (0x11B, 0xFF),
    (0x11C, 0xFF), (0x11D, 0xFF), (0x11E, 0xFF), (0x11F, 0xFF)] := by decide
  have hne : ∀ k, k < 0x120 → ¬ k = o := by omega
  simp only [e, tget, lookup?, hne _ (by decide : (0x110 : Nat) < 0x120), hne _ (by decide : (0x111 : Nat) < 0x120),
    hne _ (by decide : (0x113 : Nat) < 0x120), hne _ (by decide : (0x118 : Nat) < 0x120),
    hne _ (by decide : (0x119 : Nat) < 0x120), hne _ (by decide : (0x11A : Nat) < 0x120),
    hne _ (by decide : (0x11B : Nat) < 0x120), hne _ (by decide : (0x11C : Nat) < 0x120),
    hne _ (by decide : (0x11D : Nat) < 0x120), hne _ (by decide : (0x11E : Nat) < 0x120),
    hne _ (by decide : (0x11F : Nat) < 0x120), if_false, Option.getD_none]

theorem wholePlan_route (i : Nat) : planRoute wholePlan i = 0 := by
  simp [planRoute, planNat, List.range_succ, wholePlan_byte (o := 0x15D0 + 2 * i) (by omega),
    wholePlan_byte (o := 0x15D0 + 2 * i + 1) (by omega), leNat]

theorem wholePlan_orphan (o : Nat) : orphanBad wholePlan o = false := by
  have v0 : planValid wholePlan 0 = true := by decide
  unfold orphanBad
  by_cases h : 0x120 ≤ o
  · simp [planByte, wholePlan_byte h, v0]
  · have h1 : ¬ 0x1120 ≤ o := by omega
    have h2 : ¬ 0x11B0 ≤ o := by omega
    have h3 : ¬ 0x12C0 ≤ o := by omega
    have h4 : ¬ 0x35E0 ≤ o := by omega
    have h5 : ¬ 0x3900 ≤ o := by omega
    simp [h1, h2, h3, h4, h5]

/-- `on` with a commit of the whole plan that has come to phase B. -/
def atPhaseB : Dev :=
  { on with plan := { commit := some { phase := 2, bytes := wholePlan, order := [(0, List.range 64)] } } }

theorem wholePlan_orphans : (atPhaseB.planChecks wholePlan)[3]? = some none := by
  show some (((List.range 0x3D00).find? (orphanBad wholePlan)).map fun o => (0x16, o / 16)) = some none
  rw [List.find?_eq_none.2 fun o _ => by rw [wholePlan_orphan]; decide]
  rfl

theorem wholePlan_routes : (atPhaseB.planChecks wholePlan)[12]? = some none := by
  show some (((List.range 4096).find? fun i => atPhaseB.routeBad wholePlan i).map fun i => (0x30, i)) = some none
  rw [List.find?_eq_none.2 fun i _ => by
    simp [Dev.routeBad, wholePlan_route, show atPhaseB.offFabric = true by decide, routeValid, bit]]
  rfl

theorem wholePlan_ports : (atPhaseB.planChecks wholePlan)[13]? = some none := by
  show some (((List.range 4096).find? fun i => atPhaseB.routePortBad wholePlan i).map fun i => (0x31, i)) = some none
  rw [List.find?_eq_none.2 fun i _ => by simp [Dev.routePortBad, wholePlan_route, routeValid, bit]]
  rfl

theorem wholePlan_others : ∀ k ∈ [0, 1, 2, 4, 5, 6, 7, 8, 9, 10, 11, 14, 15, 16, 17, 18],
    (atPhaseB.planChecks wholePlan)[k]? = some none := by decide +kernel

theorem wholePlan_checks : ((atPhaseB.planChecks wholePlan).find? fun c => c.isSome) = none := by
  refine List.find?_eq_none.2 fun c hc => ?_
  obtain ⟨k, h⟩ := List.mem_iff_getElem?.1 hc
  have hk : k < 19 := (List.getElem?_eq_some_iff.1 h).1
  have : (atPhaseB.planChecks wholePlan)[k]? = some none := by
    by_cases h3 : k = 3
    · rw [h3, wholePlan_orphans]
    by_cases h12 : k = 12
    · rw [h12, wholePlan_routes]
    by_cases h13 : k = 13
    · rw [h13, wholePlan_ports]
    exact wholePlan_others k (by simp only [List.mem_cons, List.not_mem_nil, or_false]; omega)
  rw [h] at this
  cases this
  decide

theorem planPhaseB_passes {d : Dev} {pl : Tab Byte} {order : Tab (List Nat)} (h1 : planPhaseB1 pl = none)
    (h2 : d.retiredIn pl = []) (h3 : ((d.planChecks pl).find? fun c => c.isSome) = none) :
    ∃ f, d.planPhaseB pl order = .inl f :=
  ⟨{ bytes := pl, order := order, replaced := [] }, by simp only [Dev.planPhaseB, h1, h2, Dev.replaceRetired, h3]⟩

theorem wholePlan_passes : ∃ f, atPhaseB.planPhaseB wholePlan [(0, List.range 64)] = .inl f :=
  planPhaseB_passes (by decide +kernel) (by decide +kernel) wholePlan_checks

theorem witness_SitePlanCommits :
    let d (c : Commit) : Dev := { on with plan := { commit := some c } }
    let quiet (d : Dev) := d.mem.reqs = [] ∧ d.sec.dbgHeld = none ∧ d.plan.keptDoorbells = [] ∧ d.host.preWaiting = none
      ∧ d.plan.recommitDue = [] ∧ ∀ f, (d.func f).bar4Held = [] ∧ (d.func f).xlMap = none ∧ (d.func f).xlWait = none
    (on.reach 65 = true ∧ isPf 65 = true ∧ on.plan.commit = none ∧ (1 : W32).getLsbD 0 = true)
    ∧ ((∀ c, quiet (d c)) ∧ ∀ c, (d c).plan.commit = some c)
    ∧ (let c : Commit := { phase := 2, bytes := wholePlan, order := [(0, List.range 64)] }
       c.reason = 0 ∧ c.phase = 2 ∧ d c = atPhaseB
       ∧ (∃ f, atPhaseB.planPhaseB c.bytes c.order = .inl f) ∧ (∀ x, atPhaseB.pitchHasCtxs x = false)
       ∧ atPhaseB.mem.reqs = [])
    ∧ ({ reason := 5 } : Commit).reason ≠ 0
    ∧ (let c : Commit := { phase := 1, startAt := on.time - 1 }
       c.reason = 0 ∧ c.phase = 1 ∧ c.startAt < (d c).time ∧ ∃ e, (d c).planPhaseA c.bytes = some e ∧ e.1 ≠ 0)
    ∧ (let c : Commit := { phase := 2, startAt := on.time - 1 }
       c.reason = 0 ∧ c.phase = 2 ∧ c.bySteward = false ∧ c.startAt < (d c).time
       ∧ ∃ e, (d c).planPhaseB c.bytes c.order = .inr e ∧ e.1 ≠ 0)
    ∧ (let c : Commit := { phase := 5, startAt := on.time }
       c.reason = 0 ∧ c.phase ≠ 6 ∧ (d c).time ≤ c.startAt)
    ∧ (let c : Commit := { phase := 5, startAt := on.time - 1 }
       c.reason = 0 ∧ c.phase = 5 ∧ c.startAt < (d c).time ∧ c.changed = [] ∧ c.saved = [])
    ∧ (let c : Commit := { phase := 6 }
       c.reason = 0 ∧ c.phase = 6 ∧ c.saved = []) := by
  intro d quiet
  refine ⟨by decide +kernel, ⟨fun c => ⟨rfl, rfl, rfl, rfl, rfl, fun f => ⟨rfl, rfl, rfl⟩⟩, fun c => rfl⟩,
    ⟨rfl, rfl, rfl, wholePlan_passes, fun x => rfl, rfl⟩, by decide, ⟨rfl, rfl, by decide +kernel, ?_⟩,
    ⟨rfl, rfl, rfl, by decide +kernel, ?_⟩, by decide +kernel, by decide +kernel, by decide +kernel⟩
  · exact ⟨(0x01, 0), by decide +kernel⟩
  · exact ⟨(0x16, 0x112), by decide +kernel⟩

theorem witness_Debugging :
    let stopped : Group := { grp with halted := true, haltCode := 2 }
    let stepped : Group := { grp with stepping := 2 }
    let justNow : Group := { stopped with haltedAt := some on.time }
    let open_ (g : Group) : Dev := { issuing 0 g with
      sec := { unlocked := 1 }, cores := [(0, { (issuing 0 g).core 0 with dbgSlot := 3
                                                                          dbgRsel := BitVec.ofNat 32 (2 ^ 16 * 31 + 2 ^ 8 * 63) })] }
    ((open_ stopped).reachDbg 0 0 = true ∧ (open_ stopped).group? 0 3 = some stopped ∧ stopped.halted = true
      ∧ stopped.haltedAt ≠ some (open_ stopped).time
      ∧ ((open_ stopped).ctx stopped.cid).live = true ∧ ((open_ stopped).ctx stopped.cid).fault = 0
      ∧ ((open_ stopped).core 0).dbgSlot = 3
        ∧ ((open_ stopped).core 0).dbgRsel = BitVec.ofNat 32 (2 ^ 16 * 31 + 2 ^ 8 * 63))
    ∧ ((open_ grp).reachDbg 0 0 = true ∧ (open_ grp).group? 0 3 = some grp ∧ grp.halted = false)
    ∧ ((open_ justNow).group? 0 3 = some justNow ∧ justNow.haltedAt = some (open_ justNow).time)
    ∧ (let k := { (open_ stepped).core 0 with dbgResult := 2 }
       k.dbgSlot = 3 ∧ k.dbgResult = 2)
    ∧ ((open_ stepped).group? 0 3 = some stepped ∧ stepped.stepping = 2 ∧ stepped.pend = [] ∧ stepped.notReady = []
      ∧ ((open_ stepped).core 0).stage = none)
    ∧ ((open_ grp).reachCtx 0 1 = true ∧ ((open_ grp).ctx 1).exists_ = true) := by
  decide +kernel

/-! ## Witnesses: homes, repairs, translation -/

/-- A line of tile 0's memory that the canopy holds in way 31 of its set, and a request for it. -/
def heldLine : CanLine := { line := 0x40, data := [(0, 0xFE), (127, 1)] }
def held (r : Req) (k : Core → Core := id) : Dev :=
  { planned with mem := { reqs := [(9, r)], canopy := [(canKey 0 0x40 31, heldLine)] }
                 cores := [(0, k (Core.init 0))] }
def reqFor (kind : ReqKind) (org : Origin) : Req := { kind := kind, addr := line0 * 128, org := org, pitch := some 0 }

/-- The common hypotheses of the clauses about a held line. -/
def atHome (r : Req) (k : Core → Core := id) : Bool :=
  let d := held r k
  decide (d.mem.reqs = [(9, r)] ∧ r.st = 0 ∧ r.dev = none ∧ r.orphan = false ∧ r.status = 0) && !d.repairing 0x40
    && (regionOf (localOf r.addr)).cached && localOf r.addr / 128 == 0x40 && d.canFind 0x40 == some (canKey 0 0x40 31)
    && lookup? d.mem.canopy (canKey 0 0x40 31) == some heldLine && d.homeTurn 9 r

theorem witness_HomeAccesses :
    let miss : Dev := { planned with mem := { reqs := [(9, reqFor .read (.fill 0 0))] } }
    let sub : AtomSub := { addr := 0x40 * 128 + 124, lanes := [(31, 5, 0)] }
    let a : AtomOp := { slot := 3, op := 7, typ := 5, mark := 0, dest := 0, succPred := 7 }
    let cas := reqFor (.atomic 7 5 [sub]) (.atom 0 2)
    let add : Req := { reqFor (.addWrite 0 [(0, 1), (1, 0), (2, 0), (3, 0)] []) (.desc 4) with len := 4 }
    (miss.mem.reqs = [(9, reqFor .read (.fill 0 0))] ∧ miss.canFind 0x40 = none ∧ miss.mem.fetches = []
      ∧ miss.bivFailed 0x40 = false ∧ miss.repairing 0x40 = false ∧ miss.homeTurn 9 (reqFor .read (.fill 0 0)) = true)
    ∧ (let other := { reqFor .read (.load 0 2) with pitch := some 5 }
       (held other).mem.reqs = [(9, other)] ∧ (held other).repairing 0x40 = false ∧ (held other).homeTurn 9 other = false)
    ∧ atHome (reqFor .read (.load 0 2)) = true
    ∧ (atHome (reqFor (.write [(127, 2)] []) (.drain 0 2)) = true ∧ line0 * 128 % 128 = 0
      ∧ [(127, (2 : Byte))].map (fun b => b.1) = [127])
    ∧ (atHome cas (fun k => { k with atoms := [(2, a)] }) = true
      ∧ lookup? ((held cas fun k => { k with atoms := [(2, a)] }).core 0).atoms 2 = some a ∧ sub.addr / 128 = 0x40
      ∧ sub.addr % 128 + 4 ≤ 128 ∧ heldLine.pois0 = false ∧ heldLine.pois1 = false ∧ sub.pois = false)
    ∧ (atHome add = true ∧ add.len = 4 ∧ localOf add.addr % 128 % 4 = 0 ∧ (held add).quarantined 0x40 = false
      ∧ (held add).mem.fetches = [])
    ∧ (atHome (reqFor (.pegSignal 1) .board) = true ∧ localOf (line0 * 128) % 128 % 8 = 0) := by
  decide +kernel

theorem witness_MemoryPorts :
    let r : Req := { kind := .read, addr := line0 * 128, org := .load 0 2, st := 1 }
    let b (line : Nat) : Req := { r with addr := 2 ^ 44 + line * 128 }
    let d : Dev := { planned with mem := { reqs := [(9, r)], fetches := [(0x40, [9])] } }
    let late := on.time - ccUs 400
    let bl := bivBase / 128
    let db : Dev := { planned with mem := { reqs := [(9, b bl)], fetches := [(bl, [9])]
                                            biv := [(0, { st := 1, pending := [(bl, late)] })] } }
    let dw : Dev := { on with mem := { biv := [(1, { st := 1, writes := [(bl + 2 ^ 33, late + 1)] })] } }
    let ds : Dev := { on with mem := { symErr := [(5, 3)], tiles := [(3, { rewriteQ := [5], scrubPos := tileSectors - 1 })] } }
    (d.mem.reqs = [(9, r)] ∧ d.mem.fetches = [(0x40, [9])] ∧ r.st = 1 ∧ r.dev = none ∧ d.allocKeys r.pitch 0x40 = []
      ∧ r.resp = [] ∧ r.respPois = [] ∧ 0x40 * 128 < 0x400000000 ∧ d.quarantined 0x40 = false
      ∧ tget 0 d.mem.symErr (2 * 0x40) = 0 ∧ tget 0 d.mem.symErr (2 * 0x40 + 1) = 0 ∧ d.anyPois (0x40 * 128) 128 = false
      ∧ (∀ p, r.pitch = some p → d.meshHas (portKey 0x40).1 p = true)
      ∧ d.repairable 0x40 = false ∧ d.granKind (0x40 * 128 / 0x4000000) ≠ 2)
    ∧ ((ds.tileMem 3).rewriteQ = 5 :: [] ∧ ds.meshHas 3 0xFF = true ∧ tget 0 ds.mem.symErr 5 ≤ 3)
    ∧ (ds.power.porReleased = true ∧ 5 ≤ ds.boot.stage ∧ ds.mem.reqs = []
      ∧ tget 0 ds.mem.symErr (3 * tileSectors + (tileSectors - 1)) = 0
      ∧ ds.anyPois ((3 * tileSectors + (tileSectors - 1)) * 64) 64 = false)
    ∧ (db.mem.reqs = [(9, b bl)] ∧ db.mem.fetches = [(bl, [9])] ∧ db.allocKeys (b bl).pitch bl = []
      ∧ regionOf (bl * 128) = .biv 0 ∧ (db.biv 0).st = 1 ∧ db.anyPois (bl * 128) 128 = false
        ∧ (db.biv 0).pending = [(bl, late)]
      ∧ (db.biv 0).waits = [] ∧ late + ccUs 400 ≤ db.time)
    ∧ (regionOf ((bl + 2 ^ 33) * 128) = .biv 1 ∧ dw.mem.fetches = [] ∧ dw.mem.reqs = [] ∧ (dw.biv 1).waits = []
      ∧ (dw.biv 1).writes = [(bl + 2 ^ 33, late + 1)] ∧ (dw.biv 1).writeWaits = []
      ∧ ∀ x ∈ (dw.biv 1).pending ++ (dw.biv 1).writes, dw.time < x.2 + ccUs 400) := by
  decide +kernel

/-- A repair of the last page of tile 0 whose replica lies in a scratchpad, begun 40 µs ago or one cc less. -/
def repairing (late : Bool) : Repair :=
  { page := 65535, at_ := if late then on.time - ccUs 40 else on.time - ccUs 40 + 1, replica := spadBase }
def underRepair (late : Bool) : Dev := { on with mem := { tiles := [(0, { repairs := [repairing late] })] } }

theorem witness_RepairsAndQuarantine :
    planned.meshHas 3 0xFF = false
    ∧ (((underRepair true).tileMem 0).repairs = [repairing true] ∧ (repairing true).held = []
      ∧ (underRepair true).mem.reqs = []
      ∧ (repairing true).page / 65536 = 0 ∧ (repairing true).at_ + ccUs 40 ≤ (underRepair true).time)
    ∧ (∀ l f, ((underRepair l).func f).bar4Held = [] ∧ ((underRepair l).func f).xlMap = none
      ∧ ((underRepair l).func f).xlWait = none)
    ∧ ((underRepair false).time < (repairing false).at_ + ccUs 40 ∧ (underRepair false).meshHas 0 0xFF = true
      ∧ (underRepair false).meshHas ((underRepair false).homeTile (localOf (repairing false).replica)) 0xFF = true
      ∧ ∀ l, (underRepair l).errorsIn (localOf (repairing l).replica) 0x10000 = [])
    ∧ (∃ b, (underRepair false).replicaNow 0 (repairing false) = .bytes b ∧ b.length = 0x10000)
    ∧ (let d : Dev := { on with mem := { repl := [(3 * 65536 + 65535, { quarantined := true })] } }
       65535 < 65536 ∧ d.reach 0 = true ∧ (d.tileMem 3).clearing = none ∧ (d.repl (3 * 65536 + 65535)).quarantined = true)
    ∧ (let d : Dev := { on with mem := { tiles := [(3, { clearing := some 5 })] } }
       (d.tileMem 3).clearing = some 5 ∧ d.meshHas (5 / 65536) 0xFF = true) := by
  have h1 : (underRepair false).replicaFar (repairing false) = false := by decide +kernel
  have h2 : (underRepair false).readPois (localOf (repairing false).replica) 0x10000 = false := by decide +kernel
  refine ⟨by decide +kernel, by decide +kernel, fun l f => ⟨rfl, rfl, rfl⟩, by decide +kernel,
    ⟨bytesAt [] spadBase 0x10000, ?_, by simp [bytesAt]⟩, by decide +kernel, by decide +kernel⟩
  simp only [Dev.replicaNow, h1, h2, Bool.false_eq_true, if_false]
  rfl

/-- Context 1 with a range table of one entry in memory: virtual page 1, the device's page 2, read only. -/
def rangeBytes : List Byte :=
  leBytes 8 1 ++ leBytes 8 (2 ^ 28 + 2) ++ leBytes 4 1 ++ leBytes 4 2 ++ leBytes 8 0
def tabled (count : Nat) (valid : Bool) : Dev :=
  let flags := if valid then 3 else 2
  let b := leBytes 8 1 ++ leBytes 8 (2 ^ 28 + 2) ++ leBytes 4 1 ++ leBytes 4 flags ++ leBytes 8 0
  { planned with mem := { bytes := setBytes [] 0x10000 b }
                 host := { ctxs := [(1, { liveCtx with rtabBase := 0x10000, rtabCount := count })] }
                 cores := [(0, Core.init 0)] }

theorem witness_Translation :
    let d := tabled 1 false
    (d.reach 0 = true ∧ (d.func 0).xlBusy = false ∧ (d.func 0).bar4Held = [] ∧ d.xlCidOk 0 1 = true
      ∧ (d.ctx 1).live = true
      ∧ d.mapCode 0 1 4095 ≠ 0)
    ∧ (d.mapCode 0 1 0 = 0 ∧ d.mapWaits (d.entryAt 1 0) = false ∧ (d.entryAt 1 0).shared = false
      ∧ d.canFind (d.entryAddr 1 0 / 128) = none ∧ (regionOf (d.entryAddr 1 0)).isStacked = true
      ∧ (d.entryAddr 1 0) % 32 = 0 ∧ d.quarantined (d.entryAddr 1 0 / 128) = false)
    ∧ (65535 < 65536 ∧ d.board.graphs = [] ∧ d.board.nodes = [] ∧ d.board.descs = [] ∧ d.mem.reqs = [])
    ∧ (let i := d.modFunc 0 fun f => { f with xlInval := some (1, 7, [4], [5], [6]) }
       (i.func 0).xlInval = some (1, 7, [4], [5], [6]) ∧ (i.ctx 1).dying = false ∧ (∀ n ∈ [5], i.desc? n = none)
       ∧ i.accsOpen [4] = false ∧ i.mem.reqs = [] ∧ i.board.graphs = [])
    ∧ (let dying : Dev := { d with host := { ctxs := [(1, { liveCtx with dying := true })] } }
       (dying.ctx 1).live = false ∧ (dying.ctx 1).dying = true)
    ∧ ((d.ctx 7).live = false ∧ (d.ctx 7).dying = false ∧ d.mem.fetches = []
      ∧ tget 0 d.mem.symErr (d.entryAddr 1 0 / 64) ≤ 3)
    ∧ ∀ c, Unheld c (at_ d) := by
  refine ⟨by decide +kernel, by decide +kernel, by decide +kernel, by decide +kernel, by decide +kernel, by decide +kernel,
    fun c => ⟨rfl, rfl⟩⟩

/-- A walk over three entries whose middle one is the range of `rangeBytes`, and one over that entry alone. -/
def walk3 : Dev :=
  let w : Walk := { core := 0, tile := 0, pitch := 0, cid := 1, va := 0, lo := 0, hi := 3, base := 0x10000, count := 3 }
  { tabled 3 true with xl := { walks := [(4, w), (5, { w with va := 0x20000, hi := 3, lo := 0 })] }
                       mem := { bytes := setBytes (setBytes [] 0x10020 rangeBytes) 0x10040 rangeBytes } }
def walk1 : Dev :=
  { tabled 1 true with xl := { walks := [(4, { core := 0, tile := 0, pitch := 0, cid := 1, va := 0x1FFFF, lo := 0, hi := 1 })] } }

theorem witness_Translation_walks :
    let e := walk3.entryAt 1 1
    let e' := walk1.entryAt 1 0
    (walk3.readEntry 1 ((0 + 3) / 2) = some e ∧ 0 < e.vstart ∧ 0 < (0 + 3) / 2)
    ∧ (lookup? walk3.xl.walks 5 ≠ none ∧ e.vstart + e.bytes ≤ 0x20000 ∧ (0 + 3) / 2 + 1 < 3
      ∧ (walk3.ctx 1).rtabBase = 0x10000 ∧ (walk3.ctx 1).rtabCount = 3 ∧ walk3.mem.symErr = [])
    ∧ (walk1.readEntry 1 ((0 + 1) / 2) = some e' ∧ e'.covers 0x1FFFF = true ∧ e'.valid = true
      ∧ (walk1.core 0).stage = none ∧ walk1.cacheCap 0 0 ≠ 0) := by
  refine ⟨by decide +kernel, by decide +kernel, by decide +kernel⟩

/-! ## Witnesses: contexts and the host -/

/-- `planned` with one more context, 4095, of the given state. -/
def withCtx (x : Ctx) : Dev := { planned with host := { planned.host with ctxs := [(1, liveCtx), (4095, x)] } }
def dead : Ctx := { liveCtx with killed := true, slot := none }
def dying : Ctx := { liveCtx with dying := true, teardownAt := on.time - 1 }

theorem witness_ContextLifecycle :
    let full : Dev := { planned with host := { ctxs := (List.range 64).map fun c => (c, liveCtx) } }
    let waits : Ctx := { liveCtx with slot := none, queues := [(7, { log2 := 6, tail := 1, doorbellAt := some 3 })] }
    (full.reach 0 = true ∧ (full.func 0).ctxBusy = false ∧ full.createPitch 0 0 = some 0
      ∧ 64 * full.quadCount 0 ≤ (full.pitchCtxs 0).length)
    ∧ (planned.createPitch 0 0 = some 0 ∧ (planned.pitchCtxs 0).length < 64 * planned.quadCount 0
      ∧ (planned.ctx 0).free = true)
    ∧ ((withCtx dying).reach 0 = true ∧ ((withCtx dying).func 0).ctxBusy = false
      ∧ ((withCtx dying).ctx 4095).exists_ = true
      ∧ ((withCtx dying).ctx 4095).dying = true)
    ∧ (((withCtx dead).ctx 4095).exists_ = true ∧ ((withCtx dead).ctx 4095).dying = false
      ∧ ((withCtx dead).ctx 4095).killed = true)
    ∧ (((withCtx liveCtx).ctx 4095).live = true ∧ (withCtx liveCtx).mem.reqs = [])
    ∧ ((withCtx dying).tearing 4095 = true ∧ (withCtx dying).host.preBusy = none
      ∧ (withCtx dying).ctxLocalBusy 4095 = false
      ∧ ((withCtx dying).ctx 4095).carriedWrites = 0 ∧ ((withCtx dying).ctx 4095).pegs = []
      ∧ ∀ k ∈ (withCtx dying).cores, k.2.wb = [])
    ∧ (let d := { withCtx dead with mem := { zeroPend := [(7, 4096)] } }
       lookup? d.mem.zeroPend 7 = some (4095 + 1) ∧ d.host.funcs = [] ∧ d.mem.reqs = [])
    ∧ ((withCtx waits).pitchValid 0 = true ∧ (withCtx waits).waitingCtx 0 ≠ none ∧ (withCtx waits).freeSlot 0 = none
      ∧ minBy? (fun c => ((withCtx waits).ctx c).residentAt)
          (((withCtx waits).residents 0).filter fun c => !(withCtx waits).ctxBusy c) = some 1)
    ∧ (let d := { planned with host := { ctxs := [(4095, waits)] } }
       d.pitchValid 0 = true ∧ d.waitingCtx 0 = some 4095 ∧ d.freeSlot 0 = some 0 ∧ d.host.ifverBefore = none)
    ∧ (let d := { on with host := { ifverBefore := some (on.time, 0x100, true, false) } }
       d.host.ifverBefore = some (d.time, 0x100, true, false))
    ∧ (∀ d c, d.host.later = [] → Unheld c (at_ d)) := by
  refine ⟨by decide +kernel, by decide +kernel, by decide +kernel, by decide +kernel, by decide +kernel, by decide +kernel,
    by decide +kernel, by decide +kernel, by decide +kernel, by decide +kernel, fun _ _ h => ⟨h, rfl⟩⟩

theorem witness_HostWindow :
    let vf : Dev := { planned with host := { planned.host with vfEnable := true } }
    let early := { before 4 with host := { vfEnable := true } }
    let free (d : Dev) (fn off : Nat) : Prop := d.reach fn = true ∧ fn ≠ 65 ∧ (d.func fn).bar4Held = []
      ∧ (d.func fn).xlMap = none ∧ (d.func fn).xlWait = none
      ∧ off % 0x4000000 + 1 ≤ 0x4000000
    (free planned 0 0x3FFFFFF ∧ planned.bar4Addr 0 0x3FFFFFF = some 0x3FFFFFF
      ∧ planned.bar4Slots 0 [(some 0x3FFFFFF, 0, 1)] = false)
    ∧ (free on 0 0x3FFFFFF ∧ on.bar4Addr 0 0x3FFFFFF = some 0x3FFFFFF ∧ on.bar4Slots 0 [(some 0x3FFFFFF, 0, 1)] = true
      ∧ on.bar4Waits [(some 0x3FFFFFF, 0, 1)] = false ∧ on.mem.fetches = [] ∧ on.quarantined (0x3FFFFFF / 128) = false)
    ∧ (free vf 1 0 ∧ vf.bar4Addr 1 0 = some 0 ∧ vf.bar4Slots 1 [(some 0, 0, 1)] = true
      ∧ vf.bar4Waits [(some 0, 0, 1)] = false)
    ∧ (vf.configReach 1 = true ∧ vf.configServed = true ∧ vf.pitchOfVf 1 = some 0 ∧ vf.pitchCtxs 0 = [1]
      ∧ (vf.ctx 1).live = true ∧ vf.mem.reqs = [])
    ∧ (early.configReach 1 = true ∧ early.configServed = false) := by
  intro vf early free
  exact ⟨by decide +kernel, by decide +kernel, by decide +kernel, by decide +kernel, by decide +kernel⟩

/-- `HostWindow` asks that no stacked sector have symbol errors. -/
theorem witness_HostWindow_sound : ∀ sec, tget 0 planned.mem.symErr sec = 0 := fun _ => rfl

theorem witness_QueuesAndDoorbells :
    let u : Queue := { log2 := 6, head := 0xFFFFFFFF, tail := 0, readUpTo := 0xFFFFFFFF }
    let d (commit : Option Commit) : Dev := { withCtx { liveCtx with queues := [(7, u)] } with
      plan := { planned.plan with commit := commit } }
    let c : Commit := { changed := [0] }
    ((d none).reachCtx 0 4095 = true ∧ (d none).plan.commit = none ∧ (d none).host.later = [])
    ∧ ((d (some c)).reachCtx 0 4095 = true ∧ (d (some c)).plan.commit = some c
      ∧ ((d (some c)).ctx 4095).pitch ∈ c.changed)
    ∧ ((zeros 64).length = 64 ∧ (d none).power.pcieL0 = true ∧ ((d none).ctx 4095).live = true
      ∧ ((d none).ctx 4095).slot ≠ none ∧ u.log2 ≠ 0 ∧ u.stopped = false ∧ u.stalled = false
      ∧ (u.readUpTo - u.head).toNat < (u.tail - u.head).toNat ∧ u.rungAfter = []
      ∧ (d none).queueSlotFree ((d none).ctx 4095).pitch 4095 7 = true) := by
  decide +kernel

/-- `tabled` with one range of atomic right over virtual page 1. -/
def pegTable (pegs : List Nat) : Dev :=
  let b := leBytes 8 1 ++ leBytes 8 (2 ^ 28 + 2) ++ leBytes 4 1 ++ leBytes 4 (1 + 8) ++ leBytes 8 0
  { planned with mem := { bytes := setBytes [] 0x10000 b }
                 host := { ctxs := [(1, { liveCtx with rtabBase := 0x10000, rtabCount := 1, pegs := pegs })] } }

theorem witness_PegRegistrationsAndQueries :
    let may (d : Dev) := d.reach 0 = true ∧ isPf 0 = true ∧ (d.ctx 1).live = true
    let many := List.replicate 256 0x10008
    let busy := planned.modFunc 0 fun f => { f with qryBusy := true, qryCid := 1 }
    (may (pegTable []) ∧ ((pegTable []).translatePeg 1 0x1FFF8 3) = .ok [{ pa := 2 ^ 44 + 0x2FFF8, len := 8, gen := 0 }]
      ∧ 0x1FFF8 % 8 = 0 ∧ 0x1FFF8 < 2 ^ 48 ∧ ((pegTable []).ctx 1).pegs.length < 256)
    ∧ (may (pegTable many) ∧ 256 ≤ ((pegTable many).ctx 1).pegs.length
      ∧ ((pegTable many).translatePeg 1 0x1FFF8 3) = .ok [{ pa := 2 ^ 44 + 0x2FFF8, len := 8, gen := 0 }])
    ∧ (may planned ∧ planned.translatePeg 1 8 3 = .fault 2)
    ∧ (may (pegTable many) ∧ 0x10008 ∈ ((pegTable many).ctx 1).pegs) ∧ (may planned ∧ 8 ∉ (planned.ctx 1).pegs)
    ∧ ((planned.func 0).qryBusy = false ∧ planned.queryOk 0 1 = true) ∧ planned.queryOk 0 4095 = false
    ∧ ((busy.func 0).qryBusy = true ∧ (busy.func 0).qryCid = 1 ∧ busy.queryOk 0 1 = true) := by
  refine ⟨by decide +kernel, by decide +kernel, by decide +kernel, by decide +kernel, by decide +kernel, by decide +kernel,
    by decide +kernel, by decide +kernel⟩

/-! ## Witnesses: the Board and DMA -/

/-- A command's 64 bytes, from its opcode and what follows from byte 0x10 on. -/
def cmdBytes (op : Nat) (rest : List Byte := []) : List Byte :=
  ([BitVec.ofNat 8 op] ++ zeros 15 ++ rest ++ zeros 48).take 64

/-- Context 1 with commands at the head of its queue 2, on `pegTable`. -/
def queued (cmds : List (List Byte)) (stalled : Bool := false) : Dev :=
  let u : Queue := { log2 := 6, tail := 1, readUpTo := 1, cmds := cmds, stalled := stalled, pegPa := 2 ^ 44 + 0x20000 }
  let d := pegTable []
  { d with host := { d.host with accepted := true, ctxs := [(1, { d.ctx 1 with queues := [(2, u)] })] } }

/-- The hypotheses that every command at a head has. -/
def atHead (b : List Byte) (op : Nat) : Bool :=
  let d := queued [b]
  decide (((d.ctx 1).queue 2).cmds = [b]) && d.queueMay 1 2 && cmdOk b && recField b 0 1 == op && decide (d.mem.reqs = [])

theorem witness_QueueCommands :
    let graph (nodes : Nat) := cmdBytes 1 (leBytes 8 0x10000 ++ leBytes 4 nodes)
    (atHead (cmdBytes 0) 0 = true ∧ recZero (cmdBytes 0) 0x10 48 = true)
    ∧ (atHead (graph 16384) 1 = true ∧ graphOk (graph 16384) = true ∧ recField (graph 16384) 0x20 8 = 0
      ∧ recField (graph 16384) 0x18 4 ≠ 0)
    ∧ (atHead (graph 0) 1 = true ∧ graphOk (graph 0) = true ∧ recField (graph 0) 0x18 4 = 0)
    ∧ (∀ op ∈ [2, 3, 4, 5, 7], atHead (cmdBytes op) op = true) := by
  refine ⟨by decide +kernel, by decide +kernel, by decide +kernel, by decide +kernel⟩

/-- A range with the right to read, for a PEG_WAIT. -/
def readable (cmds : List (List Byte)) (stalled : Bool := false) : Dev :=
  { queued cmds stalled with mem := { bytes := setBytes [] 0x10000 (leBytes 8 1 ++ leBytes 8 (2 ^ 28 + 2) ++ leBytes 4 1
      ++ leBytes 4 3 ++ leBytes 8 0) } }

theorem witness_QueueCommands_waits :
    let wait := cmdBytes 6 (leBytes 8 0x10000 ++ leBytes 8 1)
    let d := readable [wait]
    let e := readable [wait] true
    (((d.ctx 1).queue 2).cmds = [wait] ∧ d.queueMay 1 2 = true ∧ cmdOk wait = true ∧ recField wait 0 1 = 6
      ∧ d.mem.reqs = []
      ∧ waitOk wait = true ∧ d.boardPeg 1 (recField wait 0x10 8) 1 = .inr (2 ^ 44 + 0x20000, 0)
        ∧ recField wait 0x18 8 ≠ 0)
    ∧ (((e.ctx 1).queue 2).cmds = [wait] ∧ ((e.ctx 1).queue 2).stalled = true ∧ (e.ctx 1).live = true
      ∧ (e.ctx 1).slot ≠ none ∧ e.isLocal ((e.ctx 1).queue 2).pegPa = true
      ∧ e.meshHas (e.homeTile (localOf ((e.ctx 1).queue 2).pegPa)) (e.ctx 1).pitch = true) := by
  refine ⟨by decide +kernel, by decide +kernel⟩

/-- `planned` with nodes and graphs in its Board. -/
def boarded (nodes : Tab Node) (graphs : Tab Graph) (pb : PitchBoard := {}) : Dev :=
  { planned with
    host := { accepted := true
              ctxs := [(1, { liveCtx with queues := [(2, { log2 := 6, tail := 1, graph := some 1 })] })] }
    board := { nodes := nodes, graphs := graphs, nextNode := 2, nextGraph := 2, pitches := [(0, pb)] } }

theorem witness_NodesAreAdmittedAndComplete :
    let note := cmdBytes 7 (leBytes 2 3)
    let g : Graph := { cid := 1, pitch := 0, q := 2, index := 0, cpl := false, single := some note }
    let launch : Node := { typ := 2, pitch := 0, cid := 1, graph := 1, index := 0, st := 2, launched := true }
    let wait (thr pa : Nat) : Node := { typ := 6, pitch := 0, cid := 1, graph := 1, index := 0, st := 1
                                        body := zeros 8 ++ leBytes 8 thr ++ zeros 32, sig := some (pa, 0) }
    let da := boarded [] [(1, g)]
    let dw (thr : Nat) := boarded [(1, wait thr (2 ^ 44))] [(1, { g with admitted := 1, open_ := 1 })] { pollOrder := [1] }
    (da.boardCycle 0 = true ∧ da.boardHeld 0 = false ∧ (da.pitchBoard 0).lastHub ≠ some da.hubCycle
      ∧ da.nextQueue 0 = some (1, g) ∧ da.graph? 1 = some g ∧ da.readNode g = .inr (note, [], {}))
    ∧ ((boarded [(1, launch)] []).node? 1 = some launch ∧ launch.typ = 2 ∧ launch.st = 2 ∧ launch.launched = true
      ∧ launch.groupsLeft = 0 ∧ launch.progsLeft = 0 ∧ (boarded [(1, launch)] []).mem.reqs = []
      ∧ (boarded [(1, launch)] []).graph? 1 = none)
    ∧ ((dw 0).node? 1 = some (wait 0 (2 ^ 44)) ∧ (dw 0).boardHeld 0 = false ∧ ((dw 0).pitchBoard 0).pollOrder = [1]
      ∧ (wait 0 (2 ^ 44)).readyAt ≤ (dw 0).hubCycle ∧ (wait 0 (2 ^ 44)).field 0x18 8 = 0)
    ∧ ((wait 1 (2 ^ 44)).field 0x18 8 ≠ 0 ∧ (dw 1).boardCycle 0 = true
      ∧ ((dw 1).pitchBoard 0).lastPollHub ≠ some (dw 1).hubCycle
      ∧ (wait 1 (2 ^ 44)).sig = some (2 ^ 44, 0) ∧ (dw 1).isLocal (2 ^ 44) = true
        ∧ (dw 1).meshHas ((dw 1).homeTile (localOf (2 ^ 44))) 0 = true ∧ (dw 1).readPois (localOf (2 ^ 44)) 8 = false
      ∧ leNat ((dw 1).readMem (localOf (2 ^ 44)) 8) < 2 ^ 63) := by
  refine ⟨by decide +kernel, by decide +kernel, by decide +kernel, by decide +kernel⟩

/-- A ready node of a type and body, and its module. -/
def readyNode (typ : Nat) (body : List Byte) : Node :=
  { typ := typ, pitch := 0, cid := 1, graph := 1, index := 0, st := 1, body := (body ++ zeros 48).take 48 }
def dispatching (x : Node) : Dev := boarded [(1, x)] []

/-- The hypotheses that every dispatch has. -/
def dispatchable (x : Node) : Bool :=
  let d := dispatching x
  d.boardCycle 0 && !d.boardHeld 0 && decide ((d.pitchBoard 0).lastDispHub ≠ some d.hubCycle)
    && decide (d.pickDispatch 0 = some (1, x)) && decide (d.node? 1 = some x) && decide (d.mem.reqs = [])
    && decide (x.pitch = 0) && (d.graph? x.graph).isNone && (d.board.nodes.all fun m => m.2.st != 3)

theorem witness_NodesAreDispatched :
    let launch := readyNode 2 (zeros 0x20 ++ leBytes 4 9)
    let coded := readyNode 2 (zeros 8 ++ leBytes 4 8 ++ zeros 0x14 ++ leBytes 4 1)
    let move (typ : Nat) := readyNode typ (zeros 16 ++ leBytes 8 64)
    let sig := readyNode 5 (zeros 8 ++ leBytes 8 1)
    (dispatchable launch = true ∧ launch.typ = 2 ∧ launch.field 0x18 4 = 0 ∧ launch.field 0x30 4 ≠ 0
      ∧ ((dispatching launch).coresOf 0).Nodup)
    ∧ (dispatchable coded = true ∧ coded.typ = 2 ∧ coded.field 0x18 4 ≠ 0)
    ∧ (dispatchable (move 3) = true ∧ (move 3).field 0x20 8 ≠ 0
      ∧ ((dispatching (move 3)).engineOf (move 3)).isSome = true)
    ∧ (dispatchable (move 4) = true ∧ ((dispatching (move 4)).engineOf (move 4)).isSome = true)
    ∧ (dispatchable sig = true ∧ ((dispatching sig).engineOf sig).isSome = true)
    ∧ dispatchable (readyNode 7 (leBytes 2 3)) = true
    ∧ (∀ x ∈ [launch, move 3, move 4, sig, readyNode 7 (leBytes 2 3)], (dispatching x).recorder.queue.length < 256) := by
  refine ⟨by decide +kernel, by decide +kernel, by decide +kernel, by decide +kernel, by decide +kernel, by decide +kernel, by decide +kernel⟩

/-- A module whose engine 0 has the descriptor `x`, waiting or begun. -/
def withDesc (x : Desc) (begun : Bool) (f : Dev → Dev := id) : Dev :=
  f { planned with board := { descs := [(1, x)], nextDesc := 2
                              engines := [(0, if begun then { cur := some 1 } else { queue := [1] })] } }

/-- Port 0 with this state, through which the route to device 5 leads, and 8 slots of whose frame are pitch 0's. -/
def linked (d : Dev) (q : Port := { st := 1, partner := 5, partnerValid := true }) : Dev :=
  { d with plan := { d.plan with
             running := some [(0x110, 1), (0x111, 1), (0x113, 1), (0x118, 1), (0x15D0 + 2 * 5 + 1, 0x80), (0x35E0, 8)] }
           fab := { ports := [(0, q)] } }

theorem witness_DmaEngines :
    let copy (src dst : Nat) : Desc := { node := none, cid := 1, pitch := 0, engine := 0, len := 64
                                         src := [{ pa := src, len := 64, gen := 0 }], dst := [{ pa := dst, len := 64, gen := 0 }] }
    let toImem := copy (2 ^ 44) (2 ^ 44 + imemAddr 0 0)
    let chunk := copy (2 ^ 44 + 0x100) (2 ^ 44 + 0x1C0)
    let touched (d : Dev) : Dev := d.modCore 0 fun k => { k with touched := 1 }
    let far : Desc := { node := none, cid := 1, pitch := 0, engine := 0, kind := 1, ordered := true, sig := some (5 * 2 ^ 44, 0) }
    ((withDesc toImem false).desc? 1 = some toImem ∧ toImem.stopped = false
      ∧ ((withDesc toImem false).engine 0).paused = false
      ∧ ((withDesc toImem false).engine 0).queue = [1] ∧ (withDesc toImem false).engineFree 0 = true ∧ toImem.kind ≠ 1)
    ∧ (∀ b ∈ (withDesc toImem false).banksIn toImem.dst, ((withDesc toImem false).core b.1).touched.getLsbD b.2 = false)
    ∧ (∃ b ∈ (withDesc toImem false touched).banksIn toImem.dst,
        ((withDesc toImem false touched).core b.1).touched.getLsbD b.2 = true)
    ∧ (let d := withDesc chunk true
       (d.engine 0).cur = some 1 ∧ chunk.kind = 0 ∧ chunk.issuedAll = false ∧ chunk.await = [] ∧ chunk.done < chunk.len
       ∧ d.isLocal (2 ^ 44 + 0x100) = true ∧ d.isLocal (2 ^ 44 + 0x1C0) = true ∧ d.repairsFor 0x100 64 = []
       ∧ d.readPois (0x100 / 32 * 32) (64 + 32) = false ∧ d.dmaTurn chunk [(2 ^ 44 + 0x100, 64)] = true)
    ∧ (let d := withDesc far true (linked ·)
       d.isLocal (5 * 2 ^ 44) = false ∧ d.unreachable (devOf (5 * 2 ^ 44)) = false
         ∧ d.route (devOf (5 * 2 ^ 44)) = .port 0
       ∧ far.pitch < 64 ∧ planShare d.pl 0 far.pitch ≠ 0) := by
  refine ⟨by decide +kernel, by decide +kernel, ⟨(0, 0), by decide +kernel, by decide +kernel⟩, by decide +kernel, by decide +kernel⟩

theorem witness_DmaEngines_complete :
    let x : Desc := { node := some 1, cid := 1, pitch := 0, engine := 0, issuedAll := true }
    let y : Node := { typ := 3, pitch := 0, cid := 1, graph := 1, index := 0, st := 2 }
    let z : Desc := { x with node := none, sig := some (2 ^ 44 + 0x2000 + 0x78, 0) }
    let d : Dev := { withDesc x true with board := { (withDesc x true).board with nodes := [(1, y)] } }
    let e : Dev := { withDesc z true with mem := { canopy := [(canKey 0 0x40 31, heldLine)] } }
    (d.desc? 1 = some x ∧ x.issuedAll = true ∧ x.await = [] ∧ x.banks = [] ∧ x.kind = 0 ∧ d.node? 1 = some y
      ∧ x.sig = none
      ∧ d.graph? y.graph = none)
    ∧ (e.desc? 1 = some z ∧ z.sigDone = false ∧ (e.ctx z.cid).live = true ∧ e.isLocal (2 ^ 44 + 0x2078) = true
      ∧ e.quarantined (localOf (2 ^ 44 + 0x2078) / 128) = false
      ∧ e.canFind (localOf (2 ^ 44 + 0x2078) / 128) = some (canKey 0 0x40 31)) := by
  refine ⟨by decide +kernel, by decide +kernel⟩

/-! ## Witnesses: the fabric -/

/-- A packet from device 5 to this device. -/
def fromFive (cls : BitVec 4) (addr len : Nat) (payload : List Byte := []) : Packet :=
  { blankPacket with cls := cls, dst := 1, src := 5, addr := addr, len := len, payload := payload, tag := 0xFFFF }

/-- `linked` with a packet received at port 0, over a module without groups, nodes or requests. -/
def received (p : Packet) (mem : Mem := {}) : Dev :=
  linked { planned with mem := mem } { st := 1, partner := 5, partnerValid := true, rxq := [p] }

/-- The hypotheses that every receiver has. -/
def arrives (p : Packet) (mem : Mem := {}) : Bool :=
  let d := received p mem
  decide ((d.port 0).rxq = [p]) && p.dst.toNat == d.ownId && !d.offFabric && decide (d.route p.src.toNat = .port 0)
    && (p.cls == 9 || p.cls == 10 || !refused p) && decide (d.mem.reqs = []) && decide (d.mem.fetches = [])
    && (d.claim 1000 (d.packetUnits p)).2

theorem witness_FabricReceivers :
    let mem : Mem := { canopy := [(canKey 0 0x40 31, heldLine)] }
    let read := fromFive 1 0x3FFFFFF00 256
    let write := fromFive 3 0x3FFFFFF80 128 (zeros 128)
    let add := fromFive 5 (0x40 * 128 + 124) 4 [1, 0, 0, 0]
    let signal : Packet := { fromFive 7 0 0 with pegAddr := 0x40 * 128 + 120, pegAmt := 1 }
    let fin (cls : BitVec 4) (cnt : Nat) : Packet := { fromFive cls 0x2000 0 with finCnt := cnt }
    let toSpad := fromFive 3 spadBase 64 (zeros 64)
    let full := (received toSpad).modCore 0 fun k => { k with bankAt := [(0, on.time)] }
    ((full.port 0).rxq = [toSpad] ∧ toSpad.dst.toNat = full.ownId ∧ full.offFabric = false
      ∧ (full.claim 1000 (full.packetUnits toSpad)).2 = false ∧ (full.core 0).testing = false)
    ∧ arrives toSpad = true
    ∧ (arrives read = true ∧ (received read).repairsFor 0x3FFFFFF00 256 = [] ∧ (received read).mem.symErr = []
      ∧ (received read).cores = [])
    ∧ (arrives write = true ∧ write.state.getLsbD 1 = false ∧ write.payload.length = write.len
      ∧ write.addr % 128 + write.len ≤ 128 ∧ write.addr + write.len ≤ 0x400000000
      ∧ (received write).quarantined (write.addr / 128) = false)
    ∧ (arrives add mem = true ∧ (received add mem).canFind (add.addr / 128) = some (canKey 0 0x40 31)
      ∧ lookup? (received add mem).mem.canopy (canKey 0 0x40 31) = some heldLine
      ∧ (received add mem).quarantined (add.addr / 128) = false ∧ add.state.getLsbD 1 = false)
    ∧ (arrives signal mem = true ∧ (received signal mem).canFind (signal.pegAddr / 128) = some (canKey 0 0x40 31)
      ∧ (received signal mem).quarantined (signal.pegAddr / 128) = false ∧ signal.pegAddr < 0x400000000)
    ∧ (received read).cores = []
    ∧ (∀ cls ∈ [4, 6], ∀ cnt ∈ [0, 1], arrives (fin cls cnt) = true ∧ (received (fin cls cnt)).fab.tracks = []
      ∧ 0 < (received (fin cls cnt)).payerQuads ((received (fin cls cnt)).ownerOfAddr 0x2000)
      ∧ (fin cls cnt).attach = false) := by
  refine ⟨by decide +kernel, by decide +kernel, by decide +kernel, by decide +kernel, by decide +kernel, by decide +kernel, by decide +kernel, by decide +kernel⟩

/-- A request to device 5 that waits for its reply. -/
def asked (r : Req) : Req := { r with addr := 5 * 2 ^ 44, dev := some 5, queued := true, pitch := some 0 }

theorem witness_FabricReceivers_replies :
    let r := asked { kind := .read, addr := 0, org := .descRead 4 0, len := 32 }
    let w := { asked { kind := .write [] [], addr := 0, org := .desc 4 } with acks := 1 }
    let reply := fromFive 2 0 32 (zeros 32)
    let ack (state : Byte) : Packet := { fromFive 8 0 0 with state := state }
    ((received reply { reqs := [(65535, r)] }).mem.reqs = [(65535, r)] ∧ (65535 : Nat) % 65536 = reply.tag.toNat
      ∧ r.dev = some reply.src.toNat ∧ r.queued = true ∧ r.st = 0 ∧ r.status = 0 ∧ r.orphan = false
      ∧ reply.state = 0 ∧ reply.poison = 0 ∧ reply.payload.length = r.len
      ∧ (received reply { reqs := [(65535, r)] }).offFabric = false)
    ∧ (w.acks = 1 ∧ w.dev = some (ack 0).src.toNat ∧ w.queued = true ∧ w.st = 0
      ∧ ((received (ack 2) { reqs := [(65535, w)] }).port 0).rxq = [ack 2]) := by
  decide +kernel

/-- An idle flit, and a data flit with an all-zero BODY. -/
def idleFlit (ok : Bool) : Flit :=
  { ok := ok, corrected := 0, seq := 0, kind := 1, ack := 0, nak := false, creditVc := 0, credit := 0, enc := false
    keyIdx := false, body := zeros 244, tag := [], crc := 0 }
def dataFlit (seq : BitVec 12) : Flit :=
  let f := { idleFlit true with seq := seq, kind := 0 }
  { f with crc := crc32 (flitBytes f) }

/-- A check field does not stand among the bytes that it covers. -/
theorem flitBytes_crc (f : Flit) (c : W32) : flitBytes { f with crc := c } = flitBytes f := rfl

theorem dataFlit_crc (seq : BitVec 12) : (dataFlit seq).crc = crc32 (flitBytes (dataFlit seq)) := by
  rw [dataFlit, flitBytes_crc]

theorem witness_FlitsAndPorts_flits :
    let d := linked planned
    let expect (q : Port) : BitVec 12 := if q.rxAny then q.rxSeq + 1 else 0
    let wrapped : Port := { st := 1, rxAny := true, rxSeq := 0xFFF }
    (d.portUp 0 = true ∧ (idleFlit false).ok = false)
    ∧ (∀ seq, (dataFlit seq).crc = crc32 (flitBytes (dataFlit seq)))
    ∧ (d.port 0).keyCtlBit 4 = false ∧ (dataFlit 0).seq = expect (d.port 0) ∧ (dataFlit 0xFFF).seq ≠ expect (d.port 0)
    ∧ (dataFlit 0).seq = expect wrapped := by
  refine ⟨by decide, dataFlit_crc, by decide, rfl, by decide, rfl⟩

/-- Port 0 UP with these fields. -/
def atPort (f : Port → Port) : Dev := linked planned (f { st := 1, partner := 5, partnerValid := true })

theorem witness_FlitsAndPorts_sending :
    let p : Packet := { blankPacket with cls := 3, dst := 5, src := 1, len := 204, payload := zeros 204 }
    let d := atPort fun q => { q with txq := [(0, [p])] }
    let idle := atPort id
    (d.portUp 0 = true ∧ (d.port 0).resend = [] ∧ (d.port 0).retry.length < 1024 ∧ (d.port 0).keyCtlBit 3 = false
      ∧ d.slotOwner 0 (d.port 0).frameSlot = some 0 ∧ tget [] (d.port 0).txq 0 = [p] ∧ tget [] (d.port 0).txPart 0 = []
      ∧ packetCredits p ≤ tget 512 (d.port 0).credit (packetVc (d.leaving 0 p))
        ∧ (packetBytes (d.leaving 0 p)).length ≤ 244)
    ∧ (idle.portUp 0 = true ∧ (idle.port 0).resend = [] ∧ (idle.port 0).retry.length < 1024
      ∧ (idle.port 0).keyCtlBit 3 = false ∧ (idle.port 0).txq = []) := by
  decide +kernel

theorem witness_FlitsAndPorts_transit :
    let p (hops : Nat) : Packet := { blankPacket with cls := 1, dst := 5, src := 9, hops := hops }
    ∀ hops ∈ [0, 31, 32], ((received (p hops)).port 0).rxq = [p hops] ∧ (received (p hops)).offFabric = false
      ∧ (p hops).dst.toNat ≠ (received (p hops)).ownId ∧ (received (p hops)).mem.reqs = []
      ∧ (received (p hops)).route (p hops).dst.toNat = .port 0 := by
  decide +kernel

theorem witness_FlitsAndPorts_training :
    let silent := atPort fun q => { q with lastFlitAt := on.time - ccUs 10 }
    let training := atPort fun q => { q with st := 2 }
    let good : TrainResult := { partner := some 5, rxFail := 0x100, txFail := 1, lastSeq := none }
    let dead := atPort fun q => { q with st := 4, deadAt := on.time - ccUs 1000000 }
    let r := { asked { kind := .read, addr := 0, org := .load 0 2 } with queued := false, retryAt := some on.time }
    let again := linked { planned with mem := { reqs := [(65535, r)] } }
    (silent.portUp 0 = true ∧ (silent.port 0).txq = [] ∧ (silent.port 0).inFlight = [] ∧ (silent.port 0).doubt = []
      ∧ silent.mem.reqs = [] ∧ (silent.port 0).lastFlitAt + ccUs 10 ≤ silent.time)
    ∧ (training.portRetrain 0 = true ∧ (training.port 0).doubt = [] ∧ (training.port 0).txq = [] ∧ training.mem.reqs = []
      ∧ lanesOk good.rxFail = true ∧ lanesOk good.txFail = true ∧ good.partner = some (training.port 0).partner
      ∧ good.lastSeq = none ∧ (training.port 0).noPartner = false ∧ lanesOk 0x101 = false
      ∧ (training.port 0).partnerValid = true
        ∧ ({ good with partner := some 6 } : TrainResult).partner ≠ some (training.port 0).partner)
    ∧ (again.mem.reqs = [(65535, r)] ∧ r.retryAt = some on.time ∧ on.time ≤ again.time ∧ r.st = 0 ∧ r.kind = .read
      ∧ r.dev = some 5 ∧ again.unreachable 5 = false ∧ again.route 5 = .port 0 ∧ r.pitch = some 0
      ∧ planShare again.pl 0 0 ≠ 0)
    ∧ ((dead.port 0).st = 4 ∧ (dead.port 0).deadAt + ccUs 1000000 ≤ dead.time) := by
  decide +kernel

theorem witness_FabricManagement :
    let mgmt (sub arg : Nat) (payload : List Byte := []) : Packet := fromFive 10 (sub + 256 * arg) payload.length payload
    let f : Flit := idleFlit true
    let asking : Dev := linked planned { st := 1, partner := 5, partnerValid := true, rxq := [mgmt 5 0], doubt := [(0, blankPacket)]
                                         retry := [f] }
    let t : Track := { src := 5, sender := 127, epoch := false, payer := none, held := some (1, fromFive 4 0x2000 0)
                       heldAt := on.time - ccUs 100, holdAt := on.time - ccUs 100, echoAt := on.time - ccUs 100 }
    let holding : Dev := { linked planned with fab := { (linked planned).fab with tracks := [t] } }
    let transit : Dev := { linked planned with
      fab := { (linked planned).fab with waiting := [(fromFive 3 0x2000 0, on.time - ccUs 100)] } }
    let r := { asked { kind := .write [] [], addr := 0, org := .desc 4 } with sentAt := on.time - ccUs 250 }
    let waits := linked { planned with mem := { reqs := [(65535, r)] } }
    (∀ sub ∈ [1, 2, 3, 4], arrives (mgmt sub 0xF) = true ∧ (mgmt sub 0xF).cls = 10 ∧ (mgmt sub 0xF).addr % 256 = sub)
    ∧ (arrives (mgmt 0x10 0 (zeros 8)) = true ∧ (mgmt 0x10 0 (zeros 8)).payload.length = 8)
    ∧ ((asking.port 0).rxq = [mgmt 5 0] ∧ (asking.port 0).partner = (mgmt 5 0).src
      ∧ (asking.port 0).doubt = [(0, blankPacket)]
      ∧ (asking.port 0).retry = [f] ∧ f.seq = (0 : BitVec 12) ∧ (mgmt 5 0).addr / 2 ^ 12 % 2 ^ 12 = 0)
    ∧ (holding.offFabric = false ∧ holding.fab.waiting = [] ∧ holding.fab.tracks = [t]
      ∧ t.held = some (1, fromFive 4 0x2000 0) ∧ t.holdAt + ccUs 100 ≤ holding.time ∧ holding.route 5 = .port 0
      ∧ t.echoAt + ccUs 100 ≤ holding.time ∧ t.src < 4096)
    ∧ (transit.offFabric = false ∧ transit.fab.waiting = [(fromFive 3 0x2000 0, on.time - ccUs 100)]
      ∧ on.time - ccUs 100 + ccUs 100 ≤ transit.time ∧ transit.route (fromFive 3 0x2000 0).src.toNat = .port 0)
    ∧ (arrives (fromFive 9 4095 0) = true ∧ (received (fromFive 9 4095 0)).fab.tracks = [])
    ∧ (waits.unreachDue 5 = true ∧ waits.unreachable 5 = false ∧ waits.mem.reqs = [(65535, r)] ∧ r.dev = some 5 ∧ r.st = 0
      ∧ r.queued = true ∧ r.orphan = false ∧ waits.fab.tracks = [])
    ∧ (on.reach 0 = true ∧ isPf 0 = true ∧ on.reach 65 = true ∧ isPf 65 = true) := by
  refine ⟨by decide +kernel, by decide +kernel, by decide +kernel, by decide +kernel, by decide +kernel, by decide +kernel,
    by decide +kernel, by decide +kernel⟩

/-! ## Witnesses: pre-emption, checks, tests, packs and tokens -/

/-- `planned` with pitch 0 unlocked and these host objects and commit. -/
def unlocked (f : HostIf → HostIf := id) (commit : Option Commit := none) : Dev :=
  { planned with sec := { unlocked := 1 }, host := f planned.host, plan := { planned.plan with commit := commit } }

/-- What a write of CTX_PRE_CTL needs. -/
def preAsk (d : Dev) (v : W32) (op p : Nat) : Bool :=
  d.reach 0 && isPf 0 && v.toNat % 64 == p && v.toNat / 2 ^ 30 == op && decide (d.host.preBusy = none)
    && d.host.preWaiting.isNone && d.unlocked p

theorem witness_SaveAndRestore :
    let saved := unlocked fun h => { h with preSaved := 1 }
    let changing := unlocked id (some { changed := [0] })
    let absent : Dev := { unlocked with sec := { unlocked := 2 ^ 63 } }
    (preAsk unlocked 0x40000000 1 0 = true ∧ unlocked.pitchValid 0 = true ∧ unlocked.commitChanges 0 = false
      ∧ unlocked.pitchSaved 0 = false ∧ unlocked.mem.reqs = [] ∧ unlocked.cores = [])
    ∧ (preAsk unlocked 0x80000000 2 0 = true)
    ∧ (preAsk saved 0x40000000 1 0 = true ∧ preAsk saved 0x80000000 2 0 = true ∧ saved.pitchSaved 0 = true
      ∧ saved.pitchValid 0 = true ∧ saved.commitChanges 0 = false)
    ∧ (preAsk absent 0x4000003F 1 63 = true ∧ preAsk absent 0x8000003F 2 63 = true ∧ absent.pitchValid 63 = false)
    ∧ (preAsk changing 0x40000000 1 0 = true ∧ changing.pitchValid 0 = true ∧ changing.commitChanges 0 = true)
    ∧ ((unlocked fun h => { h with preBusy := some (true, 0, 7) }).pitchDrained 0 = true) := by
  refine ⟨by decide +kernel, by decide +kernel, by decide +kernel, by decide +kernel, by decide +kernel, by decide +kernel⟩

theorem witness_SaveAndRestore_carried :
    let r : Req := { kind := .write [] [], addr := 0, org := .drain 0 6, cid := some 1, st := 2 }
    let d : Dev := { planned with mem := { reqs := [(9, r)] }, cores := [(0, { Core.init 0 with carried := [9] })] }
    d.mem.reqs = [(9, r)] ∧ r.st = 2 ∧ r.status = 0 ∧ r.org = .drain 0 6 ∧ r.cid = some 1 ∧ 9 ∈ (d.core 0).carried
    ∧ (d.core 0).wb = [] := by
  decide +kernel

theorem xor_one_ne (x : W32) : x ≠ x ^^^ 1 := by
  intro h
  have := congrArg (·.getLsbD 0) h
  simp at this

/-- A capture without rows. -/
def capture : Capture := { num := 4, cid := 1, k := 1, m := 1, sfmt := 0, complete := true }

/-- Core 255, whose partner 254 has these captures. -/
def partnered (k : Core) (captures : List Capture) : Dev :=
  { planned with cores := [(254, { Core.init 254 with captures := captures }), (255, k)] }

theorem witness_ChecksAndTests_checks :
    let d := partnered (Core.init 255) [capture]
    let busy := partnered { Core.init 255 with checking := true, checkAt := on.time - 193 } [capture]
    let none_ := { busy with host := {} }
    ((d.core 255).checking = false ∧ (d.core 255).saved = false ∧ (d.core 255).testing = false ∧ (d.core 255).seq.st = 0
      ∧ (d.core 255).seq.endAt = none ∧ (d.core (partnerOf 255)).captures = [capture] ∧ capture.complete = true)
    ∧ ((busy.core 255).checking = true
      ∧ (busy.core (partnerOf 255)).captures.find? (fun x => x.complete) = some capture
      ∧ (busy.core 255).checkAt + capture.span + 128 = busy.time)
    ∧ sumsCrc capture.sums = sumsCrc capture.recompute ∧ sumsCrc capture.sums ≠ sumsCrc capture.recompute ^^^ 1
    ∧ ((none_.ctx capture.cid).live = false ∧ (none_.core 255).health = 0 ∧ (none_.core 254).health = 0) :=
  ⟨by decide +kernel, by decide +kernel, rfl, xor_one_ne _, by decide +kernel⟩

theorem witness_ChecksAndTests_tests :
    let due (f : Core → Core) : Dev := { planned with cores := [(255, f { Core.init 255 with testDue := true })] }
    let old : Dev := { planned with time := testPeriod 0 }
    let save : Tab Byte := [(spadAddr 255 0x1E0000, 1), (imemAddr 255 0xFFFF, 2)]
    let runs (seg : Nat) : Dev := { due (fun k => { k with testing := true, testSave := save, testSeg := seg }) with
      sec := { pack := some (7, 2) }, mem := { bytes := [(0, 9)] } }
    ((old.core 255).testDue = false ∧ old.testable 255 = true ∧ old.power.porReleased = true
      ∧ max (old.core 255).testDueAt old.power.pwrGoodAt + testPeriod (old.core 255).health = old.time)
    ∧ ((due id).fullService = true ∧ (due id).boot.stewardRestarting = false ∧ (due id).commitPastB = false
      ∧ (due id).testMay 255 = true ∧ ∀ c, c ≠ 255 → tileOf c = tileOf 255 → (due id).testMay c = false)
    ∧ (∀ seg ∈ [0, 1], ((runs seg).core 255).testing = true ∧ ((runs seg).core 255).wb = [] ∧ (runs seg).mem.reqs = []
      ∧ Memory.wf ((runs seg).core 255).testSave = true ∧ Memory.wf (runs seg).mem.bytes = true
      ∧ (∀ b, b ∈ ((runs seg).core 255).testSave → inTestSave 255 b.1 = true) ∧ ((runs seg).core 255).health = 0)
    ∧ (((runs 0).core 255).testSeg + 1 < (runs 0).packSegments
      ∧ ((runs 1).core 255).testSeg + 1 = (runs 1).packSegments) := by
  refine ⟨by decide +kernel, ⟨by decide +kernel, by decide +kernel, by decide +kernel, by decide +kernel, ?_⟩,
    by decide +kernel, by decide +kernel⟩
  have key : ∀ c ∈ List.range 256, c ≠ 255 →
      Dev.testMay { planned with cores := [(255, { Core.init 255 with testDue := true })] } c = false := by decide +kernel
  exact fun c h t => key c (List.mem_range.2 (by simp only [tileOf] at t; omega)) h

theorem witness_PacksAndTokens :
    let packs : Dev := { on with sec := { packBusy := true } }
    let asks : Dev := { on with sec := { dbgBusy := true } }
    let commits (phase : Nat) : Dev := { asks with plan := { asks.plan with commit := some { phase := phase } } }
    (on.reach 0 = true ∧ isPf 0 = true ∧ on.sec.packBusy = false ∧ on.sec.dbgBusy = false)
    ∧ ((2 ^ 63 : W64).toNat / 2 ^ 63 % 2 = 1
      ∧ ((0x80000000 : W32).toNat * 2 ^ 32 + (tget 0 (on.func 0).held 2).toNat) / 2 ^ 63 % 2 = 1)
    ∧ ((2 ^ 62 : W64).toNat / 2 ^ 62 % 4 = 1 ∧ (2 ^ 63 : W64).toNat / 2 ^ 62 % 4 = 2)
    ∧ (packs.sec.packBusy = true ∧ packs.meshHas (packs.homeTile packs.sec.packAddr) 0xFF = true
      ∧ asks.meshHas (asks.homeTile asks.sec.dbgAddr) 0xFF = true ∧ planned.meshHas (planned.homeTile 0) 0xFF = false)
    ∧ (asks.sec.dbgBusy = true ∧ asks.sec.dbgHeld = none ∧ asks.plan.commit = none)
    ∧ (packs.errorsIn packs.sec.packAddr (packs.packSpan packs.sec.packAddr) = []
      ∧ ∀ phase ∈ [2, 3, 6], (commits phase).errorsIn (commits phase).sec.dbgAddr tokenLen = [])
    ∧ (∀ phase ∈ [3, 6], (commits phase).plan.commit = some { phase := phase })
    ∧ (let refused : Commit := { reason := 5, phase := 3 }
       ({ phase := 2 } : Commit).phase < 3 ∧ ({} : Commit).reason = 0 ∧ refused.reason ≠ 0) := by
  decide +kernel

/-! ## Witnesses: management and attestation -/

theorem witness_PowerAndManagement :
    let e : PowerEst := { pitch := 0, array := 640, nonArray := 0 }
    (planned.power.mainLock = true ∧ 0 ∈ planned.validPitches ∧ 63 ∉ planned.validPitches
      ∧ [e].find? (fun e => e.pitch == 0) = some e)
    ∧ ((∀ p ∈ [MctpPort.vdm, .smbus 0x58], on.mctpReach p = true) ∧ on.mctpReach (.smbus 0x59) = false
      ∧ on.boot.fwProg = none)
    ∧ (on.stewardServes = true ∧ on.fullService = true ∧ ([] : List Byte).length ≤ flashImageLen)
    ∧ (749 < on.setpointWatts ∧ 750 = on.setpointWatts ∧ 824 < on.capWatts + on.capWatts / 10
      ∧ 824 < on.setpointWatts + on.setpointWatts / 10)
    ∧ (on.power.vddCoreMv < 800 ∧ on.power.mid ≠ 2 ∧ ({ on with power := { on.power with mid := 2 } } : Dev).power.mid = 2
      ∧ ({ on with power := { on.power with vddCoreMv := 800 } } : Dev).power.vddCoreMv = 800)
    ∧ (200 ≤ on.capWatts ∧ ¬on.capWatts < on.capWatts) := by
  decide +kernel

/-- A connection on DOE that has come to its algorithms and has had a signature. -/
def spoken : SpdmConn := { versionDone := true, capsDone := true, algsDone := true, lastSigned := [1] }
def attesting (c : SpdmConn) (sessions : Tab SpdmSession) (head : Bool := false) : Dev :=
  { on with power := { on.power with straps := if head then 0x10 else 0 }
            sec := { spdm := [(spdmIdx .doe, c)], sessions := sessions } }

theorem witness_Attestation :
    let full := attesting spoken [(0, { doe := true }), (3, { doe := true, established := true })]
    let open_ := attesting spoken [(0, { doe := false }), (1, { doe := true }), (2, { doe := false })] true
    let young := attesting {} []
    (∀ p ∈ [SpdmPort.doe, .smbus 0x58, .vdm], on.spdmReach p = true)
    ∧ ((young.conn .doe).versionDone = false ∧ (young.conn .doe).capsDone = false ∧ (young.conn .doe).algsDone = false)
    ∧ ((full.conn .doe).versionDone = true ∧ (full.conn .doe).capsDone = true ∧ (full.conn .doe).algsDone = true
      ∧ (full.conn .doe).lastSigned ≠ [] ∧ full.isHead = false ∧ open_.isHead = true
      ∧ (attesting { spoken with lastSigned := [] } []).spdmReach .doe = true)
    ∧ (lookup? open_.sec.sessions 3 = none ∧ (∀ j, j < 3 → lookup? open_.sec.sessions j ≠ none)
      ∧ open_.sessionsOf (SpdmPort.doe == .doe) < 2 ∧ 2 ≤ full.sessionsOf (SpdmPort.doe == .doe))
    ∧ (lookup? full.sec.sessions 0 = some { doe := true }
      ∧ lookup? full.sec.sessions 3 = some { doe := true, established := true }
      ∧ lookup? full.sec.sessions 4 = none)
    ∧ (on.configReach 0 = true ∧ on.boot.recovery = false) := by
  decide +kernel

/-! ## Witness: the invariant -/

theorem on_inv : Inv on :=
  ⟨rfl, by unfold PowerOrder; decide, by decide, fun _ h => nomatch h⟩

theorem witness_EveryStepKeepsTheInvariant :
    Inv (State.dev { dev := on, pending := [.pwrEnDeassert] })
    ∧ (∃ t, step { dev := on, pending := [.pwrEnDeassert] } = .next t) :=
  ⟨on_inv, _, rfl⟩

/-! ## Ill-formed commands -/

/-- A function beyond the steward, a misaligned, over-wide or out-of-range register access. -/
theorem test_wf_accesses : [Instr.dbgRelock 66 (.full 0), .regWrite 66 0 4 0, .regWrite 0 2 4 0, .regWrite 0 4 8 0,
    .regWrite 0 0 2 0, .rcRead 0 0x4000000 4, .rcRead 0 0x20000000 4].all (fun i => !i.wf) = true := by decide

/-- A core, slot, pitch, tile, port, context, queue, engine, die or flag beyond the last. -/
theorem test_wf_numbers : [Instr.groupPlace 256, .iadd 0 48, .contextEvict 64, .sectorRewrite 4, .readRx (12, []),
    .teardownDrainEnd 4096, .nopCmd 0 8, .descriptorBegin 68, .tempWarning 5 0, .watchpointCommit 0 0 8 0,
    .counterCommit 0 0 8 0, .bivPortTimeout 2, .vfFlr 0, .vfFlr 65, .configRequest 0 4096, .echoSend 4096,
    .unreachTimeout 4096, .unreachClear 0 64 0, .laneAlarm 0 9, .scratchpadBankAccess 0 16 .clean, .bar4Resize 0 35,
    .bar4Resize 0 27].all (fun i => !i.wf) = true := by decide

/-- A frame of more than 15 words or of a part of a word, a flit whose BODY and TAG are not 244 B, lists of a wrong
length. -/
theorem test_wf_lengths : [Instr.tokenFrameRx { typ := 0, dest := 0, src := 0, payload := zeros 64, crc := 0, stop := true },
    .sideFrameRx { typ := 0, dest := 0, src := 0, payload := zeros 3, crc := 0, stop := true },
    .flitRx 0 { idleFlit true with body := zeros 243 }, .flitRx 0 { idleFlit true with credit := 64 },
    .linkTraining [] [], .ageingMarginReplan [[]], .ageingRemeasure [], .queueSlotRead 0 0 (zeros 63),
    .bar4Read 0 0 4097, .bar4Write 0 0 (zeros 513) false, .powerCapWindow [{ pitch := 64, array := 0, nonArray := 0 }]].all
    (fun i => !i.wf) = true := by decide +kernel

/-- R293: a bivouac port of more than 1,024 GiB, or of a width that no port has. -/
theorem test_wf_training : [1025, 1024].map (fun gib => (Instr.linkTraining
      (List.replicate 12 { partner := none, rxFail := 0, txFail := 0, lastSeq := none })
      [{ width := 8, rate := 3, gib := gib }, { width := 0, rate := 0, gib := 0 }]).wf) = [false, true]
    ∧ (Instr.linkTraining (List.replicate 12 { partner := none, rxFail := 0, txFail := 0, lastSeq := none })
      [{ width := 3, rate := 3, gib := 1 }, { width := 0, rate := 0, gib := 0 }]).wf = false := by decide

theorem test_wf_accepts : [Instr.regWrite 65 0x3FFFFF8 8 0, .rcRead 0 0x1FFFFFFC 4, .iadd 255 47, .flitRx 11 (idleFlit true),
    .descriptorBegin 67, .bar4Write 64 0 (zeros 512) false].all (fun i => i.wf) = true := by decide +kernel

/-! ## Words: no row of the table has bits -/

theorem test_no_word (nbits w : Nat) : decodeTableWord nbits w = none ∧ State.reset.withFetchWord nbits w = State.reset :=
  ⟨rfl, rfl⟩

/-! ## Results that the manual works out -/

/-- 01: core 147 lies on tile 2 and in quad 36. -/
theorem test_core_147 : tileOf 147 = 2 ∧ quadOf 147 = 36 ∧ tileOfQuad 36 = 2 := by decide

/-- 04, worked example: pitch 5 owns quads 16 to 24. -/
theorem test_cores_of_quads : coresOfQuad 31 = [124, 125, 126, 127] ∧ coresOfQuad 17 = [68, 69, 70, 71] := by decide

/-- 05, R140: lanes 1, 4, 9 and 30 add 3, 5, 2 and 7 to 100; then two CAS of 117. -/
theorem test_atomic_lanes :
    atomSub 0 0 100 [(1, 3, 0), (4, 5, 0), (9, 2, 0), (30, 7, 0)]
      = (117, [(1, 100, false), (4, 103, false), (9, 108, false), (30, 110, false)])
    ∧ atomSub 7 5 117 [(2, 200, 117), (5, 300, 117)] = (200, [(2, 117, true), (5, 200, false)]) := by decide +kernel

/-- 08, a worked block: the row and the stored rows of columns 0's two blocks. -/
def workedRow : StreamRow :=
  { elems := [100, 0xC7, 3] ++ List.replicate 29 0 ++ [0xEC] ++ List.replicate 31 0, scales := [0xF6, 0xF8] }
def workedBlock : Block := { fmt := 7, elems := [(0, 90), (1, 12), (2, 0x80), (32, 50)], scales := [(0, 0xF9), (1, 0xFA)] }

theorem test_block_sums :
    blockSum 7 workedBlock workedRow 0 0 = .formed 7932 (-17)
      ∧ blockSum 7 workedBlock workedRow 0 1 = .formed (-1000) (-14)
    ∧ (checkedSum 7 workedBlock workedRow [.sum 0 0 8] 0 0).2 = true
      ∧ (checkedSum 7 workedBlock workedRow [.sum 0 0 7] 0 0).2 = false := by decide +kernel

/-- -17 × 2^-15 in binary32, in either order. -/
theorem test_accumulation : ∀ pick ∈ [0, 1],
    accumulate 0 [blockSum 7 workedBlock workedRow 0 0, blockSum 7 workedBlock workedRow 0 1] pick = 0xBA080000 := by
  decide +kernel

/-- 08, conversion: 0.75 makes the scale byte 0xF9 and becomes 96; -17 × 2^-15 becomes 0, or -1 from u = 61184 on. -/
theorem test_conversion :
    groupScale 7 [.fin true 17 (-15), .fin false 3 (-2)] = some (-7) ∧ scaledElem 7 (-7) none (.fin false 3 (-2)) = 96
    ∧ scaledElem 7 (-7) none (.fin true 17 (-15)) = 0 ∧ scaledElem 7 (-7) (some 61184) (.fin true 17 (-15)) = 0xFF
    ∧ scaledElem 7 (-7) (some 61183) (.fin true 17 (-15)) = 0 := by decide +kernel

/-- 11, worked example: the words of entry 17 and the load of virtual address 0x0000_7F12_3440. -/
theorem test_range_entry :
    let e := parseEntry (leBytes 8 0x0000000700007F00 ++ leBytes 8 0x0000000120012300 ++ leBytes 4 0x100 ++ leBytes 4 7 ++ zeros 8)
    e.covers 0x7F123440 = true ∧ e.target 0x7F123440 = 0x01200123123440 ∧ e.valid = true ∧ e.r = true ∧ e.w = true
    ∧ e.a = false := by decide +kernel

/-- 03: lane 5 fails: RX_FAIL 0x020, and lane 8 replaces lane 5. -/
theorem test_spare_lane : spareLaneFor 0x020 = some 5 ∧ lanesOk 0x020 = true ∧ lanesOk 0x021 = false
  ∧ spareLaneFor 0x100 = none := by
  decide

/-- 19: a 9-quad pitch at 500 W takes duty 48 of 64, at 750 W it runs unthrottled. -/
theorem test_duty : dutyFor 500 9 64 67500 0 = 48 ∧ dutyFor 750 9 64 67500 0 = 64 := by decide +kernel

/-- 10: the word 0x1122_3344 takes a byte store of 0xAA at its second byte and a word store of 0x5566_7788, in both
orders. -/
theorem test_merge :
    let m := setBytes [] 0x100 (leBytes 4 0x11223344)
    leNat (bytesAt (setBytes (setBytes m 0x100 (leBytes 4 0x55667788)) 0x101 [0xAA]) 0x100 4) = 0x5566AA88
    ∧ leNat (bytesAt (setBytes (setBytes m 0x101 [0xAA]) 0x100 (leBytes 4 0x55667788)) 0x100 4) = 0x55667788 := by
  decide +kernel

/-- 02, R30 and R32: the rails come up one after the other from PWR_EN on. -/
theorem test_pwr_en : exec .pwrEnAssert State.reset = .next { State.reset with dev := { State.reset.dev with power :=
    { State.reset.dev.power with pwrEn := true, raising := true } } } := by rfl

/-- R129: an IADD of lane registers in the last slot that issues makes its destination unready. -/
theorem test_iadd_issues :
    ∃ d, exec (.iadd 0 3) (at_ (issuing (word 0x08))) = .next (at_ d) ∧ ((d.group? 0 3).map fun g => g.pc) = some 8 :=
  ⟨_, rfl, by decide +kernel⟩

/-- R166, R167: FSETP takes -0 and +0 as equal: EQ, LE and GE hold, LT and GT do not; a NaN makes NE alone true. -/
theorem test_fsetp_zeros : (List.range 6).map (fun k => fcmp k 0x80000000 0) = [true, false, false, true, false, true]
    ∧ (List.range 6).map (fun k => fcmp k 0x7FC00000 0) = [false, true, false, false, false, false] := by decide +kernel

/-- R344, R64: Vendor and Device ID of the PF, of a VF and in recovery. -/
theorem test_ids : on.configWord 0 0 = 0x0C101FD7 ∧ on.configWord 1 0 = 0xFFFFFFFF
    ∧ Dev.configWord { on with boot := { stage := 4, recovery := true } } 0 0 = 0x0C1F1FD7 := ⟨rfl, rfl, rfl⟩

/-- R40: the target address of both SMBA straps. -/
theorem test_smbus_address : Dev.mctpReach { on with power := { on.power with straps := 0xC } } (.smbus 0x5B) = true
    ∧ Dev.mctpReach { on with power := { on.power with straps := 0xC } } (.smbus 0x58) = false := by decide

/-- R30: the rails fall in the reverse of the order in which they rise. -/
theorem test_rails_fall_in_order :
    ∃ d, exec .vinLoss (at_ on) = .next (at_ d) ∧ d.power.falling = [4, 3, 2, 1, 0] := ⟨_, rfl, by decide⟩

end Sys2Proof.Tests
end

section
/-!
PROOFS. Counters that a read clears and bits that a 1 written clears (R9, R11). A counter is followed through
`Rc.split`, the pair of the events before a cc and those of it: one equation for each operation and each relation of
the two cc.
-/

namespace Sys2Proof.Proofs.Registers
open Sys2Proof Sys2Proof.Machine

/-! ## What `Rc.split` gives after each operation -/

/-- In a cc in which nothing came, every event lies before it. -/
theorem rc_split_of_ne (r : Rc) (t : Nat) (h : r.at_ ≠ t) : r.split t = (r.held + r.fresh - r.excess, 0) := if_neg h

@[simp] theorem rc_read_fst (r : Rc) (t : Nat) : (r.read t).1 = (r.split t).1 := rfl

/-- A later cc sees the count of both parts, held at `max`: the `excess` is what saturation loses. -/
theorem rc_split_bump_of_ne (r : Rc) (max n t u : Nat) (h : t ≠ u) :
    (r.bump max n t).split u = (min max ((r.split t).1 + min max ((r.split t).2 + n)), 0) := by
  rw [rc_split_of_ne _ _ h]
  simp only [Rc.bump, Prod.mk.injEq, and_true]
  omega

@[simp] theorem rc_split_bump_snd (r : Rc) (max n t : Nat) :
    ((r.bump max n t).split t).2 = min max ((r.split t).2 + n) := by
  simp [Rc.bump, Rc.split]

/-- A read leaves the events of its own cc, and a later cc sees them alone. -/
theorem rc_split_read_of_ne (r : Rc) (t u : Nat) (h : t ≠ u) : (r.read t).2.split u = ((r.split t).2, 0) := by
  rw [rc_split_of_ne _ _ h]
  simp [Rc.read]

/-! ## W1C bits -/

/-- A 1 written in the cc in which the device sets the bit leaves it as set. -/
@[simp] theorem w1c_clear_set_same (w : W1c) (t : Nat) : (w.set t).clear t = w.set t := by
  simp [W1c.set, W1c.clear]

/-- A 1 written in any other cc clears it. -/
theorem w1c_clear_set_bit_of_ne (w : W1c) (t u : Nat) (h : t ≠ u) : ((w.set t).clear u).bit = false := by
  rw [w1c_clear_bit]
  simp [W1c.set, h]

/-! ## R11 -/

/-- Settles O30: each clause on a counter is one of the equations of `Rc.split`, for the cc of the event or a later
one; the clauses on a bit are the two cases of the cc of the write. -/
theorem readClearsAndWriteOneClears : Obligations.ReadClearsAndWriteOneClears := by
  refine ⟨rc_split_bump, ?eventThenRead, ?eventInCcOfRead, ?readClears,
    fun w t => ⟨rfl, w1c_clear_set_same w t⟩, w1c_clear_set_bit_of_ne⟩
  case eventThenRead =>
    intro r max n t u hr htu hmax
    have hfresh : (r.split t).2 = 0 := congrArg Prod.snd (rc_split_of_ne r t (Nat.ne_of_lt hr))
    rw [rc_read_fst] at hmax
    rw [rc_read_fst, rc_read_fst, rc_split_bump_of_ne _ _ _ _ _ (Nat.ne_of_lt htu), hfresh]
    omega
  case eventInCcOfRead =>
    intro r max n t u hr htu hn
    have hfresh : (r.split t).2 = 0 := congrArg Prod.snd (rc_split_of_ne r t (Nat.ne_of_lt hr))
    rw [rc_read_fst, rc_split_read_of_ne _ _ _ (Nat.ne_of_lt htu), rc_split_bump_snd, hfresh, Nat.zero_add, Nat.min_eq_right hn]
  case readClears =>
    intro r t u hr htu
    rw [rc_read_fst, rc_split_read_of_ne _ _ _ (Nat.ne_of_lt htu), rc_split_of_ne _ _ (Nat.ne_of_lt hr)]

end Sys2Proof.Proofs.Registers
end

section
/-!
PROOFS. Register accesses (R9 to R11, R22). What a read leaves is followed through `ReadLeaves`, one lemma for each
block of the register map; a write to a core's block is found from the core and the place in its block.
-/

namespace Sys2Proof.Proofs.RegisterAccesses
open Sys2Proof Sys2Proof.Machine

/-! ## What a read leaves -/

/-- From `d` to `d'`, every part stays in which no register clears by being read. -/
structure ReadLeaves (d d' : Dev) : Prop where
  out : d'.out = d.out
  bytes : d'.mem.bytes = d.mem.bytes
  time : d'.time = d.time
  boot : d'.boot = d.boot
  sec : d'.sec = d.sec
  plan : d'.plan = d.plan
  xl : d'.xl = d.xl
  board : d'.board = d.board

namespace ReadLeaves

theorem refl (d : Dev) : ReadLeaves d d := ⟨rfl, rfl, rfl, rfl, rfl, rfl, rfl, rfl⟩

theorem trans {a b c : Dev} (h : ReadLeaves a b) (k : ReadLeaves b c) : ReadLeaves a c where
  out := k.out.trans h.out
  bytes := k.bytes.trans h.bytes
  time := k.time.trans h.time
  boot := k.boot.trans h.boot
  sec := k.sec.trans h.sec
  plan := k.plan.trans h.plan
  xl := k.xl.trans h.xl
  board := k.board.trans h.board

theorem ite {p : Prop} [Decidable p] {a b c : Dev} (h : ReadLeaves a b) (k : ReadLeaves a c) :
    ReadLeaves a (if p then b else c) := by
  split
  · exact h
  · exact k

theorem modPower (d : Dev) (f : Power → Power) : ReadLeaves d (d.modPower f) := ⟨rfl, rfl, rfl, rfl, rfl, rfl, rfl, rfl⟩
theorem modChain (d : Dev) (f : Chain → Chain) : ReadLeaves d (d.modChain f) := ⟨rfl, rfl, rfl, rfl, rfl, rfl, rfl, rfl⟩
theorem modRec (d : Dev) (f : Recorder → Recorder) : ReadLeaves d (d.modRec f) :=
  ⟨rfl, rfl, rfl, rfl, rfl, rfl, rfl, rfl⟩
theorem modFab (d : Dev) (f : Fabric → Fabric) : ReadLeaves d (d.modFab f) := ⟨rfl, rfl, rfl, rfl, rfl, rfl, rfl, rfl⟩
theorem modPort (d : Dev) (p : Nat) (f : Port → Port) : ReadLeaves d (d.modPort p f) :=
  ⟨rfl, rfl, rfl, rfl, rfl, rfl, rfl, rfl⟩
theorem modPitchCnt (d : Dev) (p : Nat) (f : PitchCount → PitchCount) : ReadLeaves d (d.modPitchCnt p f) :=
  ⟨rfl, rfl, rfl, rfl, rfl, rfl, rfl, rfl⟩
theorem modTileMem (d : Dev) (t : Nat) (f : TileMem → TileMem) : ReadLeaves d (d.modTileMem t f) :=
  ⟨rfl, rfl, rfl, rfl, rfl, rfl, rfl, rfl⟩
theorem modBiv (d : Dev) (p : Nat) (f : BivPort → BivPort) : ReadLeaves d (d.modBiv p f) :=
  ⟨rfl, rfl, rfl, rfl, rfl, rfl, rfl, rfl⟩
theorem modCore (d : Dev) (c : Nat) (f : Core → Core) : ReadLeaves d (d.modCore c f) :=
  ⟨rfl, rfl, rfl, rfl, rfl, rfl, rfl, rfl⟩
theorem modQueue (d : Dev) (c q : Nat) (f : Queue → Queue) : ReadLeaves d (d.modQueue c q f) :=
  ⟨rfl, rfl, rfl, rfl, rfl, rfl, rfl, rfl⟩

end ReadLeaves

theorem clearHub_readLeaves (d : Dev) (off : Nat) : ReadLeaves d (d.clearHub off) :=
  .ite (.modPower ..) <| .ite (.ite (.modPitchCnt ..) (.refl d)) <| .ite (.modPitchCnt ..) (.refl d)

theorem clearLnk_readLeaves (d : Dev) (o : Nat) : ReadLeaves d (d.clearLnk o) := by
  refine .ite ?port <| .ite (.modFab ..) <| .ite (.modFab ..) <| .ite (.modFab ..) <| .ite (.modFab ..) (.refl d)
  case port =>
    dsimp only
    split
    iterate 3 exact .modPort ..
    exact .refl d

theorem clearTile_readLeaves (d : Dev) (o : Nat) : ReadLeaves d (d.clearTile o) := by
  unfold Dev.clearTile
  dsimp only
  split
  iterate 4 exact .modTileMem ..
  exact .refl d

theorem clearCoreRc_readLeaves (d : Dev) (o : Nat) : ReadLeaves d (d.clearCoreRc o) := by
  unfold Dev.clearCoreRc
  dsimp only
  split
  iterate 8 exact .modCore ..
  exact .refl d

theorem clearRc_readLeaves (d : Dev) (fn : Fn) (off : Nat) : ReadLeaves d (d.clearRc fn off) :=
  .ite (.refl d) <| .ite (clearHub_readLeaves d off) <| .ite (.modChain ..) <| .ite (.modRec ..) <|
    .ite (.modRec ..) <| .ite (.modBiv ..) <| .ite (clearLnk_readLeaves ..) <| .ite (clearTile_readLeaves ..) <|
    .ite (clearCoreRc_readLeaves ..) <| .ite (.modQueue ..) (.refl d)

/-! ## Reads -/

/-- What a read of 4 or 8 B clears: an 8 B read is two words in one cc. -/
def clearWidth (d : Dev) (fn : Fn) (off width : Nat) : Dev :=
  if width = 8 then (d.clearRc fn off).clearRc fn (off + 4) else d.clearRc fn off

theorem clearWidth_readLeaves (d : Dev) (fn : Fn) (off width : Nat) : ReadLeaves d (clearWidth d fn off width) := by
  have low := clearRc_readLeaves d fn off
  exact .ite (low.trans (clearRc_readLeaves _ fn (off + 4))) low

theorem rcRead_gives (s : State) (fn : Fn) (off width : Nat) :
    Gives (.rcRead fn off width) s
      ((clearWidth s.dev fn off width).emit (.regData (BitVec.ofNat 64 (s.dev.readReg fn off width)))) := rfl

/-! ## A function that does not reach a register -/

section Unreached
variable {d : Dev} {fn : Fn} {off : Nat} (h : d.canRead fn off = false)
include h

theorem word_of_not_canRead : d.word fn off = 0 := by simp [Dev.word, h]

theorem clearRc_of_not_canRead : d.clearRc fn off = d := by simp [Dev.clearRc, h]

theorem writeWord_of_not_canRead (v : Nat) : d.writeWord fn off v = d := by simp [Dev.writeWord, h]

end Unreached

/-! ## Writes -/

/-- A 4 B write is one word, the low half of the value. -/
theorem regWrite4_gives (s : State) (fn : Fn) (off : Nat) (v : W64) :
    Gives (.regWrite fn off 4 v) s (s.dev.writeWord fn off (v.toNat % 2 ^ 32)) := rfl

/-- The block of a core and the place in it are found again from the offset. -/
theorem core_offset {core x : Nat} (hc : core < 256) (hx : x < 0x1000) :
    coreBase ≤ coreBase + 0x1000 * core + x ∧ coreBase + 0x1000 * core + x < coreBase + 0x100000
    ∧ (coreBase + 0x1000 * core + x - coreBase) / 0x1000 = core ∧ (coreBase + 0x1000 * core + x) % 0x1000 = x := by
  unfold coreBase
  omega

theorem bit_eq_testBit (n k : Nat) : bit n k = n.testBit k := by
  rw [bit, Nat.shiftRight_eq_div_pow, Nat.testBit_eq_decide_div_mod_eq]
  rfl

theorem bit_low_word (v : W64) {k : Nat} (hk : k < 32) : bit (v.toNat % 2 ^ 32) k = v.getLsbD k := by
  rw [bit_eq_testBit, Nat.testBit_mod_two_pow, decide_eq_true hk, Bool.true_and, BitVec.testBit_toNat]

section CoreWrites
variable {d : Dev} {fn : Fn} {core v : Nat} (hc : core < 256) (hreach : d.reach fn = true)
include hc hreach

/-- A 1 in VALID clears a core's fault record (R9, R11). -/
theorem writeWord_fltValid (hread : d.canRead fn (coreBase + 0x1000 * core + 0x410) = true) (hv : bit v 31 = true) :
    d.writeWord fn (coreBase + 0x1000 * core + 0x410) v
      = d.modCore core fun k => { k with flt := { k.flt with valid := k.flt.valid.clear d.time } } := by
  obtain ⟨hlo, hhi, hcore, hx⟩ := core_offset hc (x := 0x410) (by decide)
  simp [Dev.writeWord, hread, hreach, hlo, hhi, hcore, hx, hv]

/-- CORE_DBG_RSEL of a core whose pitch is unlocked takes the word (R492). -/
theorem writeWord_dbgRsel (hread : d.canRead fn (coreBase + 0x1000 * core + 0x450) = true)
    (hdbg : d.reachDbg fn core = true) :
    d.writeWord fn (coreBase + 0x1000 * core + 0x450) v
      = d.modCore core fun k => { k with dbgRsel := BitVec.ofNat 32 v } := by
  obtain ⟨hlo, hhi, hcore, hx⟩ := core_offset hc (x := 0x450) (by decide)
  simp [Dev.writeWord, hread, hreach, hlo, hhi, hcore, hx, hdbg]

end CoreWrites

/-- A core's debug registers are reached only by a function that reaches the register map (R537). -/
theorem reach_of_reachDbg {d : Dev} {fn : Fn} {core : Nat} (h : d.reachDbg fn core = true) : d.reach fn = true := by
  simp only [Dev.reachDbg, Dev.reachCore, Bool.and_eq_true] at h
  obtain ⟨⟨⟨hreach, -⟩, -⟩, -⟩ := h
  exact hreach

/-! ## The interface version -/

/-- The host interface after `v` has been written to IFVER_SEL at the time `t`. -/
def selectIfver (t : Nat) (v : W32) (h : HostIf) : HostIf :=
  let sel : W16 := v.truncate 16
  { h with
    ifverSel := sel, accepted := sel == 0x100, refused := sel != 0x100
    ifverBefore := match h.ifverBefore with
      | some b => if b.1 = t then some b else some (t, h.ifverSel, h.accepted, h.refused)
      | none => some (t, h.ifverSel, h.accepted, h.refused) }

/-- A resident context keeps the version from being changed (R24). -/
theorem ifverSelWrite_of_resident {s : State} (fn : Fn) (v : W32) (h : ∃ x ∈ s.dev.host.ctxs, x.2.slot ≠ none) :
    Gives (.ifverSelWrite fn v) s s.dev := by
  have hany : (s.dev.host.ctxs.any fun x => x.2.slot.isSome) = true := by
    simpa [List.any_eq_true, Option.isSome_iff_ne_none] using h
  simp [Gives, exec, execIfverSelWrite, hany]

theorem ifverSelWrite_of_free {s : State} {fn : Fn} (v : W32) (hreach : s.dev.reachPf fn = true)
    (hfull : s.dev.fullService = true) (h : ∀ x ∈ s.dev.host.ctxs, x.2.slot = none) :
    Gives (.ifverSelWrite fn v) s (s.dev.modHost (selectIfver s.dev.time v)) := by
  have hany : (s.dev.host.ctxs.any fun x => x.2.slot.isSome) = false := by
    simpa [List.any_eq_false] using h
  simp only [Gives, exec, execIfverSelWrite, hany, hreach, hfull]
  rfl

theorem truncate_eq_version (v : W32) : (v.truncate 16 : W16) = 0x100 ↔ v.toNat % 65536 = 0x100 := by
  rw [← BitVec.toNat_inj, BitVec.truncate_eq_setWidth, BitVec.toNat_setWidth]
  rfl

theorem selectIfver_accepted (t : Nat) (v : W32) (h : HostIf) :
    (selectIfver t v h).accepted = true ↔ v.toNat % 65536 = 0x100 := by
  rw [← truncate_eq_version]
  exact beq_iff_eq

theorem selectIfver_refused (t : Nat) (v : W32) (h : HostIf) :
    (selectIfver t v h).refused = true ↔ v.toNat % 65536 ≠ 0x100 := by
  rw [Ne, ← truncate_eq_version]
  exact bne_iff_ne

/-! ## R22 -/

/-- Settles O31: a read by what each block of the map leaves, an unreached register by the guard of each access, the
two registers of a core by their offsets, IFVER_SEL by whether a context is resident. -/
theorem registerAccesses : Obligations.RegisterAccesses := by
  intro s fn off
  refine ⟨?read, ?unreached, ?pcieUnlock, ?fltValid, ?dbgRsel, ?cmdHalf, ?ifverFree,
    fun v h => ifverSelWrite_of_resident fn v h⟩
  case read =>
    intro width _
    have leaves := clearWidth_readLeaves s.dev fn off width
    exact ⟨_, rcRead_gives s fn off width, congrArg _ leaves.out, leaves.bytes, leaves.time, leaves.boot, leaves.sec,
      leaves.plan, leaves.xl, leaves.board⟩
  case unreached =>
    intro hread
    have hword := word_of_not_canRead hread
    refine ⟨hword, ?_, fun v => ?_⟩
    · have hgives := rcRead_gives s fn off 4
      simpa [clearWidth, clearRc_of_not_canRead hread, Dev.readReg, hword] using hgives
    · exact writeWord_of_not_canRead hread (v.toNat % 2 ^ 32) ▸ regWrite4_gives s fn off v
  case pcieUnlock =>
    rintro rfl hread
    refine ⟨_, rcRead_gives s fn 0x44 4, ?_⟩
    simp [clearWidth, Dev.clearRc, hread, stwBase, Dev.clearHub, Rc.drain]
  case fltValid =>
    rintro core v rfl hc hread hreach - hv
    have hgives := regWrite4_gives s fn (coreBase + 0x1000 * core + 0x410) v
    rw [writeWord_fltValid hc hreach hread ((bit_low_word v (by decide)).trans hv)] at hgives
    exact ⟨_, hgives, by rw [core_modCore_self], fun c => core_modCore_ne _ _, rfl⟩
  case dbgRsel =>
    rintro core v rfl hc hread hdbg
    exact writeWord_dbgRsel hc (reach_of_reachDbg hdbg) hread hdbg ▸ regWrite4_gives s fn _ v
  case cmdHalf =>
    intro reg lo hreach
    simp [Gives, exec, execCmdHalfWrite, hreach]
  case ifverFree =>
    intro v hreach hfull hfree
    exact ⟨_, ifverSelWrite_of_free v hreach hfull hfree, rfl, selectIfver_accepted .., selectIfver_refused .., rfl⟩

end Sys2Proof.Proofs.RegisterAccesses
end

section
/-!
PROOFS. Answers: a command's answer is read off by unfolding `exec` for it, and its module is then brought to the form
that a statement gives.
-/

namespace Sys2Proof.Proofs.Answers
open Sys2Proof Sys2Proof.Machine

variable {k : Instr} {s : State} {x d : Dev}

theorem gives_of_eq (h : exec k s = s.to x) (e : x = d) : Gives k s d := e ▸ h

theorem leads_of_gives {P : Dev → Prop} (h : Gives k s d) (p : P d) : Leads k s P := ⟨d, h, p⟩

end Sys2Proof.Proofs.Answers
end

section
/-!
PROOFS. Configuration requests and the PF's window (R63 to R65, R344 to R349). What a configuration request does is
said once for each of the intervals of R64; each command's own part is a function on the module.
-/

namespace Sys2Proof.Proofs.ConfigurationSpace
open Sys2Proof Sys2Proof.Machine Sys2Proof.Proofs.Answers

/-! ## A configuration request, by what is served -/

variable {d : Dev} {fn : Fn} (f : Dev → Dev)

theorem onConfig_of_served (hreach : d.configReach fn = true) (hserved : d.configServed = true) :
    d.onConfig fn f = f d := by
  simp [Dev.onConfig, hreach, hserved]

/-- Before stage 4 has completed a request is retried, whatever it asks (R63). -/
theorem onConfig_of_unserved (hreach : d.configReach fn = true) (hserved : d.configServed = false) :
    d.onConfig fn f = d.emit .cfgRetry := by
  simp [Dev.onConfig, hreach, hserved]

/-- The PF takes configuration requests whenever the link is up. -/
theorem configReach_pf (hlink : d.power.pcieL0 = true) : d.configReach 0 = true := by
  simp [Dev.configReach, hlink]

theorem configServed_of_recovery (h : d.boot.recovery = true) : d.configServed = true := by
  simp [Dev.configServed, h]

theorem configServed_of_stage (h : 4 ≤ d.boot.stage) : d.configServed = true := by
  simp [Dev.configServed, h]

/-! ## VF Enable (R65) -/

/-- What a served write of VF Enable does. -/
def writeVfEnable (v : Bool) (d : Dev) : Dev :=
  if d.boot.recovery then d
  else if d.fullService then d.modHost fun h => { h with vfEnable := v }
  else d.modHost fun h => { h with vfHeld := some v }

theorem vfEnableWrite_gives {s : State} {v : Bool} (hlink : s.dev.power.pcieL0 = true)
    (hserved : s.dev.configServed = true) : Gives (.vfEnableWrite v) s (writeVfEnable v s.dev) :=
  gives_of_eq rfl (onConfig_of_served (writeVfEnable v) (configReach_pf hlink) hserved)

/-! ## The size of BAR4 (R346, R349) -/

/-- What a served resize does. -/
def resizeBar4 (fn : Fn) (n : Nat) (d : Dev) : Dev :=
  if d.boot.recovery || n < 28 || 34 < n then d
  else
    let d := d.modFunc fn fun g => { g with bar4Log2 := n }
    if fn = 0 then d.modHost fun h => { h with bar4Win := h.bar4Win / 2 ^ n * 2 ^ n } else d

theorem bar4Resize_gives {s : State} {fn : Fn} {n : Nat} (hreach : s.dev.configReach fn = true)
    (hserved : s.dev.configServed = true) : Gives (.bar4Resize fn n) s (resizeBar4 fn n s.dev) :=
  gives_of_eq rfl (onConfig_of_served (resizeBar4 fn n) hreach hserved)

theorem resizeBar4_of_size {n : Nat} (hrec : d.boot.recovery = false) (hlo : 28 ≤ n) (hhi : n ≤ 34) :
    resizeBar4 fn n d =
      let d := d.modFunc fn fun g => { g with bar4Log2 := n }
      if fn = 0 then d.modHost fun h => { h with bar4Win := h.bar4Win / 2 ^ n * 2 ^ n } else d :=
  if_neg (by simp [hrec, hlo, hhi])

theorem resizeBar4_func {n : Nat} (hrec : d.boot.recovery = false) (hlo : 28 ≤ n) (hhi : n ≤ 34) :
    (resizeBar4 fn n d).func fn = { d.func fn with bar4Log2 := n } := by
  rw [resizeBar4_of_size hrec hlo hhi]
  dsimp only
  split
  · exact func_modFunc_self d fn fun g => { g with bar4Log2 := n }
  · exact func_modFunc_self d fn fun g => { g with bar4Log2 := n }

theorem resizeBar4_window {n : Nat} (hrec : d.boot.recovery = false) (hlo : 28 ≤ n) (hhi : n ≤ 34) :
    (resizeBar4 fn n d).host.bar4Win = if fn = 0 then d.host.bar4Win / 2 ^ n * 2 ^ n else d.host.bar4Win := by
  rw [resizeBar4_of_size hrec hlo hhi]
  dsimp only
  split <;> rfl

/-! ## The window (R349) -/

/-- BASE is bits 33 to 28 of the value written. -/
theorem fld_base (v : W64) : fld v.toNat 28 6 = v.toNat / 2 ^ 28 % 2 ^ 6 := by
  rw [fld, Nat.shiftRight_eq_div_pow]

theorem bar4WinWrite_gives {s : State} {fn : Fn} (v : W64) (hreach : s.dev.reach fn = true) (hpf : isPf fn = true) :
    Gives (.bar4WinWrite fn v) s
      (if v.toNat / 2 ^ 28 % 2 ^ 6 * 2 ^ 28 % 2 ^ (s.dev.func 0).bar4Log2 = 0 then
        s.dev.modHost fun h => { h with bar4Win := v.toNat / 2 ^ 28 % 2 ^ 6 * 2 ^ 28 }
      else s.dev) := by
  refine gives_of_eq rfl ?_
  rw [fld_base]
  generalize v.toNat / 2 ^ 28 % 2 ^ 6 * 2 ^ 28 = base
  by_cases h : base % 2 ^ (s.dev.func 0).bar4Log2 = 0
  · rw [if_pos h, if_neg (by simp [hreach, hpf, h])]
  · rw [if_neg h, if_pos (by simp [h])]

/-! ## R63 to R65, R346, R349 -/

/-- Settles O7: each request by the interval of R64 in which it comes, and the window by whether BASE is a multiple of
its size. -/
theorem configurationRequests : Obligations.ConfigurationRequests := by
  intro s fn
  refine ⟨?answered, ?retried, ?resizeRetried, ?pfRetried, ?vfRecovery, ?resizeRecovery, ?vfFull, ?vfHeld, ?resized,
    ?window⟩
  case answered => exact fun off hreach hserved => gives_of_eq rfl (onConfig_of_served _ hreach hserved)
  case retried => exact fun off hreach hserved => gives_of_eq rfl (onConfig_of_unserved _ hreach hserved)
  case resizeRetried => exact fun n hreach hserved => gives_of_eq rfl (onConfig_of_unserved _ hreach hserved)
  case pfRetried =>
    intro v hlink hserved
    exact ⟨gives_of_eq rfl (onConfig_of_unserved _ (configReach_pf hlink) hserved),
      gives_of_eq rfl (onConfig_of_unserved _ (configReach_pf hlink) hserved)⟩
  case vfRecovery =>
    intro v hlink hrec
    have hgives := vfEnableWrite_gives (v := v) hlink (configServed_of_recovery hrec)
    rwa [writeVfEnable, if_pos hrec] at hgives
  case resizeRecovery =>
    intro n hreach hrec
    have hgives := bar4Resize_gives (n := n) hreach (configServed_of_recovery hrec)
    rwa [resizeBar4, if_pos (by simp [hrec])] at hgives
  case vfFull =>
    intro v hlink hrec hstage
    have hgives := vfEnableWrite_gives (v := v) hlink (configServed_of_stage (by omega))
    rwa [writeVfEnable, if_neg (by simp [hrec]), if_pos (by simp [Dev.fullService, hstage])] at hgives
  case vfHeld =>
    intro v hlink hrec hserved hstage
    have hgives := vfEnableWrite_gives (v := v) hlink (configServed_of_stage hserved)
    rwa [writeVfEnable, if_neg (by simp [hrec]), if_neg (by simp [Dev.fullService, Nat.ne_of_lt hstage])] at hgives
  case resized =>
    intro n hreach hrec hserved hlo hhi
    exact ⟨_, bar4Resize_gives hreach (configServed_of_stage hserved), resizeBar4_func hrec hlo hhi,
      resizeBar4_window hrec hlo hhi⟩
  case window =>
    intro v hreach hpf
    have hgives := bar4WinWrite_gives v hreach hpf
    exact ⟨fun h => by rwa [if_pos h] at hgives, fun h => by rwa [if_neg h] at hgives⟩

end Sys2Proof.Proofs.ConfigurationSpace
end

section
/-!
PROOFS. What the operations that start-up shares leave unchanged: the vectors raised on the host, the events of the
recorder, the chain pins, the stages.
-/

namespace Sys2Proof.Proofs.StartUpFrames
open Sys2Proof Sys2Proof.Machine

/-! ## Runs over a list -/

/-- What the turns of a run do not change, the run does not change. -/
theorem forEach_leaves_of_mem {α β : Type} (view : Dev → β) {f : Dev → α → Dev} {l : List α}
    (hf : ∀ x ∈ l, ∀ e, view (f e x) = view e) (d : Dev) : view (d.forEach l f) = view d := by
  induction l generalizing d with
  | nil => rfl
  | cons x l ih => exact (ih (fun y hy => hf y (.tail _ hy)) (f d x)).trans (hf x (.head _) d)

theorem forEach_leaves {α β : Type} (view : Dev → β) {f : Dev → α → Dev} (hf : ∀ e x, view (f e x) = view e)
    (l : List α) (d : Dev) : view (d.forEach l f) = view d :=
  forEach_leaves_of_mem view (fun x _ e => hf e x) d

/-- In a run over distinct keys, the turn of a key meets what the run began with, as far as the other turns leave it;
what it makes of that stands at the end. -/
theorem forEach_own_turn {α β : Type} (view : Dev → β) {f : Dev → α → Dev} {l : List α} {n : α} (hl : l.Nodup)
    (hn : n ∈ l) (htime : ∀ e m, (f e m).time = e.time) (hother : ∀ e m, m ≠ n → view (f e m) = view e) (d : Dev) :
    ∃ e : Dev, e.time = d.time ∧ view e = view d ∧ view (d.forEach l f) = view (f e n) := by
  induction l generalizing d with
  | nil => cases hn
  | cons m l ih =>
    obtain ⟨hm, hl⟩ := List.nodup_cons.1 hl
    rcases List.mem_cons.1 hn with rfl | hn
    · have hrest : ∀ x ∈ l, ∀ e, view (f e x) = view e := fun x hx e => hother e x fun h => hm (h ▸ hx)
      exact ⟨d, rfl, rfl, forEach_leaves_of_mem view hrest (f d n)⟩
    · obtain ⟨e, het, hev, h⟩ := ih hl hn (f d m)
      exact ⟨e, het.trans (htime d m), hev.trans (hother d m fun h => hm (h ▸ hn)), h⟩

/-! ## Vectors (R348) -/

/-- A vector touches the pending bits of its function, what waits for the link, and what has been sent. -/
theorem msix_eq (d : Dev) (f vec : Nat) : ∃ funcs held out,
    d.msix f vec = { d with host := { d.host with funcs := funcs, hostHeld := held }, out := out } := by
  unfold Dev.msix Dev.hostSend
  split
  · exact ⟨_, _, _, rfl⟩
  · split <;> exact ⟨_, _, _, rfl⟩

section Vectors
variable (d : Dev) (f vec : Nat)

@[simp] theorem msix_chain : (d.msix f vec).chain = d.chain := by obtain ⟨_, _, _, h⟩ := msix_eq d f vec; rw [h]
@[simp] theorem msix_boot : (d.msix f vec).boot = d.boot := by obtain ⟨_, _, _, h⟩ := msix_eq d f vec; rw [h]

@[simp] theorem msix_vfEnable : (d.msix f vec).host.vfEnable = d.host.vfEnable := by
  obtain ⟨_, _, _, h⟩ := msix_eq d f vec; rw [h]

@[simp] theorem msix_vfHeld : (d.msix f vec).host.vfHeld = d.host.vfHeld := by
  obtain ⟨_, _, _, h⟩ := msix_eq d f vec; rw [h]

end Vectors

/-! ## The chain pins (R79, R83, R462) -/

/-- From `d` to `d'`, nothing but the chain changes. -/
def OnChain (d d' : Dev) : Prop := ∃ chain, d' = { d with chain := chain }

namespace OnChain

variable {d d' e : Dev}

theorem refl (d : Dev) : OnChain d d := ⟨d.chain, rfl⟩

theorem modChain (d : Dev) (f : Chain → Chain) : OnChain d (d.modChain f) := ⟨f d.chain, rfl⟩

theorem ite {p : Prop} [Decidable p] (h : OnChain d d') (k : OnChain d e) : OnChain d (if p then d' else e) := by
  split
  · exact h
  · exact k

theorem trans (h : OnChain d d') (k : OnChain d' e) : OnChain d e := by
  obtain ⟨_, rfl⟩ := h
  obtain ⟨_, rfl⟩ := k
  exact ⟨_, rfl⟩

theorem power (h : OnChain d d') : d'.power = d.power := by obtain ⟨_, rfl⟩ := h; rfl
theorem boot (h : OnChain d d') : d'.boot = d.boot := by obtain ⟨_, rfl⟩ := h; rfl
theorem host (h : OnChain d d') : d'.host = d.host := by obtain ⟨_, rfl⟩ := h; rfl

end OnChain

theorem faultFrame_onChain (d : Dev) (e : Event) : OnChain d (d.faultFrame e) :=
  .ite (.refl d) (.ite (.modChain d _) (.modChain d _))

theorem tryPhase1_onChain (d : Dev) : OnChain d d.tryPhase1 := .ite (.modChain d _) (.refl d)

theorem queueReport_onChain (d : Dev) (kind : Nat) : OnChain d (d.queueReport kind) := .ite (.refl d) (.modChain d _)

theorem serviceIfReady_onChain (d : Dev) : OnChain d d.serviceIfReady := .ite (.modChain d _) (.refl d)

theorem enterPhase3_onChain (d : Dev) : OnChain d d.enterPhase3 := .modChain d _

/-! ## Events (R461, R462, R513) -/

/-- The event that is detected now. -/
def detected (d : Dev) (kind unit detail : Nat) : Event :=
  { kind := kind, sev := eventSev kind, unit := unit % 2 ^ 16, detail := detail % 2 ^ 24, time := d.hubCc }

/-- An event touches the chain, by its FAULT frame, and the recorder. -/
theorem event_eq (d : Dev) (kind unit detail : Nat) : ∃ chain,
    d.event kind unit detail = { d with
      chain := chain
      recorder := if d.recorder.queue.length < 256 then
          { d.recorder with queue := insertEvent (detected d kind unit detail) d.recorder.queue }
        else { d.recorder with dropQ := d.recorder.dropQ.bump 0xFFFF 1 d.time } } := by
  obtain ⟨chain, h⟩ := faultFrame_onChain d (detected d kind unit detail)
  simp only [detected] at h
  simp only [Dev.event, h]
  exact ⟨chain, rfl⟩

section Events
variable (d : Dev) (kind unit detail : Nat)

@[simp] theorem event_power : (d.event kind unit detail).power = d.power := by
  obtain ⟨_, h⟩ := event_eq d kind unit detail; rw [h]

@[simp] theorem event_boot : (d.event kind unit detail).boot = d.boot := by
  obtain ⟨_, h⟩ := event_eq d kind unit detail; rw [h]

@[simp] theorem event_cores : (d.event kind unit detail).cores = d.cores := by
  obtain ⟨_, h⟩ := event_eq d kind unit detail; rw [h]

end Events

theorem mem_insertEvent (e : Event) (l : List Event) : e ∈ insertEvent e l := by
  induction l with
  | nil => exact .head _
  | cons x l ih =>
    unfold insertEvent
    split
    · exact .head _
    · exact .tail _ ih

/-- An event enters a queue that has room. -/
theorem event_queued {d : Dev} (kind unit detail : Nat) (h : d.recorder.queue.length < 256) :
    detected d kind unit detail ∈ (d.event kind unit detail).recorder.queue := by
  obtain ⟨_, he⟩ := event_eq d kind unit detail
  rw [he, if_pos h]
  exact mem_insertEvent _ _

/-! ## Stages (R59) and recovery (R71) -/

theorem mayRun_iff (d : Dev) (n : Nat) : d.mayRun n = true ↔
    d.power.porReleased = true ∧ d.boot.stage + 1 = n ∧ d.boot.recovery = false ∧ d.boot.stopped = false := by
  simp [Dev.mayRun, and_assoc]

theorem recovery_of_mayRun {d : Dev} {n : Nat} (h : d.mayRun n = true) : d.boot.recovery = false := by
  obtain ⟨-, -, hrec, -⟩ := (mayRun_iff d n).1 h
  exact hrec

@[simp] theorem endStage_power (d : Dev) (n : Nat) : (d.endStage n).power = d.power := rfl

@[simp] theorem endStage_plan (d : Dev) (n : Nat) : (d.endStage n).plan = d.plan := rfl

@[simp] theorem endStage_boot (d : Dev) (n : Nat) :
    (d.endStage n).boot = { d.boot with stage := n, stageEnd := tset d.boot.stageEnd n d.rootCc } := rfl

@[simp] theorem enterRecovery_boot (d : Dev) (cause : Nat) : (d.enterRecovery cause).boot =
    { d.boot with recovery := true, result := cause, stage := 2, recovState := 0 } := by
  simp [Dev.enterRecovery, (tryPhase1_onChain _).boot]

/-! ## Measurement slots (R72) -/

@[simp] theorem extend_power (d : Dev) (i : Nat) (x : BitVec 384) : (d.extend i x).power = d.power := rfl

theorem extend_boot (d : Dev) (i : Nat) (x : BitVec 384) :
    (d.extend i x).boot = { d.boot with meas := (d.extend i x).boot.meas } := rfl

end Sys2Proof.Proofs.StartUpFrames
end

section
/-!
PROOFS. Stages 2 to 4 (R61, R66, R68, R72): what stage 2 has done before it looks at the recovery strap, then one
equation for each way in which a stage answers.
-/

namespace Sys2Proof.Proofs.FirmwareImage
open Sys2Proof Sys2Proof.Machine Sys2Proof.Proofs.Answers Sys2Proof.Proofs.StartUpFrames

/-! ## Entry into recovery -/

/-- The module in recovery for the cause `code`, with the image of `d` (R71). -/
def InRecovery (d : Dev) (code : Nat) (d' : Dev) : Prop :=
  d'.boot.recovery = true ∧ d'.boot.result = code ∧ d'.boot.stage = 2 ∧ d'.boot.image = d.boot.image

theorem enterRecovery_inRecovery {d x : Dev} (code : Nat) (h : x.boot.image = d.boot.image) :
    InRecovery d code (x.enterRecovery code) := by
  rw [InRecovery, enterRecovery_boot]
  exact ⟨rfl, rfl, rfl, h⟩

/-! ## Stage 2 (R61) -/

/-- Stage 2 before the recovery strap and the flash are looked at: the PLLs lock, a nonce is drawn, M0 is extended. -/
def romRun (d : Dev) : Dev :=
  let d := d.modPower fun p => { p with mainLock := true, mainLockAt := d.time, pcieLock := true }
  (d.drawNonce.extend 0
    (Config.sha384 (Config.romBytes ++ leBytes 48 Config.manifestDigest.toNat ++ d.fuseBytes))).endStage 2

theorem stewardRom_gives {s : State} (flashAnswers : Bool) (hrun : s.dev.mayRun 2 = true) :
    Gives (.stewardRom flashAnswers) s
      (if s.dev.power.straps.getLsbD 0 then (romRun s.dev).enterRecovery 1
        else if !flashAnswers then (romRun s.dev).enterRecovery 2 else romRun s.dev) :=
  gives_of_eq rfl (if_neg (by simp [hrun]))

theorem romRun_power (d : Dev) :
    (romRun d).power = { d.power with mainLock := true, mainLockAt := d.time, pcieLock := true } := rfl

theorem romRun_boot (d : Dev) : (romRun d).boot = { d.boot with
    stage := 2, stageEnd := tset d.boot.stageEnd 2 d.rootCc
    meas := (d.extend 0 (Config.sha384
      (Config.romBytes ++ leBytes 48 Config.manifestDigest.toNat ++ d.fuseBytes))).boot.meas } := rfl

/-! ## Stage 3 (R66, R68) -/

theorem firmwareImage_silent {s : State} (hrun : s.dev.mayRun 3 = true) :
    Gives (.firmwareImage false) s (s.dev.enterRecovery 2) :=
  gives_of_eq rfl (by simp [hrun])

theorem firmwareImage_failed {s : State} {code : Nat} (hrun : s.dev.mayRun 3 = true)
    (hcheck : s.dev.imageCheck s.dev.flashImage = some code) :
    Gives (.firmwareImage true) s (s.dev.enterRecovery code) :=
  gives_of_eq rfl (by simp [hrun, hcheck])

theorem imageInfo_manifest (img : Tab Byte) : (imageInfo img).manifest = imgManifest img := by
  simp only [imageInfo]

/-- Stage 3 with an image that passes every check: the image is taken and M1 is extended (log 24). -/
def takeImage (d : Dev) (info : ImageInfo) : Dev :=
  ((d.modBoot fun b => { b with image := info }).extend 1 (Config.sha384 info.manifest)).endStage 3

theorem firmwareImage_passed {s : State} (hrun : s.dev.mayRun 3 = true)
    (hcheck : s.dev.imageCheck s.dev.flashImage = none) :
    Gives (.firmwareImage true) s (takeImage s.dev (imageInfo s.dev.flashImage)) :=
  gives_of_eq rfl (by simp [hrun, hcheck, takeImage])

theorem takeImage_boot (d : Dev) (info : ImageInfo) : (takeImage d info).boot = { d.boot with
    image := info, stage := 3, stageEnd := tset d.boot.stageEnd 3 d.rootCc
    meas := (d.extend 1 (Config.sha384 info.manifest)).boot.meas } := rfl

/-! ## Stage 4 (R72) -/

theorem measuredBoot_gives {s : State} (hrun : s.dev.mayRun 4 = true) :
    Gives .measuredBoot s (((s.dev.extend 2 s.dev.boot.image.digest).extend 3 (Config.sha384
      [BitVec.ofNat 8 s.dev.power.straps.toNat, BitVec.ofNat 8 s.dev.power.mid.toNat])).endStage 4) :=
  gives_of_eq rfl (by simp [hrun])

/-! ## R61, R66, R68, R72 -/

/-- Settles O11: stage 2 by the recovery strap and whether the flash answers, stage 3 by the first check that fails. -/
theorem firmwareStages : Obligations.FirmwareStages := by
  intro s
  refine ⟨?rom, ?romStrap, ?romSilent, ?imageSilent, ?image, ?measured⟩
  case rom =>
    intro hrun hstrap
    have hgives := stewardRom_gives true hrun
    rw [if_neg (Bool.not_eq_true _ ▸ hstrap), if_neg (by decide)] at hgives
    refine ⟨_, hgives, romRun_power _, ?_⟩
    rw [romRun_boot]
    exact ⟨rfl, recovery_of_mayRun hrun, rfl, rfl⟩
  case romStrap =>
    intro flashAnswers hrun hstrap
    have hgives := stewardRom_gives flashAnswers hrun
    rw [if_pos hstrap] at hgives
    exact ⟨_, hgives, enterRecovery_inRecovery 1 (romRun_boot s.dev ▸ rfl)⟩
  case romSilent =>
    intro hrun hstrap
    have hgives := stewardRom_gives false hrun
    rw [if_neg (Bool.not_eq_true _ ▸ hstrap), if_pos (by decide)] at hgives
    exact ⟨_, hgives, enterRecovery_inRecovery 2 (romRun_boot s.dev ▸ rfl)⟩
  case imageSilent => exact fun hrun => ⟨_, firmwareImage_silent hrun, enterRecovery_inRecovery 2 rfl⟩
  case image =>
    intro hrun
    split
    next code hcheck => exact ⟨_, firmwareImage_failed hrun hcheck, enterRecovery_inRecovery code rfl⟩
    next hcheck =>
      refine leads_of_gives (firmwareImage_passed hrun hcheck) ?_
      rw [takeImage_boot, imageInfo_manifest]
      exact ⟨rfl, rfl, recovery_of_mayRun hrun, rfl⟩
  case measured =>
    intro hrun
    exact ⟨_, measuredBoot_gives hrun, rfl, rfl⟩

end Sys2Proof.Proofs.FirmwareImage
end

section
/-!
PROOFS. The retirement of quads (R77, R112, R474): what it leaves, and that every quad of a run of retirements stands in
the trim record afterwards.
-/

namespace Sys2Proof.Proofs.RetiredQuads
open Sys2Proof Sys2Proof.Machine Sys2Proof.Proofs.StartUpFrames

/-- The steward's re-commit changes the plan alone. -/
theorem stewardRecommit_eq (d : Dev) (q : Nat) : ∃ plan, d.stewardRecommit q = { d with plan := plan } := by
  unfold Dev.stewardRecommit
  dsimp only
  split
  · exact ⟨_, rfl⟩
  · split
    · exact ⟨_, rfl⟩
    · split <;> exact ⟨_, rfl⟩

theorem setHealth_power (d : Dev) (c st : Nat) : (d.setHealth c st).power = d.power := by simp [Dev.setHealth]

theorem setHealth_boot (d : Dev) (c st : Nat) : (d.setHealth c st).boot = d.boot := by simp [Dev.setHealth]

/-- A change of state is on its own core. -/
theorem setHealth_core_ne (d : Dev) {b c : Nat} (st : Nat) (h : b ≠ c) : (d.setHealth c st).core b = d.core b := by
  rw [Dev.setHealth, Dev.core, event_cores]
  exact core_modCore_ne d _ h

/-- The cores of a quad become RETIRED. -/
def retireCores (d : Dev) (q : Nat) : Dev :=
  d.forEach (coresOfQuad q) fun d c => if (d.core c).health = 2 then d else d.setHealth c 2

theorem retireCores_power (d : Dev) (q : Nat) : (retireCores d q).power = d.power :=
  forEach_leaves Dev.power (fun e c => by split <;> simp only [setHealth_power]) _ d

theorem retireCores_boot (d : Dev) (q : Nat) : (retireCores d q).boot = d.boot :=
  forEach_leaves Dev.boot (fun e c => by split <;> simp only [setHealth_boot]) _ d

/-- Whether a quad is RETIRED is held by its cores. -/
theorem quadRetired_congr {d e : Dev} (h : e.cores = d.cores) (q : Nat) : e.quadRetired q = d.quadRetired q := by
  simp only [Dev.quadRetired, Dev.core, h]

/-- The state of a quad is that of its first core, which is none of another quad's. -/
theorem first_not_mem_coresOfQuad {p q : Nat} (h : q ≠ p) : 4 * q ∉ coresOfQuad p := by
  simp only [coresOfQuad, List.mem_cons, List.not_mem_nil, or_false]
  omega

theorem quadRetired_retireCores_ne (d : Dev) {p q : Nat} (h : q ≠ p) :
    (retireCores d p).quadRetired q = d.quadRetired q := by
  have hcore : (retireCores d p).core (4 * q) = d.core (4 * q) := by
    refine forEach_leaves_of_mem (fun e => e.core (4 * q)) (fun c hc e => ?_) d
    have hne : 4 * q ≠ c := fun he => first_not_mem_coresOfQuad h (he ▸ hc)
    split
    · rfl
    · exact setHealth_core_ne e 2 hne
  rw [Dev.quadRetired, hcore, Dev.quadRetired]

/-! ## One quad -/

/-- What the retirement of a quad in service leaves, beside the plan. -/
theorem retireQuad_eq {d : Dev} {q : Nat} (h : d.quadRetired q = false) : ∃ plan,
    d.retireQuad q = { retireCores d q with
      plan := plan
      boot := { d.boot with
        trimRetired := if d.boot.trimRetired.contains q then d.boot.trimRetired else d.boot.trimRetired ++ [q] } } := by
  have hboot := retireCores_boot d q
  obtain ⟨plan, hplan⟩ := stewardRecommit_eq ((retireCores d q).modBoot fun b => { b with
    trimRetired := if b.trimRetired.contains q then b.trimRetired else b.trimRetired ++ [q] }) q
  refine ⟨plan, ?_⟩
  rw [Dev.retireQuad, if_neg (by simp [h])]
  refine hplan.trans ?_
  simp only [Dev.modBoot, hboot]

theorem retireQuad_of_retired {d : Dev} {q : Nat} (h : d.quadRetired q = true) : d.retireQuad q = d := if_pos h

theorem retireQuad_power (d : Dev) (q : Nat) : (d.retireQuad q).power = d.power := by
  cases h : d.quadRetired q with
  | true => rw [retireQuad_of_retired h]
  | false =>
    obtain ⟨_, he⟩ := retireQuad_eq h
    rw [he]
    exact retireCores_power d q

/-- No quad leaves the trim record. -/
theorem mem_trimRetired_retireQuad {d : Dev} {q : Nat} (p : Nat) (h : q ∈ d.boot.trimRetired) :
    q ∈ (d.retireQuad p).boot.trimRetired := by
  cases hp : d.quadRetired p with
  | true => rwa [retireQuad_of_retired hp]
  | false =>
    obtain ⟨_, he⟩ := retireQuad_eq hp
    rw [he]
    dsimp only
    split
    · exact h
    · exact List.mem_append_left _ h

/-- A quad in service stands in the trim record once it has been retired. -/
theorem self_mem_trimRetired {d : Dev} {q : Nat} (h : d.quadRetired q = false) :
    q ∈ (d.retireQuad q).boot.trimRetired := by
  obtain ⟨_, he⟩ := retireQuad_eq h
  rw [he]
  dsimp only
  split
  next hin => exact List.contains_iff_mem.1 hin
  · simp

theorem quadRetired_retireQuad_ne (d : Dev) {p q : Nat} (h : q ≠ p) :
    (d.retireQuad p).quadRetired q = d.quadRetired q := by
  cases hp : d.quadRetired p with
  | true => rw [retireQuad_of_retired hp]
  | false =>
    obtain ⟨_, he⟩ := retireQuad_eq hp
    have hcores : (d.retireQuad p).cores = (retireCores d p).cores := by rw [he]
    exact (quadRetired_congr hcores q).trans (quadRetired_retireCores_ne d h)

/-! ## Several quads -/

/-- The retirement of several quads. -/
def retireAll (d : Dev) (qs : List Nat) : Dev := d.forEach qs fun d q => d.retireQuad q

theorem retireAll_power (d : Dev) (qs : List Nat) : (retireAll d qs).power = d.power :=
  forEach_leaves Dev.power retireQuad_power qs d

theorem mem_trimRetired_retireAll {q : Nat} (qs : List Nat) {d : Dev} (h : q ∈ d.boot.trimRetired) :
    q ∈ (retireAll d qs).boot.trimRetired := by
  induction qs generalizing d with
  | nil => exact h
  | cons p qs ih => exact ih (mem_trimRetired_retireQuad p h)

/-- Of the quads `qs`, each one that is RETIRED stands in the trim record. -/
def Recorded (d : Dev) (qs : List Nat) : Prop := ∀ q ∈ qs, d.quadRetired q = true → q ∈ d.boot.trimRetired

theorem Recorded.retireQuad {d : Dev} {p : Nat} {qs : List Nat} (h : Recorded d (p :: qs)) :
    Recorded (d.retireQuad p) qs := by
  intro q hq hret
  by_cases hqp : q = p
  · subst hqp
    cases hold : d.quadRetired q with
    | true => exact mem_trimRetired_retireQuad q (h q (.head _) hold)
    | false => exact self_mem_trimRetired hold
  · rw [quadRetired_retireQuad_ne d hqp] at hret
    exact mem_trimRetired_retireQuad p (h q (.tail _ hq) hret)

/-- Every quad of the run stands in the trim record afterwards. -/
theorem retireAll_recorded {qs : List Nat} {d : Dev} (h : Recorded d qs) :
    ∀ q ∈ qs, q ∈ (retireAll d qs).boot.trimRetired := by
  induction qs generalizing d with
  | nil => exact fun q hq => nomatch hq
  | cons p qs ih =>
    intro q hq
    rcases List.mem_cons.1 hq with rfl | hq
    · refine mem_trimRetired_retireAll qs (d := d.retireQuad q) ?_
      cases hold : d.quadRetired q with
      | true => exact mem_trimRetired_retireQuad q (h q (.head _) hold)
      | false => exact self_mem_trimRetired hold
    · exact ih h.retireQuad q hq

/-- Quads in service are none of the RETIRED. -/
theorem recorded_of_inService {d : Dev} {qs : List Nat} (h : ∀ q ∈ qs, q ∈ d.quadsInService) : Recorded d qs := by
  intro q hq hret
  have hin := (List.mem_filter.1 (h q hq)).2
  rw [hret] at hin
  cases hin

end Sys2Proof.Proofs.RetiredQuads
end

section
/-!
PROOFS. The end of a commit leaves the start-up registers as they stand (R110): phase F reads the records of the pitches
back, which ends their dice tests and drains their write buffers, and nothing of that is on them.
-/

namespace Sys2Proof.Proofs.CommitFrames
open Sys2Proof Sys2Proof.Machine Sys2Proof.Proofs.StartUpFrames

/-! ## The relation -/

/-- From `d` to `d'`, the start-up registers stay. A structure, so that a goal about a restored core compares modules and
never evaluates one. -/
structure LeavesBoot (d d' : Dev) : Prop where
  boot : d'.boot = d.boot

namespace LeavesBoot

variable {d d' e : Dev}

theorem refl (d : Dev) : LeavesBoot d d := ⟨rfl⟩

theorem trans (h : LeavesBoot d d') (k : LeavesBoot d' e) : LeavesBoot d e := ⟨k.boot.trans h.boot⟩

theorem modCore (c : Nat) (f : Core → Core) (h : LeavesBoot d e) : LeavesBoot d (e.modCore c f) := ⟨h.boot⟩
theorem modMem (f : Mem → Mem) (h : LeavesBoot d e) : LeavesBoot d (e.modMem f) := ⟨h.boot⟩
theorem modPlan (f : Plan → Plan) (h : LeavesBoot d e) : LeavesBoot d (e.modPlan f) := ⟨h.boot⟩
theorem modFab (f : Fabric → Fabric) (h : LeavesBoot d e) : LeavesBoot d (e.modFab f) := ⟨h.boot⟩
theorem modEngine (n : Nat) (f : Engine → Engine) (h : LeavesBoot d e) : LeavesBoot d (e.modEngine n f) := ⟨h.boot⟩
theorem setChunkPois (n : Nat) (v : Bool) (h : LeavesBoot d e) : LeavesBoot d (e.setChunkPois n v) := ⟨h.boot⟩
theorem takeFree (h : LeavesBoot d e) : LeavesBoot d e.takeFree.2 := ⟨h.boot⟩
theorem send (r : Req) (h : LeavesBoot d e) : LeavesBoot d (e.send r).1 := ⟨h.boot⟩

theorem msix (f vec : Nat) (h : LeavesBoot d e) : LeavesBoot d (e.msix f vec) := ⟨(msix_boot e f vec).trans h.boot⟩

theorem event (kind unit detail : Nat) (h : LeavesBoot d e) : LeavesBoot d (e.event kind unit detail) :=
  ⟨(event_boot e kind unit detail).trans h.boot⟩

theorem count (p : Option Nat) (ev n : Nat) (id : Option Ident) (h : LeavesBoot d e) :
    LeavesBoot d (e.count p ev n id) := by
  cases p <;> exact ⟨h.boot⟩

theorem ite {p : Prop} [Decidable p] (h : LeavesBoot d d') (k : LeavesBoot d e) :
    LeavesBoot d (if p then d' else e) := by
  split
  · exact h
  · exact k

theorem forEach {α : Type} {f : Dev → α → Dev} (hf : ∀ e x, LeavesBoot e (f e x)) (l : List α) (h : LeavesBoot d e) :
    LeavesBoot d (e.forEach l f) :=
  ⟨(forEach_leaves Dev.boot (fun e x => (hf e x).boot) l e).trans h.boot⟩

end LeavesBoot

/-! ## Write buffers (R265, R267) -/

theorem wbEcc_leavesBoot (d : Dev) (c : Nat) (w : WbEntry) : LeavesBoot d (d.wbEcc c w).1 := by
  unfold Dev.wbEcc
  split
  · exact .count _ _ _ _ (.event _ _ _ (.refl d))
  · exact .count _ _ _ _ (.event _ _ _ (.modCore _ _ (.takeFree (.refl d))))
  · exact .refl d

theorem drainEntry_leavesBoot (d : Dev) (c e : Nat) : LeavesBoot d (d.drainEntry c e) := by
  unfold Dev.drainEntry
  dsimp only
  split
  · exact .refl d
  · refine .ite (.modCore _ _ (.refl d)) (.modCore _ _ (.count _ _ _ _ (.send _ ?_)))
    exact .trans (.modCore _ _ (.refl d)) (wbEcc_leavesBoot _ _ _)

theorem haltCore_leavesBoot (d : Dev) (c : Nat) : LeavesBoot d (d.haltCore c) :=
  .ite (.modCore _ _ (.forEach (fun e x => drainEntry_leavesBoot e c x) _ (.refl d))) (.refl d)

/-! ## Phase F (R110, R450) -/

theorem endTest_leavesBoot (d : Dev) (c : Nat) : LeavesBoot d (d.endTest c) :=
  .ite (.refl d) (.trans (.modCore _ _ (.modMem _ (.refl d))) (haltCore_leavesBoot _ c))

theorem restoreCore_leavesBoot (d : Dev) (p l c : Nat) : LeavesBoot d (d.restoreCore p l c) := by
  unfold Dev.restoreCore
  refine .forEach (fun e u => ?unit) _ (.modCore _ _ (endTest_leavesBoot d c))
  case unit => exact .setChunkPois _ _ (.setChunkPois _ _ (.modMem _ (.refl e)))

theorem restorePitch_leavesBoot (d : Dev) (p : Nat) : LeavesBoot d (d.restorePitch p) := by
  unfold Dev.restorePitch
  refine .forEach (fun e x => .modEngine _ _ (.refl e)) _ (.modPlan _ (.forEach (fun e c => ?core) _ (.refl d)))
  case core => exact restoreCore_leavesBoot e p c.2 c.1

theorem endCommit_leavesBoot (d : Dev) (c : Commit) : LeavesBoot d (d.endCommit c) := by
  have hrestored : LeavesBoot d (if (c.reason == 0) = true then d.forEach c.saved fun d p => d.restorePitch p else d) :=
    .ite (.forEach restorePitch_leavesBoot _ (.refl d)) (.refl d)
  unfold Dev.endCommit
  exact .msix _ _ (.modPlan _ (.ite (.modFab _ hrestored) hrestored))

end Sys2Proof.Proofs.CommitFrames
end

section
/-!
PROOFS. Stages 5 to 10 (R73 to R77, R84 to R88, R474): for each stage, the module that it leaves, as far as a statement
names it.
-/

namespace Sys2Proof.Proofs.ServiceStages
open Sys2Proof Sys2Proof.Machine Sys2Proof.Proofs.Answers Sys2Proof.Proofs.StartUpFrames
  Sys2Proof.Proofs.RetiredQuads Sys2Proof.Proofs.CommitFrames

/-! ## Stage 5 (R73, R74, R474) -/

/-- What the findings of the self-test leave, before quads retire. -/
def selfTested (d : Dev) (r : BistResult) : Dev :=
  d.zeroPackage.modBoot fun b => { b with
    oosGranules := r.granules, disabledWays := r.ways
    result := if r.hubBad then 0xC else if !r.granules.isEmpty || !r.quads.isEmpty || !r.ways.isEmpty then 9 else b.result
    stopped := r.hubBad }

theorem sramRepairBist_gives {s : State} (r : BistResult) (hrun : s.dev.mayRun 5 = true) :
    Gives (.sramRepairBist r) s (((retireAll (selfTested s.dev r)
      (dedup (s.dev.boot.trimRetired ++ r.quads.filter fun q => q < 64))).extend 4
        (Config.sha384 r.summary)).endStage 5) :=
  gives_of_eq rfl (if_neg (by simp [hrun]))

/-- On the package no byte is left (R74). -/
theorem byteAt_zeroPackage (d : Dev) {a : Nat} (h : (regionOf a).isBiv = false) :
    byteAt d.zeroPackage.mem.bytes a = 0 := by
  have hfilter := byteAt_filter (fun a => (regionOf a).isBiv) d.mem.bytes a
  rwa [h] at hfilter

/-- Granules or ways beyond repair are reported (R73). -/
theorem selfTested_result (d : Dev) {r : BistResult} (hhub : r.hubBad = false) (h : r.granules ≠ [] ∨ r.ways ≠ []) :
    (selfTested d r).boot.result = 9 := by
  simp only [selfTested, modBoot_boot, hhub]
  rcases h with h | h <;> simp [h]

/-! ## Stage 6 (R76, R77) -/

/-- What the loop of R76 leaves for a module. -/
def replanned (d : Dev) (readings : List (List Int)) : Replan :=
  replanLoop (readings.take 26) 1 0 d.quadsInService { mv := d.boot.trimMv.getD 720 }

/-- The module with the trim that the loop found. -/
def trimmed (d : Dev) (r : Replan) : Dev :=
  ((retireAll d r.retire).modPower fun p => { p with vddCoreMv := r.mv }).modBoot fun b => { b with trimMv := some r.mv }

theorem ageingMarginReplan_gives {s : State} (readings : List (List Int)) (hrun : s.dev.mayRun 6 = true) :
    Gives (.ageingMarginReplan readings) s
      (let r := replanned s.dev readings
       ((((trimmed s.dev r).event 0x12 0 r.mv).extend 5 (Config.sha384 (trimBytes r))).endStage 6).reachStage7) :=
  gives_of_eq rfl (if_neg (by simp [hrun]))

theorem reachStage7_power (d : Dev) : d.reachStage7.power = d.power := by
  unfold Dev.reachStage7
  split
  · rfl
  · exact (tryPhase1_onChain d).power

theorem reachStage7_trimMv (d : Dev) : d.reachStage7.boot.trimMv = d.boot.trimMv := by
  unfold Dev.reachStage7
  split
  · rfl
  · rw [(tryPhase1_onChain d).boot]

theorem trimmed_power (d : Dev) (r : Replan) : (trimmed d r).power = { d.power with vddCoreMv := r.mv } := by
  rw [trimmed, modBoot_power, modPower_power, retireAll_power]

/-! ## Stage 8 (R84 to R86) -/

/-- The ports after training. -/
def portsTrained (d : Dev) (ports : List TrainResult) : Dev :=
  d.forEach (List.range 12) fun d n => d.trainPort n (ports[n]?.getD noTrain)

/-- A bivouac port after training: absent with width 0 (R86). -/
def trainBiv (t : BivTrain) (b : BivPort) : BivPort :=
  if t.width = 0 then { b with st := 0, width := 0, rate := 0, gib := 0 }
  else { b with st := 1, width := t.width, rate := t.rate, gib := min t.gib 1024 }

/-- The bivouac ports after training. -/
def bivTrained (d : Dev) (biv : List BivTrain) : Dev :=
  d.forEach (List.range 2) fun d n => d.modBiv n (trainBiv (biv[n]?.getD { width := 0, rate := 0, gib := 0 }))

theorem linkTraining_gives {s : State} (ports : List TrainResult) (biv : List BivTrain) (hrun : s.dev.mayRun 8 = true)
    (hperst : s.dev.bivPerst = false) :
    Gives (.linkTraining ports biv) s (((bivTrained (portsTrained s.dev ports) biv).modPower fun p => { p with
      lnkLock := true, bivLock := true }).endStage 8) :=
  gives_of_eq rfl (if_neg (by simp [hrun, hperst]))

/-- While BIVn_PERST_N is low nothing is trained (R86). -/
theorem linkTraining_held {s : State} (ports : List TrainResult) (biv : List BivTrain)
    (hperst : s.dev.bivPerst = true) : Gives (.linkTraining ports biv) s s.dev :=
  gives_of_eq rfl (if_pos (by simp [hperst]))

/-- The training of a port is about the port and the time. -/
theorem trainPort_port_congr {d e : Dev} {n : Nat} (r : TrainResult) (htime : e.time = d.time)
    (hport : e.port n = d.port n) : (e.trainPort n r).port n = (d.trainPort n r).port n := by
  simp only [Dev.trainPort, port_modPort_self, htime, hport]

theorem portsTrained_port (d : Dev) (ports : List TrainResult) {n : Nat} (hn : n < 12) :
    (portsTrained d ports).port n = (d.trainPort n (ports[n]?.getD noTrain)).port n := by
  obtain ⟨e, htime, hport, hturn⟩ := forEach_own_turn (fun e => e.port n) List.nodup_range (List.mem_range.2 hn)
    (fun e m => modPort_time e m _) (fun e m h => port_modPort_ne e _ h.symm) d
  exact hturn.trans (trainPort_port_congr _ htime hport)

theorem biv_modBiv_self (d : Dev) (n : Nat) (f : BivPort → BivPort) : (d.modBiv n f).biv n = f (d.biv n) := by
  simp [Dev.modBiv, Dev.biv]

theorem biv_modBiv_ne (d : Dev) {m n : Nat} (f : BivPort → BivPort) (h : m ≠ n) : (d.modBiv n f).biv m = d.biv m := by
  simp [Dev.modBiv, Dev.biv, h]

theorem bivTrained_biv (d : Dev) (biv : List BivTrain) {n : Nat} {t : BivTrain} (hn : n < 2) (ht : biv[n]? = some t) :
    (bivTrained d biv).biv n = trainBiv t (d.biv n) := by
  obtain ⟨e, -, hbiv, hturn⟩ := forEach_own_turn (fun e => e.biv n) List.nodup_range (List.mem_range.2 hn)
    (fun e m => modBiv_time e m _) (fun e m h => biv_modBiv_ne e _ h.symm) d
  refine hturn.trans ?_
  rw [biv_modBiv_self, ht]
  exact congrArg _ hbiv

theorem bivTrained_port (d : Dev) (biv : List BivTrain) (n : Nat) : (bivTrained d biv).port n = d.port n :=
  forEach_leaves (fun e => e.port n) (fun e m => by simp only [Dev.port, modBiv_fab]) _ d

theorem modPower_port (d : Dev) (f : Power → Power) (n : Nat) : (d.modPower f).port n = d.port n := rfl
theorem modPower_biv (d : Dev) (f : Power → Power) (n : Nat) : (d.modPower f).biv n = d.biv n := rfl
theorem endStage_port (d : Dev) (k n : Nat) : (d.endStage k).port n = d.port n := rfl
theorem endStage_biv (d : Dev) (k n : Nat) : (d.endStage k).biv n = d.biv n := rfl

theorem trained_power (d : Dev) (ports : List TrainResult) (biv : List BivTrain) :
    (bivTrained (portsTrained d ports) biv).power = d.power :=
  (forEach_leaves Dev.power (fun e n => modBiv_power e n _) _ _).trans
    (forEach_leaves Dev.power (fun e n => modPort_power e n _) _ d)

/-! ## Stage 9 (R87) -/

/-- The default plan's commit after its phases. -/
def defaultPlanRun (d : Dev) : Dev :=
  let pl := d.flashPlan.filter fun b => b.1 < planLen
  ((d.modPlan fun p => { p with staging := pl }).startCommit false pl (planOrder pl)).commitRun 5

/-- The end of a default plan's commit: RESULT names a refused one. -/
def defaultPlanEnd (x : Dev) : Dev :=
  match x.plan.commit with
  | none => x
  | some c => if c.reason = 0 then x.endCommit c else (x.endCommit c).bootResult 0xB

theorem sitePlanLoad_unreadable {s : State} (hrun : s.dev.mayRun 9 = true) :
    Gives (.sitePlanLoad false) s ((s.dev.bootResult 0xB).endStage 9) :=
  gives_of_eq rfl (if_pos hrun)

theorem sitePlanLoad_erased {s : State} (hrun : s.dev.mayRun 9 = true) (h : s.dev.flashPlan = []) :
    Gives (.sitePlanLoad true) s (s.dev.endStage 9) :=
  gives_of_eq rfl (by simp [hrun, h])

theorem sitePlanLoad_gives {s : State} (hrun : s.dev.mayRun 9 = true) (h : s.dev.flashPlan ≠ []) :
    Gives (.sitePlanLoad true) s ((defaultPlanEnd (defaultPlanRun s.dev)).endStage 9) := by
  refine gives_of_eq rfl ((if_pos hrun).trans (congrArg (Dev.endStage · 9) ?_))
  exact (if_neg (by decide)).trans (if_neg (by simpa using h))

/-- The end of the default plan's commit is that of any commit, with RESULT set if it is refused. -/
theorem defaultPlanEnd_of_commit {x : Dev} {c : Commit} (h : x.plan.commit = some c) :
    (defaultPlanEnd x).plan = (x.endCommit c).plan
    ∧ (c.reason = 0 → (defaultPlanEnd x).boot.result = x.boot.result)
    ∧ (c.reason ≠ 0 → (defaultPlanEnd x).boot.result = 0xB) := by
  rw [defaultPlanEnd, h]
  dsimp only
  by_cases hr : c.reason = 0
  · rw [if_pos hr, (endCommit_leavesBoot x c).boot]
    exact ⟨rfl, fun _ => rfl, fun h => absurd hr h⟩
  · rw [if_neg hr]
    exact ⟨rfl, fun h => absurd h hr, fun _ => rfl⟩

/-! ## Stage 10 (R65, R69, R83, R88) -/

/-- Full service before the chain is told: held VF Enable, the next measurement, the fuses. -/
def inService (d : Dev) : Dev :=
  (((d.endStage 10).modHost fun h => { h with vfEnable := h.vfHeld.getD h.vfEnable, vfHeld := none }).modBoot fun b =>
    { b with remeasureAt := d.time + ccUs 86400000000 }).fuseUpdate

/-- The chain is told: the boot report, SERVICE from the head, phase 3 where SERVICE has been seen (R83). -/
def chainTold (d : Dev) : Dev :=
  let d := ((d.queueReport 0x01).msix 0 0).serviceIfReady
  if d.chain.serviceSeen && d.chain.phase = 2 then d.enterPhase3 else d

theorem hostVisible_gives {s : State} (hrun : s.dev.mayRun 10 = true) :
    Gives .hostVisible s (chainTold (inService s.dev)) :=
  gives_of_eq rfl (if_neg (by simp [hrun]))

/-- What is told to the chain touches, beside it, what `msix` touches. -/
theorem chainTold_onChain (d : Dev) : OnChain ((d.queueReport 0x01).msix 0 0) (chainTold d) := by
  have hservice := serviceIfReady_onChain ((d.queueReport 0x01).msix 0 0)
  exact .ite (hservice.trans (enterPhase3_onChain _)) hservice

theorem chainTold_boot (d : Dev) : (chainTold d).boot = d.boot := by
  rw [(chainTold_onChain d).boot, msix_boot, (queueReport_onChain d 0x01).boot]

theorem chainTold_vfEnable (d : Dev) : (chainTold d).host.vfEnable = d.host.vfEnable := by
  rw [(chainTold_onChain d).host, msix_vfEnable, (queueReport_onChain d 0x01).host]

theorem chainTold_vfHeld (d : Dev) : (chainTold d).host.vfHeld = d.host.vfHeld := by
  rw [(chainTold_onChain d).host, msix_vfHeld, (queueReport_onChain d 0x01).host]

/-! ## R73 to R77, R84 to R88 -/

/-- Settles O12: each stage by the module that it leaves; ports and bivouac ports by their own turns of the run over
them, the default plan by whether its region is readable, erased, refused or accepted. -/
theorem serviceStages : Obligations.ServiceStages := by
  intro s
  refine ⟨?bist, ?replan, ?perst, ?training, ?planUnreadable, ?planErased, ?plan, ?visible⟩
  case bist =>
    intro r hrun hquads hretired hhub
    have hgives := sramRepairBist_gives r hrun
    rw [hquads, hretired] at hgives
    refine ⟨_, hgives, rfl, rfl, rfl, rfl, rfl, rfl, selfTested_result s.dev hhub, fun a ha => ?_⟩
    exact byteAt_zeroPackage s.dev ha
  case replan =>
    intro readings hrun
    refine ⟨_, ageingMarginReplan_gives readings hrun, ?_, ?_⟩
    · rw [reachStage7_power, endStage_power, extend_power, event_power, trimmed_power]
      rfl
    · rw [reachStage7_trimMv, endStage_boot, extend_boot, event_boot]
      rfl
  case perst =>
    intro ports biv hrun hearly
    exact linkTraining_held ports biv (by simp [Dev.bivPerst, hrun, hearly])
  case training =>
    intro ports biv hrun hlate
    refine ⟨_, linkTraining_gives ports biv hrun (by simp [Dev.bivPerst, hlate]), rfl, ?_, fun n hn => ?_,
      fun n t hn ht hwidth => ?_⟩
    · rw [endStage_power, modPower_power, trained_power]
    · rw [endStage_port, modPower_port, bivTrained_port, portsTrained_port s.dev ports hn]
    · rw [endStage_biv, modPower_biv, bivTrained_biv _ biv hn ht, trainBiv, if_neg hwidth]
      exact ⟨rfl, rfl, rfl, rfl⟩
  case planUnreadable => exact fun hrun => ⟨_, sitePlanLoad_unreadable hrun, rfl, rfl, rfl⟩
  case planErased => exact fun hrun h => ⟨_, sitePlanLoad_erased hrun h, rfl, rfl, rfl⟩
  case plan =>
    intro hrun h
    refine leads_of_gives (sitePlanLoad_gives hrun h) ?_
    intro pl x
    have hx : x = defaultPlanRun s.dev := rfl
    clear_value x
    subst hx
    rw [endStage_boot, endStage_plan]
    exact ⟨rfl, fun c hc => defaultPlanEnd_of_commit hc⟩
  case visible =>
    intro hrun
    refine leads_of_gives (hostVisible_gives hrun) ?_
    rw [chainTold_boot, chainTold_vfEnable, chainTold_vfHeld]
    exact ⟨rfl, rfl, rfl, rfl, rfl⟩

end Sys2Proof.Proofs.ServiceStages
end

section
/-!
PROOFS. Recovery (R71), the daily measurement (R77, R78) and the restart of the steward (R464): one equation for each way
in which a command answers.
-/

namespace Sys2Proof.Proofs.RecoveryAndUpkeep
open Sys2Proof Sys2Proof.Machine Sys2Proof.Proofs.Answers Sys2Proof.Proofs.StartUpFrames
  Sys2Proof.Proofs.RetiredQuads

/-! ## Recovery (R71) -/

theorem stwRecovGo_gives {s : State} {v : W32} (hlink : s.dev.power.pcieL0 = true) (hrec : s.dev.boot.recovery = true)
    (hgo : v.getLsbD 0 = true) (hcheck : s.dev.boot.recovState ≠ 1) (hprog : s.dev.boot.recovState ≠ 2) :
    Gives (.stwRecovGo 0 v) s (s.dev.modBoot fun b => { b with
      recovState := 1, recovAttempts := satAdd 0xFFFF b.recovAttempts 1 }) := by
  refine gives_of_eq rfl (if_neg ?_)
  rw [hlink, hrec, hgo]
  simp [hcheck, hprog]

theorem recovCheckDone_passed {s : State} (hrec : s.dev.boot.recovery = true) (hstate : s.dev.boot.recovState = 1)
    (hcheck : s.dev.imageCheck s.dev.boot.recovWindow = none) :
    Gives .recovCheckDone s (s.dev.modBoot fun b => { b with recovState := 2 }) :=
  gives_of_eq rfl (by simp [hrec, hstate, hcheck])

theorem recovCheckDone_failed {s : State} {code : Nat} (hrec : s.dev.boot.recovery = true)
    (hstate : s.dev.boot.recovState = 1) (hcheck : s.dev.imageCheck s.dev.boot.recovWindow = some code) :
    Gives .recovCheckDone s ((s.dev.modBoot fun b => { b with recovState := 4, recovCause := code }).msix 0 0) :=
  gives_of_eq rfl (by simp [hrec, hstate, hcheck])

/-- The flash holds the image of the recovery window, and start-up goes on at stage 3. -/
def programmed (d : Dev) : Dev :=
  d.modBoot fun b => { b with
    flash := (b.recovWindow.filter fun x => x.1 < flashImageLen) ++ b.flash.filter fun x => flashImageLen ≤ x.1
    recovState := 3, recovery := false, stage := 2, skipEnum := decide (2 ≤ d.chain.phase)
    stageEnd := b.stageEnd.filter fun x => x.1 < 3 }

theorem recovProgramDone_gives {s : State} (hrec : s.dev.boot.recovery = true) (hstate : s.dev.boot.recovState = 2) :
    Gives .recovProgramDone s ((programmed s.dev).msix 0 0) :=
  gives_of_eq rfl (if_neg (by simp [hrec, hstate]))

/-! ## The daily measurement (R77, R78) -/

/-- The next measurement falls due 24 h after this one was. -/
def remeasured (d : Dev) : Dev := d.modBoot fun b => { b with remeasureAt := b.remeasureAt + ccUs 86400000000 }

/-- A measurement that is due, by the least slack and by VDD_CORE. -/
theorem ageingRemeasure_gives {s : State} (r : List Int) (hstage : s.dev.boot.stage = 10)
    (hrun : s.dev.chain.stewardStopped = false) (hdue : s.dev.boot.remeasureAt ≤ s.dev.time) :
    Gives (.ageingRemeasure r) s
      (if guardPs ≤ minSlack r s.dev.quadsInService then remeasured s.dev
        else if s.dev.power.vddCoreMv < 800 then
          ((remeasured s.dev).modPower fun p => { p with vddCoreMv := p.vddCoreMv + 5 }).event 0x12 0
            (s.dev.power.vddCoreMv + 5)
        else retireAll (remeasured s.dev) (s.dev.quadsInService.filter fun q => quadSlack r q < guardPs)) :=
  gives_of_eq rfl (if_neg (by simp [Dev.fullService, hstage, hrun, hdue]))

/-! ## The steward's restart (R464) -/

theorem stewardWatchdog_gives {s : State} (hstop : s.dev.chain.stewardStopped = true)
    (hrestart : s.dev.boot.stewardRestarting = false) :
    Gives .stewardWatchdog s ((s.dev.event 0x15 0 0).modBoot fun b => { b with stewardRestarting := true }) :=
  gives_of_eq rfl (if_pos (by simp [hstop, hrestart]))

/-- The steward runs again: an update that its stop broke off is forgotten, and its heartbeats go on. -/
def stewardBack (d : Dev) : Dev :=
  (d.modBoot fun b => { b with stewardRestarting := false, fwProg := none }).modChain fun c => { c with
    stewardStopped := false, chnOutHigh := c.phase != 0, heartbeatAt := d.time + ccUs 100 }

/-- The checks of an image are about the fuses, which no restart changes. -/
theorem imageCheck_stewardBack (d : Dev) : (stewardBack d).imageCheck (stewardBack d).flashImage
    = d.imageCheck d.flashImage := rfl

/-- The steward's restart ends with the checks of its image: the module serves on, or enters recovery. -/
def restarted (d : Dev) : Dev :=
  match (stewardBack d).imageCheck (stewardBack d).flashImage with
  | some c => (stewardBack d).enterRecovery c
  | none => stewardBack d

theorem stewardRestartDone_gives {s : State} (hrestart : s.dev.boot.stewardRestarting = true) :
    Gives .stewardRestartDone s (restarted s.dev) :=
  gives_of_eq rfl (if_neg (by simp [hrestart]))

theorem restarted_of_passed {d : Dev} (h : d.imageCheck d.flashImage = none) : restarted d = stewardBack d := by
  rw [restarted, imageCheck_stewardBack, h]

theorem restarted_of_failed {d : Dev} {code : Nat} (h : d.imageCheck d.flashImage = some code) :
    restarted d = (stewardBack d).enterRecovery code := by
  rw [restarted, imageCheck_stewardBack, h]

/-! ## R71, R77, R78, R464 -/

/-- Settles O13: the recovery image and the restarted steward by the first check that fails, the measurement by the
least slack and by VDD_CORE. -/
theorem recoveryAndUpkeep : Obligations.RecoveryAndUpkeep := by
  intro s
  refine ⟨?go, ?checked, ?programmed, ?enough, ?raised, ?retired, ?watchdog, ?restarted⟩
  case go => exact fun v hlink hrec hgo hcheck hprog => stwRecovGo_gives hlink hrec hgo hcheck hprog
  case checked =>
    intro hrec hstate
    split
    next hcheck => exact recovCheckDone_passed hrec hstate hcheck
    next code hcheck =>
      refine leads_of_gives (recovCheckDone_failed hrec hstate hcheck) ?_
      rw [msix_boot, msix_chain]
      exact ⟨rfl, rfl⟩
  case programmed =>
    intro hrec hstate
    refine leads_of_gives (recovProgramDone_gives hrec hstate) ?_
    rw [msix_boot, msix_chain]
    exact ⟨rfl, rfl, rfl, rfl, rfl⟩
  case enough =>
    intro r hstage hrun hdue hslack
    have hgives := ageingRemeasure_gives r hstage hrun hdue
    rwa [if_pos hslack] at hgives
  case raised =>
    intro r hstage hrun hdue hslack hmv
    have hgives := ageingRemeasure_gives r hstage hrun hdue
    rw [if_neg (Int.not_le.2 hslack), if_pos hmv] at hgives
    exact ⟨_, hgives, event_power _ _ _ _⟩
  case retired =>
    intro r hstage hrun hdue hslack hmv
    have hgives := ageingRemeasure_gives r hstage hrun hdue
    rw [if_neg (Int.not_le.2 hslack), if_neg (Nat.not_lt.2 hmv)] at hgives
    refine ⟨_, hgives, retireAll_power _ _, fun q hq hbad => ?_⟩
    have hservice : Recorded (remeasured s.dev) (s.dev.quadsInService.filter fun q => quadSlack r q < guardPs) :=
      recorded_of_inService fun p hp => (List.mem_filter.1 hp).1
    exact retireAll_recorded hservice q (List.mem_filter.2 ⟨hq, decide_eq_true hbad⟩)
  case watchdog =>
    intro hstop hrestart
    refine ⟨_, stewardWatchdog_gives hstop hrestart, ?_, fun hroom => ?_⟩
    · rw [modBoot_boot, event_boot]
    · exact ⟨_, event_queued 0x15 0 0 hroom, rfl, rfl⟩
  case restarted =>
    intro hrestart
    have hgives := stewardRestartDone_gives hrestart
    split
    next hcheck =>
      rw [restarted_of_passed hcheck] at hgives
      exact ⟨_, hgives, rfl, rfl, rfl⟩
    next code hcheck =>
      rw [restarted_of_failed hcheck] at hgives
      refine leads_of_gives hgives ?_
      rw [enterRecovery_boot]
      exact ⟨rfl, rfl, rfl⟩

end Sys2Proof.Proofs.RecoveryAndUpkeep
end

section
/-!
PROOFS. What the operations on a core leave of the groups in its slots: the updates of a core's other fields, the issue
of an instruction (R125 to R127), and the halt of a core (R194, R265).
-/

namespace Sys2Proof.Proofs.GroupFrames
open Sys2Proof Sys2Proof.Machine Sys2Proof.Proofs.StartUpFrames

/-! ## Updates of a core -/

theorem tset_tset {α : Type} (t : Tab α) (k : Nat) (v w : α) : tset (tset t k v) k w = tset t k w := by
  induction t with
  | nil => simp [tset]
  | cons e t ih =>
    obtain ⟨i, x⟩ := e
    by_cases hlt : i < k
    · simp [tset, hlt, ih]
    · by_cases heq : i = k
      · simp [tset, heq]
      · simp [tset, hlt, heq]

theorem modCore_modCore (d : Dev) (c : Nat) (f h : Core → Core) :
    (d.modCore c f).modCore c h = d.modCore c fun k => h (f k) := by
  rw [Dev.modCore, core_modCore_self]
  simp only [Dev.modCore, Dev.setCore, tset_tset]

/-- An update of a core that leaves its slots leaves every group. -/
theorem group?_modCore {d : Dev} {c : Nat} {f : Core → Core} (hf : (f (d.core c)).slots = (d.core c).slots)
    (b n : Nat) : (d.modCore c f).group? b n = d.group? b n := by
  by_cases h : b = c
  · subst h
    rw [Dev.group?, core_modCore_self, Core.group?, hf]
    rfl
  · rw [Dev.group?, core_modCore_ne d f h]
    rfl

/-- The groups of a core, by its table of slots. -/
theorem group?_modCore_self (d : Dev) (c n : Nat) (f : Core → Core) :
    (d.modCore c f).group? c n = lookup? (f (d.core c)).slots n := by
  rw [Dev.group?, core_modCore_self, Core.group?]

theorem group?_modGroup_of_some {d : Dev} {c n : Nat} {g : Group} (f : Group → Group) (h : d.group? c n = some g) :
    (d.modGroup c n f).group? c n = some (f g) := by
  rw [group?_modGroup_self, h]
  rfl

/-- An update of one group leaves the groups of every other slot and core. -/
theorem group?_modGroup_of_ne (d : Dev) {b c m n : Nat} (f : Group → Group) (h : b ≠ c ∨ m ≠ n) :
    (d.modGroup c n f).group? b m = d.group? b m := by
  by_cases hb : b = c
  · subst hb
    exact group?_modGroup_slot d b f (h.resolve_left (absurd rfl))
  · rw [Dev.group?, core_modGroup_ne d n f hb]
    rfl

@[simp] theorem modCtx_group? (d : Dev) (cid : Nat) (f : Ctx → Ctx) (c n : Nat) :
    (d.modCtx cid f).group? c n = d.group? c n := rfl

/-! ## Counters and events -/

theorem count_eq (d : Dev) (p : Option Nat) (ev n : Nat) (id : Option Ident) :
    ∃ cnt, d.count p ev n id = { d with cnt := cnt } := by
  cases p <;> exact ⟨_, rfl⟩

theorem event_frame (d : Dev) (kind unit detail : Nat) : ∃ chain recorder,
    d.event kind unit detail = { d with chain := chain, recorder := recorder } := by
  obtain ⟨chain, h⟩ := event_eq d kind unit detail
  exact ⟨chain, _, h⟩

/-! ## Groups and launches stay -/

/-- From `d` to `d'`, every group stays as it is, and so does the Board. -/
structure LeavesGroups (d d' : Dev) : Prop where
  group? : ∀ c n, d'.group? c n = d.group? c n
  board : d'.board = d.board

namespace LeavesGroups

variable {d d' e : Dev}

theorem refl (d : Dev) : LeavesGroups d d := ⟨fun _ _ => rfl, rfl⟩

theorem trans (h : LeavesGroups d d') (k : LeavesGroups d' e) : LeavesGroups d e :=
  ⟨fun c n => (k.group? c n).trans (h.group? c n), k.board.trans h.board⟩

theorem same (hcores : d'.cores = d.cores) (hboard : d'.board = d.board) : LeavesGroups d d' :=
  ⟨fun c n => by simp only [Dev.group?, Dev.core, hcores], hboard⟩

theorem modCore {c : Nat} {f : Core → Core} (hf : (f (d.core c)).slots = (d.core c).slots) :
    LeavesGroups d (d.modCore c f) := ⟨group?_modCore hf, rfl⟩

theorem count (d : Dev) (p : Option Nat) (ev n : Nat) (id : Option Ident) : LeavesGroups d (d.count p ev n id) := by
  obtain ⟨_, h⟩ := count_eq d p ev n id
  rw [h]
  exact .same rfl rfl

theorem event (d : Dev) (kind unit detail : Nat) : LeavesGroups d (d.event kind unit detail) := by
  obtain ⟨_, _, h⟩ := event_frame d kind unit detail
  rw [h]
  exact .same rfl rfl

theorem countErr (d : Dev) (corrected : Bool) (p : Option Nat) : LeavesGroups d (d.countErr corrected p) :=
  .count d p _ _ _

theorem ite {p : Prop} [Decidable p] (h : LeavesGroups d d') (k : LeavesGroups d e) :
    LeavesGroups d (if p then d' else e) := by
  split
  · exact h
  · exact k

theorem forEach {α : Type} {f : Dev → α → Dev} (hf : ∀ e x, LeavesGroups e (f e x)) (l : List α) (d : Dev) :
    LeavesGroups d (d.forEach l f) :=
  ⟨fun c n => forEach_leaves (fun e => e.group? c n) (fun e x => (hf e x).group? c n) l d,
    forEach_leaves Dev.board (fun e x => (hf e x).board) l d⟩

end LeavesGroups

/-! ## The halt of a core -/

theorem wbEcc_leavesGroups (d : Dev) (c : Nat) (w : WbEntry) : LeavesGroups d (d.wbEcc c w).1 := by
  unfold Dev.wbEcc
  split
  · exact .trans (.event ..) (.countErr ..)
  · refine .trans ?_ (.trans (.event ..) (.countErr ..))
    exact .trans (d' := d.takeFree.2) (.same rfl rfl) (.modCore rfl)
  · exact .refl d

theorem drainEntry_leavesGroups (d : Dev) (c e : Nat) : LeavesGroups d (d.drainEntry c e) := by
  unfold Dev.drainEntry
  dsimp only
  split
  · exact .refl d
  · refine .ite (.modCore rfl) (.trans ?_ (.modCore rfl))
    refine .trans ?_ (.count ..)
    refine .trans ?_ (.same (d := (Dev.wbEcc _ c _).1) rfl rfl)
    exact .trans (.modCore rfl) (wbEcc_leavesGroups _ c _)

theorem haltCore_leavesGroups (d : Dev) (c : Nat) : LeavesGroups d (d.haltCore c) :=
  .ite (.trans (.forEach (fun e x => drainEntry_leavesGroups e c x) _ d) (.modCore rfl)) (.refl d)

/-! ## The issue of an instruction (R125 to R127) -/

/-- An instruction that issues runs on the module in which its issue has been noted. -/
theorem issueTg_of_issues {d : Dev} {core slot op : Nat} {g : Group} {i : TgInst} (h : Issues d core slot op g i)
    (body : Dev → Group → TgInst → Dev) : d.issueTg core slot op body = body (d.markIssue core slot g) g i := by
  obtain ⟨hchosen, hgroup, rfl, hop, hassigned, hconsumes⟩ := h
  simp [Dev.issueTg, hchosen, hgroup, hop, hassigned, hconsumes]

@[simp] theorem markIssue_mem (d : Dev) (core slot : Nat) (g : Group) : (d.markIssue core slot g).mem = d.mem := by
  obtain ⟨_, h⟩ := count_eq _ _ 1 1 _
  rw [Dev.markIssue, h]
  rfl

@[simp] theorem markIssue_time (d : Dev) (core slot : Nat) (g : Group) : (d.markIssue core slot g).time = d.time := by
  obtain ⟨_, h⟩ := count_eq _ _ 1 1 _
  rw [Dev.markIssue, h]
  rfl

theorem touch_slots (k : Core) (pc : Nat) : (k.touch pc).slots = k.slots := by
  unfold Core.touch
  split <;> rfl

/-- The note of an issue changes of the group that issues only where it stands in a single step. -/
theorem markIssue_group? {d : Dev} {core slot : Nat} {g : Group} (h : d.group? core slot = some g) :
    ∃ n, (d.markIssue core slot g).group? core slot = some { g with stepping := n } := by
  rw [Dev.markIssue, (LeavesGroups.count _ _ _ _ _).group?, modCtx_group?, group?_modGroup_self,
    group?_modCore, h]
  · exact ⟨_, rfl⟩
  · exact touch_slots _ _

end Sys2Proof.Proofs.GroupFrames
end

section
/-!
PROOFS. Branches and EXIT (R133 to R137): the branch acts on the group as its issue leaves it, so one equation for each
command and one lemma for what a branch leaves settle every way in which they go on.
-/

namespace Sys2Proof.Proofs.Branches
open Sys2Proof Sys2Proof.Machine Sys2Proof.Proofs.Answers Sys2Proof.Proofs.GroupFrames

variable {s : State} {core slot : Nat} {g : Group} {i : TgInst}

/-- The group's stack becomes `st` without the entries that are over, and its next instruction is fetched 4 cc later;
its registers and memory stay. -/
def Branched (d d' : Dev) (core slot : Nat) (g : Group) (st : List StackEntry) : Prop := ∃ g',
  d'.group? core slot = some g' ∧ g'.stack = popStack st ∧ g'.fetchAt = d.time + 4
  ∧ g'.treg = g.treg ∧ g'.sreg = g.sreg ∧ g'.preg = g.preg ∧ g'.pend = g.pend ∧ d'.mem = d.mem

/-- What a branch leaves, by the stack that it makes of the group. -/
theorem branch_branched {d : Dev} {f : Group → List StackEntry} {st : List StackEntry}
    (hgroup : d.group? core slot = some g) (hf : ∀ n, f { g with stepping := n } = st) :
    Branched d ((d.markIssue core slot g).branch core slot f) core slot g st := by
  obtain ⟨n, hmarked⟩ := markIssue_group? hgroup
  exact ⟨_, group?_modGroup_of_some _ hmarked, congrArg popStack (hf n),
    congrArg (· + 4) (markIssue_time d core slot g), rfl, rfl, rfl, rfl, markIssue_mem d core slot g⟩

/-- A command that branches with `f` leads to the stack that `f` makes of the group. -/
theorem branch_leads {k : Instr} {op : Nat} {f : Group → List StackEntry} {st : List StackEntry}
    (hissues : Issues s.dev core slot op g i)
    (hexec : exec k s = s.to ((s.dev.markIssue core slot g).branch core slot f))
    (hf : ∀ n, f { g with stepping := n } = st) : Leads k s fun d' => Branched s.dev d' core slot g st := by
  obtain ⟨-, hgroup, -⟩ := hissues
  exact leads_of_gives (gives_of_eq hexec rfl) (branch_branched hgroup hf)

/-! ## BRA (R133, R137) -/

/-- The active lanes in which the guard holds, and those in which it does not. -/
def takenLanes (g : Group) (i : TgInst) : List Nat := g.active.filter fun l => g.guard i l
def otherLanes (g : Group) (i : TgInst) : List Nat := g.active.filter fun l => !g.guard i l

theorem bra_uniform (h : Issues s.dev core slot 0x38 g i) (hothers : otherLanes g i = []) :
    exec (.bra core slot) s
      = s.to ((s.dev.markIssue core slot g).branch core slot fun g => setTopPc i.target g.stack) :=
  congrArg s.to ((issueTg_of_issues h _).trans (if_pos (List.isEmpty_iff.2 hothers)))

theorem bra_untaken (h : Issues s.dev core slot 0x38 g i) (hothers : otherLanes g i ≠ [])
    (htaken : takenLanes g i = []) :
    exec (.bra core slot) s
      = s.to ((s.dev.markIssue core slot g).branch core slot fun g => setTopPc (g.pc + 8) g.stack) :=
  congrArg s.to ((issueTg_of_issues h _).trans
    ((if_neg (mt List.isEmpty_iff.1 hothers)).trans (if_pos (List.isEmpty_iff.2 htaken))))

/-- A divergent BRA pushes the paths, the taken one on top, above the reconvergence point. -/
theorem bra_divergent (h : Issues s.dev core slot 0x38 g i) (hothers : otherLanes g i ≠ [])
    (htaken : takenLanes g i ≠ []) (hroom : g.stack.length + 2 ≤ 32) :
    exec (.bra core slot) s = s.to ((s.dev.markIssue core slot g).branch core slot fun x =>
      { pc := i.target, rpc := i.rpc, mask := laneMask (takenLanes g i) } ::
        { pc := x.pc + 8, rpc := i.rpc, mask := laneMask (otherLanes g i) } :: setTopPc i.rpc x.stack) :=
  congrArg s.to ((issueTg_of_issues h _).trans ((if_neg (mt List.isEmpty_iff.1 hothers)).trans
    ((if_neg (mt List.isEmpty_iff.1 htaken)).trans (if_neg (Nat.not_lt.2 hroom)))))

/-! ## BRX (R135) -/

theorem brx_untaken (h : Issues s.dev core slot 0x39 g i) (htaken : takenLanes g i = []) :
    exec (.brx core slot) s
      = s.to ((s.dev.markIssue core slot g).branch core slot fun g => setTopPc (g.pc + 8) g.stack) :=
  congrArg s.to ((issueTg_of_issues h _).trans (if_pos (List.isEmpty_iff.2 htaken)))

/-- Where the guard fails in no active lane, the taken lanes are the active ones. -/
theorem takenLanes_of_uniform (h : otherLanes g i = []) : takenLanes g i = g.active := by
  refine List.filter_eq_self.2 fun l hl => ?_
  simpa using List.filter_eq_nil_iff.1 h l hl

theorem brx_uniform (h : Issues s.dev core slot 0x39 g i) (htaken : takenLanes g i ≠ [])
    (hothers : otherLanes g i = []) (hrange : (g.s i.d).toNat ≤ 0xFFFF) (halign : (g.s i.d).toNat % 8 = 0) :
    exec (.brx core slot) s
      = s.to ((s.dev.markIssue core slot g).branch core slot fun x => setTopPc (g.s i.d).toNat x.stack) := by
  refine congrArg s.to ((issueTg_of_issues h _).trans
    ((if_neg (mt List.isEmpty_iff.1 htaken)).trans ((if_neg ?uniform).trans (if_neg ?target))))
  case uniform =>
    rw [Bool.not_eq_true, bne_eq_false_iff_eq]
    exact congrArg List.length (takenLanes_of_uniform hothers)
  case target => simp [halign, Nat.not_lt.2 hrange]

/-! ## R133, R135, R136 -/

/-- Settles O18: each way in which a branch goes on, by the stack that it makes of the group. -/
theorem branchInstructions : Obligations.BranchInstructions := by
  intro s core slot g i
  refine ⟨fun hbra => ⟨?uniform, ?untaken, ?divergent⟩, fun hbrx => ⟨?brxUntaken, ?brxUniform⟩,
    fun hexit => ?exit⟩
  case uniform => exact fun hothers => branch_leads hbra (bra_uniform hbra hothers) fun _ => rfl
  case untaken => exact fun hothers htaken => branch_leads hbra (bra_untaken hbra hothers htaken) fun _ => rfl
  case divergent =>
    exact fun hothers htaken hroom => branch_leads hbra (bra_divergent hbra hothers htaken hroom) fun _ => rfl
  case brxUntaken => exact fun htaken => branch_leads hbrx (brx_untaken hbrx htaken) fun _ => rfl
  case brxUniform =>
    exact fun htaken hothers hrange halign =>
      branch_leads hbrx (brx_uniform hbrx htaken hothers hrange halign) fun _ => rfl
  case exit =>
    exact branch_leads hexit (congrArg s.to (issueTg_of_issues hexit _)) fun _ => rfl

end Sys2Proof.Proofs.Branches
end

section
/-!
PROOFS. Placement, write-back and end of a group (R117 to R120, R129, R309): the registers of a placed group, the
register writes of a result, and the slot that a group leaves.
-/

namespace Sys2Proof.Proofs.GroupSlots
open Sys2Proof Sys2Proof.Machine Sys2Proof.Proofs.Answers Sys2Proof.Proofs.GroupFrames

variable {s : State} {core : Nat}

/-! ## Placement (R117 to R120) -/

/-- The group that takes a slot, for the group `w` of the launch `nd`. -/
def placed (d : Dev) (core : Nat) (w : WaitGroup) (nd : Node) : Group :=
  { placedGroup nd w.num ((d.logicalOf nd.pitch core).getD 0) (d.core core).ageNext (d.ctx nd.cid).compat d.time with
    node := w.node }

/-- The core once the group stands in slot `n`. -/
def placeOn (d : Dev) (core n : Nat) (w : WaitGroup) (rest : List WaitGroup) (nd : Node) (k : Core) : Core :=
  { k with waiting := rest, slots := tset k.slots n (placed d core w nd), ageNext := k.ageNext + 1
           lastPlace := some d.time }

theorem groupPlace_gives {n : Nat} {w : WaitGroup} {rest : List WaitGroup} {nd : Node}
    (hwaiting : (s.dev.core core).waiting = w :: rest) (hslot : (s.dev.core core).freeSlot s.dev.time = some n)
    (hnode : s.dev.node? w.node = some nd) (hplace : (s.dev.core core).lastPlace ≠ some s.dev.time)
    (hsaved : (s.dev.core core).saved = false) (htesting : (s.dev.core core).testing = false)
    (hlive : (s.dev.ctx nd.cid).live = true) :
    Gives (.groupPlace core) s (s.dev.modCore core (placeOn s.dev core n w rest nd)) := by
  refine gives_of_eq rfl ?_
  simp only [hwaiting, hslot, hnode]
  exact if_neg (by simp [hplace, hsaved, htesting, hlive])

theorem lookup?_graph {α : Type} (f : Nat → α) (l : List Nat) (k : Nat) :
    lookup? (l.map fun x => (x, f x)) k = if k ∈ l then some (f k) else none := by
  induction l with
  | nil => rfl
  | cons x l ih =>
    rw [List.map_cons, lookup?, ih]
    by_cases h : x = k
    · simp [h]
    · simp [h, Ne.symm h]

/-- t0 holds the number of the lane, every other thread register 0 (R120). -/
theorem placed_t (d : Dev) (w : WaitGroup) (nd : Node) (r : Nat) {l : Nat} (hl : l < 32) :
    (placed d core w nd).t r l = if r = 0 then BitVec.ofNat 32 l else 0 := by
  have hlookup := lookup?_graph (BitVec.ofNat 32) ((List.range 32).filter fun l => l != 0) (32 * r + l)
  refine (congrArg (Option.getD · 0) hlookup).trans ?_
  rcases Nat.eq_zero_or_pos r with rfl | hr
  · rcases Nat.eq_zero_or_pos l with rfl | hl0
    · rfl
    · simp [hl, Nat.ne_of_gt hl0]
  · have hfar : ¬ 32 * r + l < 32 := by omega
    simp [hfar, Nat.ne_of_gt hr]

theorem placed_active (d : Dev) (w : WaitGroup) (nd : Node) : (placed d core w nd).active = List.range 32 := by
  change bitsOf 32 (0xFFFFFFFF : W32).toNat = List.range 32
  decide

/-- The scalar registers that R120 names. -/
theorem placed_s (d : Dev) (w : WaitGroup) (nd : Node) (r : Nat) : (placed d core w nd).s r =
    if r = 5 then BitVec.ofNat 32 (nd.field 0x24 2)
    else if r = 4 then BitVec.ofNat 32 (nd.field 0x20 4)
    else if r = 3 then nd.layer ++ nd.oper
    else if r = 2 then BitVec.ofNat 32 ((d.logicalOf nd.pitch core).getD 0)
    else if r = 1 then BitVec.ofNat 32 (nd.field 0x30 4)
    else if r = 0 then BitVec.ofNat 32 w.num else 0 := by
  simp only [Group.s, placed, placedGroup, tget_tput]
  rfl

theorem placed_p (d : Dev) (w : WaitGroup) (nd : Node) {r : Nat} (hr : r < 7) (l : Nat) :
    (placed d core w nd).p r l = false := by
  simp [Group.p, placed, placedGroup, tget, lookup?, Nat.ne_of_lt hr]

/-! ## Write-back (R129) -/

/-- A write of a register changes the register files and their poison alone. -/
theorem wr_eq (g : Group) (v : RegVal) : ∃ treg sreg preg tpois spois ppois, g.wr v = { g with
    treg := treg, sreg := sreg, preg := preg, tpois := tpois, spois := spois, ppois := ppois } := by
  unfold Group.wr
  split
  · exact ⟨_, _, _, _, _, _, rfl⟩
  · exact ⟨_, _, _, _, _, _, rfl⟩
  · split <;> exact ⟨_, _, _, _, _, _, rfl⟩

/-- What no write of a register changes, the writes of a result do not change. -/
theorem wrAll_leaves {β : Type} (view : Group → β) (hwr : ∀ g v, view (g.wr v) = view g) (g : Group)
    (vs : List RegVal) : view (g.wrAll vs) = view g := by
  induction vs generalizing g with
  | nil => rfl
  | cons v vs ih => exact (ih (g.wr v)).trans (hwr g v)

@[simp] theorem wrAll_stack (g : Group) (vs : List RegVal) : (g.wrAll vs).stack = g.stack :=
  wrAll_leaves Group.stack (fun g v => by obtain ⟨_, _, _, _, _, _, h⟩ := wr_eq g v; rw [h]) g vs

@[simp] theorem wrAll_pend (g : Group) (vs : List RegVal) : (g.wrAll vs).pend = g.pend :=
  wrAll_leaves Group.pend (fun g v => by obtain ⟨_, _, _, _, _, _, h⟩ := wr_eq g v; rw [h]) g vs

@[simp] theorem wrAll_accs (g : Group) (vs : List RegVal) : (g.wrAll vs).accs = g.accs :=
  wrAll_leaves Group.accs (fun g v => by obtain ⟨_, _, _, _, _, _, h⟩ := wr_eq g v; rw [h]) g vs

@[simp] theorem wrAll_notReady (g : Group) (vs : List RegVal) : (g.wrAll vs).notReady = g.notReady :=
  wrAll_leaves Group.notReady (fun g v => by obtain ⟨_, _, _, _, _, _, h⟩ := wr_eq g v; rw [h]) g vs

/-- The group once its one pending result has been written. -/
def writtenBack (g : Group) (p : PendWrite) : Group := { (g.wrAll p.vals).ready p.dests with pend := [] }

theorem mem_writtenBack_notReady (g : Group) (p : PendWrite) (r : RegRef) :
    r ∈ (writtenBack g p).notReady ↔ r ∈ g.notReady ∧ r ∉ p.dests := by
  simp [writtenBack, Group.ready]

theorem resultWriteback_gives {slot : Nat} {g : Group} {p : PendWrite} (hgroup : s.dev.group? core slot = some g)
    (hpend : g.pend = [p]) (hdue : p.due ≤ s.dev.time) :
    ∃ d', Gives (.resultWriteback core slot) s d' ∧ d'.group? core slot = some (writtenBack g p)
      ∧ d'.mem = s.dev.mem := by
  refine ⟨_, rfl, ?_, rfl⟩
  rw [group?_modGroup_of_some _ hgroup]
  simp [hpend, hdue, writtenBack, Group.ready]

/-! ## End (R116, R309) -/

/-- The core once the group of a slot has left it. -/
def freed (d : Dev) (slot : Nat) (k : Core) : Core :=
  { k with slots := tdel k.slots slot, freedAt := tset k.freedAt slot d.time
           loads := k.loads.filter fun l => l.2.slot != slot }

/-- The module once a group has left its slot, before the core halts if it was the last. -/
def ended (d : Dev) (core slot : Nat) (g : Group) : Dev :=
  (d.modCore core (freed d slot)).modNode g.node fun n => { n with groupsLeft := n.groupsLeft - 1 }

theorem groupEnd_gives {slot : Nat} {g : Group} (hgroup : s.dev.group? core slot = some g) (hstack : g.stack = [])
    (hhalted : g.halted = false) (hstep : g.stepping ≠ 2) (hdrained : s.dev.groupDrained g = true) :
    Gives (.groupEnd core slot) s ((ended s.dev core slot g).haltCore core) := by
  refine gives_of_eq rfl ?_
  simp only [hgroup]
  exact if_neg (by simp [hstack, hhalted, hstep, hdrained])

theorem ended_group? (d : Dev) (core slot n : Nat) (g : Group) :
    (ended d core slot g).group? core n = if n = slot then none else d.group? core n := by
  refine (group?_modCore_self d core n _).trans ?_
  by_cases h : n = slot
  · rw [if_pos h, h]
    exact lookup?_tdel_self _ slot
  · rw [if_neg h]
    exact lookup?_tdel_ne _ h

theorem ended_node? {d : Dev} {core slot : Nat} {g : Group} {nd : Node} (h : d.node? g.node = some nd) :
    (ended d core slot g).node? g.node = some { nd with groupsLeft := nd.groupsLeft - 1 } := by
  rw [ended, node?_modNode_self]
  exact congrArg (Option.map _) h

/-! ## R117, R120, R129, R309 -/

/-- Settles O14: a placed group by its slot and its registers, an ended one by its slot and its launch, a result by what
its write leaves of the group. -/
theorem groupsComeAndGo : Obligations.GroupsComeAndGo := by
  refine ⟨fun s core n w rest nd => ?place, fun s core slot g => ?leave⟩
  case place =>
    intro d k hwaiting hslot hnode hplace hsaved htesting hlive
    refine leads_of_gives (groupPlace_gives hwaiting hslot hnode hplace hsaved htesting hlive) ?_
    have hgroup (m : Nat) : (d.modCore core (placeOn d core n w rest nd)).group? core m
        = if m = n then some (placed d core w nd) else d.group? core m :=
      (group?_modCore_self ..).trans (lookup?_tset ..)
    refine ⟨_, (hgroup n).trans (if_pos rfl), rfl, placed_active d w nd, rfl, rfl,
      placed_s d w nd 0, placed_s d w nd 1, placed_s d w nd 2, placed_s d w nd 3, placed_s d w nd 4, placed_s d w nd 5,
      fun l hl => placed_t d w nd 0 hl,
      fun r l hr hl => (placed_t d w nd r hl).trans (if_neg (Nat.ne_of_gt hr)), fun r l hr _ => placed_p d w nd hr l,
      ?waiting, ?lastPlace,
      fun m hm => (hgroup m).trans (if_neg hm), fun c hc => core_modCore_ne d _ hc, rfl⟩
    case waiting => rw [core_modCore_self]; rfl
    case lastPlace => rw [core_modCore_self]; rfl
  case leave =>
    intro d hgroup
    refine ⟨fun hstack hhalted hstep hdrained => ?ends, fun p hpend hdue => ?writes⟩
    case ends =>
      have hframe := haltCore_leavesGroups (ended d core slot g) core
      refine leads_of_gives (groupEnd_gives hgroup hstack hhalted hstep hdrained)
        ⟨?freed, fun n hn => ?others, fun nd hnode => ?launch⟩
      case freed => exact (hframe.group? core slot).trans ((ended_group? ..).trans (if_pos rfl))
      case others => exact (hframe.group? core n).trans ((ended_group? ..).trans (if_neg hn))
      case launch =>
        rw [Dev.node?, hframe.board]
        exact ended_node? hnode
    case writes =>
      obtain ⟨d', hgives, hgroup', hmem⟩ := resultWriteback_gives hgroup hpend hdue
      refine ⟨d', hgives, _, hgroup', rfl, fun r hr hbusy => ?ready, fun r hr hbusy => ?busy, rfl, rfl, rfl,
        wrAll_stack g p.vals, wrAll_accs g p.vals, hmem⟩
      case ready => exact ((mem_writtenBack_notReady g p r).1 hbusy).2 hr
      case busy => exact (mem_writtenBack_notReady g p r).2 ⟨hbusy, hr⟩

end Sys2Proof.Proofs.GroupSlots
end

section
/-!
PROOFS. The debug commands (R154, R155, R492): a write to CORE_DBG_CTL either runs its action on a slot that was halted
at the start of the cc or is refused, and every action stays on that slot.
-/

namespace Sys2Proof.Proofs.Debugging
open Sys2Proof Sys2Proof.Machine Sys2Proof.Proofs.Answers Sys2Proof.Proofs.StartUpFrames
  Sys2Proof.Proofs.GroupFrames

variable {s : State} {d : Dev} {fn : Fn} {core slot : Nat} {g : Group}

/-! ## One slot of one core -/

/-- From `d` to `d'`, the groups of the other slots, the other cores and memory stay. -/
structure OnSlot (d d' : Dev) (core slot : Nat) : Prop where
  slots : ∀ n, n ≠ slot → d'.group? core n = d.group? core n
  cores : ∀ c, c ≠ core → d'.core c = d.core c
  mem : d'.mem = d.mem

namespace OnSlot

variable {d' e : Dev}

theorem trans (h : OnSlot d d' core slot) (k : OnSlot d' e core slot) : OnSlot d e core slot :=
  ⟨fun n hn => (k.slots n hn).trans (h.slots n hn), fun c hc => (k.cores c hc).trans (h.cores c hc),
    k.mem.trans h.mem⟩

theorem modCore {f : Core → Core} (hf : (f (d.core core)).slots = (d.core core).slots) :
    OnSlot d (d.modCore core f) core slot :=
  ⟨fun n _ => group?_modCore hf core n, fun _ => core_modCore_ne d f, rfl⟩

theorem modGroup (f : Group → Group) : OnSlot d (d.modGroup core slot f) core slot :=
  ⟨fun _ => group?_modGroup_slot d core f, fun _ => core_modGroup_ne d slot f, rfl⟩

end OnSlot

/-- An update of a group leaves what its core holds beside the slots. -/
theorem dbgResult_modGroup (d : Dev) (core slot : Nat) (f : Group → Group) :
    ((d.modGroup core slot f).core core).dbgResult = (d.core core).dbgResult := by
  rw [Dev.modGroup, core_modCore_self]

theorem dbgSlot_modGroup (d : Dev) (core slot : Nat) (f : Group → Group) :
    ((d.modGroup core slot f).core core).dbgSlot = (d.core core).dbgSlot := by
  rw [Dev.modGroup, core_modCore_self]

/-! ## CORE_DBG_CTL -/

/-- The word of CORE_DBG_CTL for a slot and an action. -/
def ctlWord (slot action : Nat) : W32 := BitVec.ofNat 32 (slot + 2 ^ 8 * action)

theorem ctlWord_slot (hslot : slot < 48) (action : Nat) :
    dbgSlotOf (ctlWord slot action) = slot := by
  simp only [dbgSlotOf, ctlWord, fld, BitVec.toNat_ofNat, Nat.shiftRight_eq_div_pow]
  omega

theorem ctlWord_action (hslot : slot < 48) {action : Nat} (haction : action < 4) :
    fld (ctlWord slot action).toNat 8 3 = action := by
  simp only [ctlWord, fld, BitVec.toNat_ofNat, Nat.shiftRight_eq_div_pow]
  omega

theorem dbgHalted_modCore {f : Core → Core} (hslot : slot < 48)
    (hf : (f (d.core core)).slots = (d.core core).slots) :
    (d.modCore core f).dbgHalted core slot = d.dbgHalted core slot := by
  rw [Dev.dbgHalted, Dev.dbgHalted, if_neg (by omega), if_neg (by omega), group?_modCore hf, modCore_time]

/-- A slot below 48 is halted if its group halted before this cc (R154). -/
theorem dbgHalted_iff (hslot : slot < 48) (hgroup : d.group? core slot = some g) :
    d.dbgHalted core slot = true ↔ g.halted = true ∧ g.haltedAt ≠ some d.time := by
  rw [Dev.dbgHalted, if_neg (by omega), hgroup]
  simp

/-- The module once the write has named its slot, with a result. -/
def named (d : Dev) (core slot result : Nat) : Dev :=
  d.modCore core fun k => { k with dbgSlot := slot, dbgResult := result }

theorem named_group? (d : Dev) (core slot result c n : Nat) : (named d core slot result).group? c n = d.group? c n :=
  group?_modCore rfl c n

theorem named_onSlot (d : Dev) (core slot result : Nat) : OnSlot d (named d core slot result) core slot := .modCore rfl

theorem dbgCtl_eq {action : Nat} (hreach : d.reachDbg fn core = true) (hslot : slot < 48) (haction : action < 4)
    (f : Dev → Nat → Dev) : d.dbgCtl fn core (ctlWord slot action) action f =
      if d.dbgHalted core slot = true then f (named d core slot 0) slot else named d core slot 1 := by
  rw [Dev.dbgCtl, ctlWord_slot hslot action, ctlWord_action hslot haction, hreach]
  simp only [dbgHalted_modCore hslot, modCore_modCore]
  cases d.dbgHalted core slot <;> simp [named, Nat.not_lt.2 (Nat.le_of_lt hslot)]

section Ctl
variable {action : Nat} {f : Dev → Nat → Dev} (hreach : d.reachDbg fn core = true) (hslot : slot < 48)
  (haction : action < 4) (hgroup : d.group? core slot = some g)
include hreach hslot haction hgroup

theorem dbgCtl_halted (hhalted : g.halted = true) (hbefore : g.haltedAt ≠ some d.time) :
    d.dbgCtl fn core (ctlWord slot action) action f = f (named d core slot 0) slot :=
  (dbgCtl_eq hreach hslot haction f).trans (if_pos ((dbgHalted_iff hslot hgroup).2 ⟨hhalted, hbefore⟩))

theorem dbgCtl_refused (hruns : g.halted = false ∨ g.haltedAt = some d.time) :
    d.dbgCtl fn core (ctlWord slot action) action f = named d core slot 1 := by
  refine (dbgCtl_eq hreach hslot haction f).trans (if_neg fun h => ?_)
  obtain ⟨hhalted, hbefore⟩ := (dbgHalted_iff hslot hgroup).1 h
  rcases hruns with hruns | hruns
  · exact absurd hhalted (by simp [hruns])
  · exact hbefore hruns

end Ctl

/-- DBG_SELECT is the action 0 of CORE_DBG_CTL, and does nothing more. -/
theorem dbgSelect_eq (hslot : slot < 48) : exec (.dbgSelect fn core (ctlWord slot 0)) s
    = s.to (s.dev.dbgCtl fn core (ctlWord slot 0) 0 fun d _ => d) := by
  refine congrArg s.to (if_pos ?_)
  rw [ctlWord_action hslot (by decide)]
  decide

/-- A released group: it left the halted state, for one instruction or for good, and an entry whose PC was set to its
RPC is popped (R134, R154). -/
def released (stepping : Nat) (g : Group) : Group :=
  { g with halted := false, stepping := stepping, stack := popStack g.stack }

section Actions
variable (hreach : s.dev.reachDbg fn core = true) (hslot : slot < 48) (hgroup : s.dev.group? core slot = some g)
  (hhalted : g.halted = true) (hbefore : g.haltedAt ≠ some s.dev.time)
include hreach hslot hgroup hhalted hbefore

theorem dbgSelect_gives : Gives (.dbgSelect fn core (ctlWord slot 0)) s (named s.dev core slot 0) :=
  gives_of_eq (dbgSelect_eq hslot) (dbgCtl_halted hreach hslot (by decide) hgroup hhalted hbefore)

theorem dbgStep_gives : Gives (.dbgStep fn core (ctlWord slot 1)) s
    ((named s.dev core slot 2).modGroup core slot (released 1)) := by
  refine gives_of_eq rfl ((dbgCtl_halted hreach hslot (by decide) hgroup hhalted hbefore).trans ?_)
  refine (if_neg (by omega)).trans ?_
  rw [named, modCore_modCore]
  rfl

theorem dbgResume_gives : Gives (.dbgResume fn core (ctlWord slot 2)) s
    ((named s.dev core slot 0).modGroup core slot (released 0)) := by
  refine gives_of_eq rfl ((dbgCtl_halted hreach hslot (by decide) hgroup hhalted hbefore).trans ?_)
  exact if_neg (by omega)

theorem dbgKill_gives : Gives (.dbgKill fn core (ctlWord slot 3)) s
    ((named s.dev core slot 0).killContext g.cid g.haltCode) := by
  refine gives_of_eq rfl ((dbgCtl_halted hreach hslot (by decide) hgroup hhalted hbefore).trans ?_)
  refine (if_neg (by omega)).trans ?_
  rw [named_group?, hgroup]

end Actions

/-- What the release of the named slot leaves. -/
theorem released_outcome (hgroup : d.group? core slot = some g) (result stepping : Nat) :
    let d' := (named d core slot result).modGroup core slot (released stepping)
    d'.group? core slot = some (released stepping g) ∧ (d'.core core).dbgResult = result
      ∧ OnSlot d d' core slot := by
  refine ⟨?group, ?result, .trans (named_onSlot d core slot result) (.modGroup _)⟩
  case group => exact group?_modGroup_of_some _ ((named_group? ..).trans hgroup)
  case result => rw [dbgResult_modGroup, named, core_modCore_self]

/-! ## The end of a context (R149) -/

theorem faultVector_ctx (d : Dev) (f cid : Nat) : (d.faultVector f).ctx cid = d.ctx cid := by
  obtain ⟨_, _, _, h⟩ := msix_eq d f (if f = 0 then 2 else 0)
  rw [Dev.faultVector, h]
  rfl

theorem live_iff (x : Ctx) : x.live = true ↔ x.exists_ = true ∧ x.dying = false ∧ x.killed = false := by
  simp [Ctx.live, and_assoc]

theorem forEach_modCore_ctx (d : Dev) (l : List Nat) (f : Nat → Core → Core) (cid : Nat) :
    (d.forEach l fun d c => d.modCore c (f c)).ctx cid = d.ctx cid :=
  forEach_leaves (f := fun e c => e.modCore c (f c)) (fun e => e.ctx cid) (fun _ _ => rfl) l d

theorem modBoard_ctx (d : Dev) (f : Board → Board) (cid : Nat) : (d.modBoard f).ctx cid = d.ctx cid := rfl

theorem ctx_setCtx (d : Dev) (cid : Nat) (x : Ctx) : (d.setCtx cid x).ctx cid = x := tget_tset_self ..

/-- The teardown of a context that exists keeps its fault code. -/
theorem startTeardown_ctx {cid : Nat} (by_ : Option Nat) (quiet : Bool) (hexists : (d.ctx cid).exists_ = true)
    (hdying : (d.ctx cid).dying = false) :
    ((d.startTeardown cid by_ quiet).ctx cid).dying = true
    ∧ ((d.startTeardown cid by_ quiet).ctx cid).fault = (d.ctx cid).fault := by
  unfold Dev.startTeardown
  dsimp only
  rw [if_neg (by simp [hexists, hdying]), forEach_modCore_ctx, modBoard_ctx, ctx_setCtx]
  exact ⟨rfl, rfl⟩

theorem killContext_ctx {cid : Nat} (code : Nat) (hlive : (d.ctx cid).live = true) (hfault : (d.ctx cid).fault = 0) :
    ((d.killContext cid code).ctx cid).dying = true ∧ ((d.killContext cid code).ctx cid).fault = code := by
  obtain ⟨hexists, hdying, hkilled⟩ := (live_iff _).1 hlive
  rw [Dev.killContext, if_neg (by simp [hexists, hdying, hkilled]), faultVector_ctx]
  have hnoted := ctx_modCtx_self d cid fun x => { x with fault := if x.fault = 0 then code else x.fault }
  rw [hfault, if_pos rfl] at hnoted
  obtain ⟨hends, hcode⟩ := startTeardown_ctx none false ((congrArg Ctx.exists_ hnoted).trans hexists)
    ((congrArg Ctx.dying hnoted).trans hdying)
  exact ⟨hends, hcode.trans (congrArg Ctx.fault hnoted)⟩

/-! ## DBG_STEP_END (R154) -/

/-- The group halted once its stepped instruction is over. -/
def haltedAgain (t : Nat) (g : Group) : Group :=
  { g with halted := true, haltCode := 0, haltedAt := some t, stepping := 0 }

theorem stepOver_slots (k : Core) (slot : Nat) : (k.stepOver slot).slots = k.slots := by
  unfold Core.stepOver
  split <;> rfl

theorem stepOver_of_named {k : Core} (hnamed : k.dbgSlot = slot) (hresult : k.dbgResult = 2) :
    k.stepOver slot = { k with dbgResult := 0 } := if_pos (by simp [hnamed, hresult])

theorem dbgStepEnd_gives (hslot : slot < 48) (hgroup : s.dev.group? core slot = some g) (hstep : g.stepping = 2)
    (hpend : g.pend = []) (hready : g.notReady = []) (hstage : (s.dev.core core).stage = none) :
    Gives (.dbgStepEnd core slot) s
      ((s.dev.modGroup core slot (haltedAgain s.dev.time)).modCore core fun k => k.stepOver slot) := by
  refine gives_of_eq rfl ((if_neg (by omega)).trans ?_)
  simp only [hgroup]
  exact if_pos (by simp [hstep, hpend, hready, hstage])

/-! ## CORE_DBG_RDATA (R155) -/

/-- The word of CORE_DBG_RSEL for register t`n` in a lane. -/
theorem rsel_fields {n lane : Nat} (hn : n < 64) (hlane : lane < 32) :
    let r := (BitVec.ofNat 32 (2 ^ 16 * lane + 2 ^ 8 * n) : W32).toNat
    fld r 16 5 = lane ∧ fld r 8 6 = n ∧ fld r 0 3 = 0 := by
  simp only [fld, BitVec.toNat_ofNat, Nat.shiftRight_eq_div_pow]
  omega

/-- The write of a thread register in one lane. -/
def writeT (n lane : Nat) (v : W32) (g : Group) : Group := g.wr { reg := .t n, lane := lane, val := v, pois := false }

theorem writeT_t (g : Group) (n lane : Nat) (v : W32) (r l : Nat) :
    (writeT n lane v g).t r l = if 32 * r + l = 32 * n + lane then v else g.t r l := tget_tput ..

theorem writeT_rdPois (g : Group) (n lane : Nat) (v : W32) : (writeT n lane v g).rdPois false n lane = false :=
  (tget_tput false g.tpois (32 * n + lane) (32 * n + lane) false).trans (if_pos rfl)

theorem dbgRdataWrite_gives {v : W32} {n lane : Nat} (hreach : s.dev.reachDbg fn core = true) (hslot : slot < 48)
    (hgroup : s.dev.group? core slot = some g) (hhalted : g.halted = true) (hbefore : g.haltedAt ≠ some s.dev.time)
    (hnamed : (s.dev.core core).dbgSlot = slot) (hn : n < 64) (hlane : lane < 32)
    (hrsel : (s.dev.core core).dbgRsel = BitVec.ofNat 32 (2 ^ 16 * lane + 2 ^ 8 * n)) :
    Gives (.dbgRdataWrite fn core v) s (s.dev.modGroup core slot (writeT n lane v)) := by
  obtain ⟨hfield, hindex, hfile⟩ := rsel_fields hn hlane
  have hstopped := (dbgHalted_iff hslot hgroup).2 ⟨hhalted, hbefore⟩
  refine gives_of_eq rfl ?_
  simp only [hnamed, hrsel, hfield, hindex, hfile]
  rw [if_neg (by simp [hreach]), if_neg (by simp [hstopped]), if_neg (by omega)]
  rfl

/-! ## The flags of a context (R148, R190, R492) -/

/-- The context once its flags have been written. -/
def flagged (d : Dev) (v : W32) (x : Ctx) : Ctx :=
  { x with audit := v.getLsbD 1
           compat := if v.getLsbD 0 && !d.unlocked x.pitch then x.compat else v.getLsbD 0 }

section Flags
variable {v : W32} {x : Ctx}

theorem flagged_compat_of_unlocked (h : d.unlocked x.pitch = true) : (flagged d v x).compat = v.getLsbD 0 := by
  simp only [flagged, h, Bool.not_true, Bool.and_false]
  rfl

theorem flagged_compat_of_clear (h : v.getLsbD 0 = false) : (flagged d v x).compat = false := by
  simp only [flagged, h, Bool.false_and]
  rfl

theorem flagged_compat_of_locked (hset : v.getLsbD 0 = true) (hlocked : d.unlocked x.pitch = false) :
    (flagged d v x).compat = x.compat := by
  simp only [flagged, hset, hlocked]
  rfl

end Flags

theorem ctxFlagsWrite_gives {cid : Nat} (v : W32) (hreach : s.dev.reachCtx fn cid = true)
    (hexists : (s.dev.ctx cid).exists_ = true) :
    Gives (.ctxFlagsWrite fn cid v) s (s.dev.modCtx cid (flagged s.dev v)) :=
  gives_of_eq rfl (if_neg (by simp [hreach, hexists]))

/-! ## R134, R154, R155, R492 -/

/-- Settles O37: each command by whether its slot was halted at the start of the cc, and by what it leaves of the
group. -/
theorem debugging : Obligations.Debugging := by
  intro s fn core slot g d k ctl others hreach hslot hgroup
  have hothers {d' : Dev} (h : OnSlot d d' core slot) : others d' := ⟨h.slots, h.cores, h.mem⟩
  refine ⟨fun hhalted hbefore => ⟨?select, ?step, ?resume, ?kill, ?rdata⟩, ?refused, ?stepEnd, ?flags⟩
  case select => exact dbgSelect_gives hreach hslot hgroup hhalted hbefore
  case step =>
    obtain ⟨hreleased, hresult, honSlot⟩ := released_outcome hgroup 2 1
    exact ⟨_, dbgStep_gives hreach hslot hgroup hhalted hbefore, hreleased, hresult, hothers honSlot⟩
  case resume =>
    obtain ⟨hreleased, hresult, honSlot⟩ := released_outcome hgroup 0 0
    exact ⟨_, dbgResume_gives hreach hslot hgroup hhalted hbefore, hreleased, hresult, hothers honSlot⟩
  case kill =>
    exact fun hlive hfault =>
      ⟨_, dbgKill_gives hreach hslot hgroup hhalted hbefore, killContext_ctx g.haltCode hlive hfault⟩
  case rdata =>
    intro hnamed v n lane hn hlane hrsel
    refine ⟨_, dbgRdataWrite_gives hreach hslot hgroup hhalted hbefore hnamed hn hlane hrsel, _,
      group?_modGroup_of_some _ hgroup, (writeT_t ..).trans (if_pos rfl), writeT_rdPois .., fun r l hne _ hl => ?_, rfl,
      hothers (.modGroup _)⟩
    exact (writeT_t ..).trans (if_neg (by omega))
  case refused =>
    intro hruns k' hk'
    simp only [List.mem_cons, List.not_mem_nil, or_false] at hk'
    rcases hk' with rfl | rfl | rfl | rfl
    · exact gives_of_eq (dbgSelect_eq hslot) (dbgCtl_refused hreach hslot (by decide) hgroup hruns)
    all_goals exact gives_of_eq rfl (dbgCtl_refused hreach hslot (by decide) hgroup hruns)
  case stepEnd =>
    intro hstep hpend hready hstage hnamed hresult
    refine leads_of_gives (dbgStepEnd_gives hslot hgroup hstep hpend hready hstage)
      ⟨?group, ?result, hothers ?onSlot⟩
    case group =>
      exact (group?_modCore (stepOver_slots ..) core slot).trans (group?_modGroup_of_some _ hgroup)
    case result =>
      rw [core_modCore_self, stepOver_of_named ((dbgSlot_modGroup ..).trans hnamed)
        ((dbgResult_modGroup ..).trans hresult)]
    case onSlot => exact .trans (.modGroup _) (.modCore (stepOver_slots ..))
  case flags =>
    intro cid v hreachCtx hexists
    refine leads_of_gives (ctxFlagsWrite_gives v hreachCtx hexists) ?_
    rw [ctx_modCtx_self]
    exact ⟨rfl, flagged_compat_of_unlocked, flagged_compat_of_clear, flagged_compat_of_locked,
      fun c hc => ctx_modCtx_ne d _ hc, rfl⟩

end Sys2Proof.Proofs.Debugging
end

section
/-!
PROOFS. A memory instruction takes the next number of `Dev.fresh` for its operation, and as it leaves the address stage
the load of that number is finished if it has its bytes (`Dev.finishLoad`). For ATOM (R138) there is none, as long as no
load in progress has a number that has not been given out. The statement asks this for L1INV's own number, 0, and leaves
it out for ATOM, so a module in which a load has the next number refutes it.
-/

namespace Sys2Proof.Proofs.NumberedOperations
open Sys2Proof Sys2Proof.Machine

/-- A load of lane 0 that has all its bytes, of value 1, for register t5 of the group in slot 0. -/
def loaded : LoadOp :=
  { slot := 0, width := 4, signed := false, acquire := false, dest := 5, lanes := [(0, 0)]
    got := [(0, 0, 1), (0, 1, 0), (0, 2, 0), (0, 3, 0)] }

/-- A group of lane 0 at PC 0. -/
def laneZero : Group := { stack := [{ pc := 0, rpc := 0xFFFF, mask := 1 }] }

/-- A range of 64 KiB from address 0 to the module's own memory, with the right to atomics. -/
def atomRange : RangeEntry := { len := 1, valid := true, a := true }

/-- ATOM ADD on a 32-bit word at the address in t0 and t1, unguarded. -/
def atomWord : Nat := 0x742

/-- A module whose core 0 issues the ATOM, while the load `loaded` has the number that the ATOM takes. -/
def clash : Dev :=
  { time := 8
    cores := [(0, { Core.init 0 with slots := [(0, laneZero)], touched := 1, loads := [(1, loaded)] })]
    mem := { bytes := setBytes [] (imemAddr 0 0) (leBytes 8 atomWord), nextTag := 1 }
    xl := { cache := [(0, [{ pitch := 64, cid := 0, ent := atomRange, used := 0 }])] }
    host := { ctxs := [(0, { exists_ := true })] } }

theorem clash_issues : Issues clash 0 0 0x42 laneZero (parseTg atomWord) := by
  unfold Issues
  decide +kernel

theorem clash_inLine : InLine clash 0 laneZero (parseTg atomWord) 0 fun _ => 0 := by
  have hlanes : laneZero.memLanes (parseTg atomWord) = [0] := by decide +kernel
  refine ⟨by simp [hlanes], rfl, rfl, fun l hl => ?_⟩
  obtain rfl : l = 0 := by simpa [hlanes] using hl
  exact ⟨by decide +kernel, by decide +kernel, by decide +kernel, atomRange, by decide +kernel, by decide +kernel,
    by decide +kernel⟩

theorem clash_homeLine : HomeLine clash 0 := ⟨rfl, rfl⟩

/-- The load is finished with the ATOM: t5 of lane 0 is written. -/
theorem clash_atom_treg :
    ((clash.enterStage 0 0 0x42 .clean).group? 0 0).map Group.treg = some [(32 * 5, 1)] := by
  decide +kernel

/-- Refutes O21: the clause of ATOM has the registers stay, also where a load in progress has the very number that the
ATOM takes, `mem.nextTag`; the command then finishes that load and writes its register. -/
theorem not_atomicsPrefetchesAndInvalidations : ¬ Obligations.AtomicsPrefetchesAndInvalidations := by
  intro h
  obtain ⟨hatom, -, -⟩ := h { dev := clash } 0 0 0 laneZero (parseTg atomWord) fun _ => 0
  obtain ⟨d', hgives, ⟨g', hgroup, -, htreg, -⟩, -⟩ :=
    hatom clash_issues clash_inLine clash_homeLine (by decide) rfl rfl rfl rfl
  have hdev : clash.enterStage 0 0 0x42 .clean = d' := congrArg State.dev (Host.Outcome.next.inj hgives)
  have hwritten := clash_atom_treg
  rw [hdev, hgroup, Option.map_some, htreg] at hwritten
  exact absurd hwritten (by decide)

end Sys2Proof.Proofs.NumberedOperations
end
